-- ==== Sys2Proof/Word.lean ====
section
/-! DEFINITION. The words of the machine and their plainest arithmetic: bytes, 32-bit and 64-bit
words, 256-bit registers (R89). -/

namespace Sys2Proof

/-- A byte of memory. -/
abbrev Byte := BitVec 8
/-- A 32-bit word: an s or k register, a system register. -/
abbrev W32 := BitVec 32
/-- A 64-bit word: an instruction word, an address pair. -/
abbrev W64 := BitVec 64
/-- A v register (R89). -/
abbrev V256 := BitVec 256

end Sys2Proof
end

