-- ==== Sys2Proof/Config.lean ====
section
/-! DEFINITION. What an implementation fixes and the values the spec leaves open: opaque constants, so
that no proof can lean on a value of theirs. -/

namespace Sys2Proof.Config

/-- The i-th value the spec leaves open in a run (early results, racing writers, an order between
agents): nothing constrains it. DESIGN CHOICE, safe (log 14). -/
opaque free : Nat → Nat

/-- Whether a TLB still holds, at a clock, the translation it had of a page of a context whose table entries
say otherwise by now (R404, R405). DESIGN CHOICE, safe (log 111). -/
opaque holds : Nat → Nat → Nat → Bool

/-- Whether a read at a clock finds the copy that a cache (an L1, a Prism cache, the decompressed lines of a
context) has of a line, rather than memory (R265, R279, R363). DESIGN CHOICE, safe (log 91). -/
opaque stale : Nat → Nat → Nat → Bool

/-- Whether a read of a sector of HBM at a clock finds one symbol to correct (R454). PRESUMED, safe (log 58). -/
opaque corrects : Nat → Nat → Bool

/-- How many more core clocks pass in the step that starts at a given count (R417): timing is outside
the model. DESIGN CHOICE, unsafe (log 12). -/
opaque clocks : Nat → Nat

/-- Bytes of the saved image of the gang with a given number (R407): R408 lists what the image holds and
gives no layout; one TiB bounds it. DESIGN CHOICE, unsafe (log 24). -/
opaque imageSize : Nat → BitVec 40

/-- SPARE_MAP (R482) of register number n, from the repair maps: the maps belong to one device.
DESIGN CHOICE, unsafe (log 8). -/
opaque repairMap : Nat → BitVec 32

/-- The Lenmet release key, whose digest is fused (R479). DESIGN CHOICE, safe (log 8). -/
opaque releaseKey : Vector Byte 32

/-- The fused minimum version of the firmware (R479). DESIGN CHOICE, safe (log 8). -/
opaque minVersion : BitVec 32

/-- The secret seed of the identity key (R480). DESIGN CHOICE, safe (log 8). -/
opaque identitySeed : Vector Byte 32

end Sys2Proof.Config
end

