-- ==== Sys2Proof/Syntax.lean ====
section
/-! DEFINITION. The Pythes instruction set as data: the fields a word carries (R40 to R56), and
`Instr`, one constructor for each row of the opcode table: the instruction words, the paired word,
a word of an unallocated opcode, and the machine's own steps (95_what_each_step_holds.md). -/

namespace Sys2Proof

/-- The type code `ty` (R45); codes 15 and 24 to 31 are reserved and have no constructor. -/
inductive Ty where
  | f32 | f16 | bf16 | e4m3 | e5m2 | e3m2 | e2m3 | nq4 | cbi | s8 | s16 | s32 | s64 | n8 | n16 | n32 | n64 | b8 | b16 | b32 | b64 | b128 | b256
  deriving DecidableEq, Repr

/-- The rounding modes (R46); codes 6 and 7 are reserved. -/
inductive Rm where
  | rn | rz | ru | rd | rna | sr
  deriving DecidableEq, Repr

/-- The scopes (R8, R49). -/
inductive Scope where
  | beam | wg | gang | dev | sys
  deriving DecidableEq, Repr

/-- The fields ord and sc together (R49): no ordering kind carries scope 0. -/
inductive Order where
  | none
  | acq (s : Scope)
  | rel (s : Scope)
  | ar (s : Scope)
  deriving DecidableEq, Repr

/-- A 7-bit register field (R42): a thread register of the class the opcode implies, or a uniform
register k. -/
inductive RF where
  | t (n : BitVec 6)
  | k (n : BitVec 6)
  deriving DecidableEq, Repr

/-- The fields every full word carries beside its opcode (R40): guard negate, guard predicate, flag
choice. -/
structure Hd where
  gn : Bool
  gp : BitVec 3
  cf : Bool
  deriving DecidableEq, Repr

/-- Format Z (R44). -/
structure ZF where
  d : RF
  a : RF
  b : RF
  c : RF
  rm : Rm
  ty : Ty
  cbk : BitVec 3
  cbs : BitVec 2
  hi : BitVec 3
  opx : BitVec 6
  deriving DecidableEq, Repr

/-- Format I (R47). -/
structure IF where
  d : RF
  a : RF
  imx : BitVec 4
  imm : BitVec 32
  deriving DecidableEq, Repr

/-- Format M (R48). The field b holds V and the layout for loads and stores (R249), a register
field for atomics (R299). -/
structure MF where
  d : RF
  a : RF
  ty : Ty
  ord : Order
  ch : BitVec 2
  b : RF
  off : BitVec 16
  deriving DecidableEq, Repr

/-- Format B (R50). -/
structure BF where
  off : BitVec 24
  a : RF
  q1 : BitVec 4
  q2 : BitVec 4
  q3 : BitVec 4
  bx : BitVec 7
  deriving DecidableEq, Repr

/-- Format X (R51). Bits 22 to 18 hold ty, or the ordering of MDRAIN (R230), so they stay bits. -/
structure XF where
  tile : BitVec 7
  a : RF
  b : RF
  fs : BitVec 3
  lay : BitVec 2
  reu : Bool
  tyo : BitVec 5
  c : RF
  cbk : BitVec 3
  cbx : Bool
  mx : BitVec 7
  deriving DecidableEq, Repr

/-- Format T (R52). -/
structure TF where
  d : RF
  a : RF
  b : RF
  ord : Order
  tc : BitVec 2
  tx : BitVec 21
  deriving DecidableEq, Repr

/-- Format Y (R53). -/
structure YF where
  d : RF
  a : RF
  sr : BitVec 16
  yx : BitVec 20
  deriving DecidableEq, Repr

/-- The allocated compact opcodes (R66); the last letter is the register class. -/
inductive Cop where
  | faddV | fsubV | fmulV | ffmaV | fminV | fmaxV | faddS | fsubS
  | fmulS | ffmaS | fminS | fmaxS | iaddS | isubS | imulS | imadS
  | iminS | imaxS | iaddV | isubV | movV | andS | orS | xorS
  | notS | shlS | shrS | sraS | popcS | clzS | andV | orV
  | xorV | selS | psetI | psetF | movS | frcpS | frsqS | fexp2S
  | flog2S | fabsS | fnegS | shlV | shrV | sraV
  deriving DecidableEq, Repr

/-- One half-op of a paired word (R56). -/
structure Half where
  cop : Cop
  d : BitVec 6
  a : BitVec 6
  b : BitVec 6
  gp : BitVec 3
  rm : BitVec 2
  hx : BitVec 2
  deriving DecidableEq, Repr

/-- A command a QCMD packet carries to a queue engine (R332): a push of one entry, a pop for a
core, a read of one of the five values of R340, a record for a bin of a node (R357), or a thread that a
gatherer spills (R346). -/
inductive QCmd where
  | push (q : Nat) (ctx : Nat) (entry : List (BitVec 8))
  | pop (q : Nat) (ctx : Nat) (core : Nat)
  | query (q : Nat) (ctx : Nat) (sel : Nat)
  | emit (launch : Nat) (ctx : Nat) (node : Nat) (src : Nat) (record : List (BitVec 8))
  | spill (q : Nat) (ctx : Nat) (core : Nat) (launch : Nat) (gang : Nat) (wg : Nat) (e : Nat) (num : Nat)
      (payload : List (BitVec 32 × BitVec 4))
  deriving DecidableEq, Repr

/-- A load, a store or an atomic that arrives from outside the package, at physical addresses. The
atomic carries the type and the operation code of R300, the compare-and-swap its two values. From a peer film commands come too (R376): FACC with
its samples and their wavelengths, FRES, clearing or not, and FCLR of a number of pixels. -/
inductive HostAccess where
  | load (p : Nat) (n : Nat)
  | store (p : Nat) (data : List (BitVec 8))
  | atomic (p : Nat) (ty : Ty) (op : Nat) (v : Nat)
  | cas (p : Nat) (ty : Ty) (cmp : Nat) (new : Nat)
  | facc (p : Nat) (vals : List (BitVec 32)) (lams : List (BitVec 32))
  | fres (p : Nat) (clr : Bool)
  | fclr (p : Nat) (n : Nat)
  deriving DecidableEq, Repr

/-- An inbound UALink request (R461). -/
abbrev PeerAccess := HostAccess

/-- What the outside party brings to one of the machine's own steps, and the place where the step
happens: plain data, read by the step of each machine event. Which field an event reads is said by
the event's own constructor. -/
structure EvArg where
  a : Nat := 0
  b : Nat := 0
  c : Nat := 0
  value : BitVec 32 := 0
  hdr : BitVec 128 := 0
  bytes : List (BitVec 8) := []
  masks : List (BitVec 32) := []
  acc : Option HostAccess := none
  cmd : Option QCmd := none
  flag : Bool := false
  /-- of a packet: the operation in flight that it serves, 0 for none, its threads and its address -/
  op : Nat := 0
  threads : BitVec 8 := 0
  va : Nat := 0
  deriving DecidableEq, Repr

/-- One constructor for each row of the opcode table: first the instruction words with their fields,
the paired word and a word of an unallocated opcode; then the machine's own steps, whose place and
outside values stand in an `EvArg`. -/
inductive Instr where
  /-- NOP (R159). Takes one side-pipe clock and does nothing. -/
  | nop (h : Hd) (f : ZF)
  /-- BR (R151). Splits the active threads on the guard and pushes a BR entry. -/
  | br (h : Hd) (f : BF)
  /-- BRU (R152). Branches a beam whose threads must agree. -/
  | bru (h : Hd) (f : BF)
  /-- BRM (R153). Multi-way branch over four selectors. -/
  | brm (h : Hd) (f : BF)
  /-- BRW (R156). Rendezvous of the workgroup, then compaction into taken and fall-through beams. -/
  | brw (h : Hd) (f : BF)
  /-- JMP (R158). Moves the whole beam to a PC-relative target. -/
  | jmp (h : Hd) (f : BF)
  /-- JMPI (R158). Moves the beam to a target held in a k pair. -/
  | jmpi (h : Hd) (f : BF)
  /-- CALL (R158). Writes the fall-through address to a link pair and jumps. -/
  | call (h : Hd) (f : BF)
  /-- CALLI (R158). Calls a target held in a k pair. -/
  | calli (h : Hd) (f : BF)
  /-- RET (R158). Returns to the address in a link pair. -/
  | ret (h : Hd) (f : BF)
  /-- RECONV (R154). Ends a path at its join or jumps to the join. -/
  | reconv (h : Hd) (f : BF)
  /-- LOOP (R155). Predicate form: closes a loop, keeping one LOOP entry. -/
  | loop (h : Hd) (f : BF)
  /-- LOOP_K (R155). Counter form: decrements a k register and branches while it is not zero. -/
  | loopK (h : Hd) (f : BF)
  /-- YIELD (R160). Lets the oldest other READY beam go first and flushes partial spawn beams. -/
  | yield (h : Hd) (f : BF)
  /-- WAITF (R160). Waits until named counters read at most n and raises their records. -/
  | waitf (h : Hd) (f : BF)
  /-- PSET (R162). Compares two values into a predicate. -/
  | pset (h : Hd) (f : ZF)
  /-- PAND (R161). Predicate AND. -/
  | pand (h : Hd) (f : ZF)
  /-- POR (R161). Predicate OR. -/
  | por (h : Hd) (f : ZF)
  /-- PXOR (R161). Predicate XOR. -/
  | pxor (h : Hd) (f : ZF)
  /-- PNOT (R161). Predicate NOT. -/
  | pnot (h : Hd) (f : ZF)
  /-- PMOV (R163). Moves predicates to or from registers. -/
  | pmov (h : Hd) (f : ZF)
  /-- VOTE (R164). Votes across the beam's threads. -/
  | vote (h : Hd) (f : ZF)
  /-- ELECT (R164). Elects the lowest taking-part thread. -/
  | elect (h : Hd) (f : ZF)
  /-- ACTMASK (R164). Writes the active or live mask. -/
  | actmask (h : Hd) (f : ZF)
  /-- MOV (R174). Copies bits and tag. -/
  | mov (h : Hd) (f : ZF)
  /-- MOVI (R179). Writes a 32-bit immediate pattern with tag 15. -/
  | movi (h : Hd) (f : IF)
  /-- IADD (R169). Register-form integer add, optionally saturating. -/
  | iadd (h : Hd) (f : ZF)
  /-- IADD_I (R179). Immediate-form integer add. -/
  | iaddI (h : Hd) (f : IF)
  /-- ISUB (R169). Integer subtract. -/
  | isub (h : Hd) (f : ZF)
  /-- IADDC (R170). Add with carry-in, writing the sum or the carry. -/
  | iaddc (h : Hd) (f : ZF)
  /-- IMUL (R169). Register-form integer multiply. -/
  | imul (h : Hd) (f : ZF)
  /-- IMUL_I (R179). Immediate-form integer multiply. -/
  | imulI (h : Hd) (f : IF)
  /-- IMULH (R169). High half of the product. -/
  | imulh (h : Hd) (f : ZF)
  /-- IMAD (R169). Integer multiply-add. -/
  | imad (h : Hd) (f : ZF)
  /-- IMUL64 (R171). 64-bit product of two 32-bit values. -/
  | imul64 (h : Hd) (f : ZF)
  /-- IADD64 (R171). 64-bit pair add. -/
  | iadd64 (h : Hd) (f : ZF)
  /-- IDIV (R172). Truncating integer divide. -/
  | idiv (h : Hd) (f : ZF)
  /-- IREM (R172). Integer remainder. -/
  | irem (h : Hd) (f : ZF)
  /-- IMIN (R169). Integer minimum. -/
  | imin (h : Hd) (f : ZF)
  /-- IMAX (R169). Integer maximum. -/
  | imax (h : Hd) (f : ZF)
  /-- IABS (R169). Integer absolute value. -/
  | iabs (h : Hd) (f : ZF)
  /-- INEG (R169). Integer negate. -/
  | ineg (h : Hd) (f : ZF)
  /-- AND (R169). Register-form bitwise AND. -/
  | and (h : Hd) (f : ZF)
  /-- AND_I (R179). Immediate-form bitwise AND. -/
  | andI (h : Hd) (f : IF)
  /-- OR (R169). Register-form bitwise OR. -/
  | or (h : Hd) (f : ZF)
  /-- OR_I (R179). Immediate-form bitwise OR. -/
  | orI (h : Hd) (f : IF)
  /-- XOR (R169). Register-form bitwise XOR. -/
  | xor (h : Hd) (f : ZF)
  /-- XOR_I (R179). Immediate-form bitwise XOR. -/
  | xorI (h : Hd) (f : IF)
  /-- NOT (R169). Bitwise complement. -/
  | not (h : Hd) (f : ZF)
  /-- SHL (R169). Register-form shift left. -/
  | shl (h : Hd) (f : ZF)
  /-- SHL_I (R179). Immediate-form shift left. -/
  | shlI (h : Hd) (f : IF)
  /-- SHR (R169). Register-form logical shift right. -/
  | shr (h : Hd) (f : ZF)
  /-- SHR_I (R179). Immediate-form logical shift right. -/
  | shrI (h : Hd) (f : IF)
  /-- SRA (R173). Register-form arithmetic shift right, optionally rounding. -/
  | sra (h : Hd) (f : ZF)
  /-- SRA_I (R179). Immediate-form arithmetic shift right. -/
  | sraI (h : Hd) (f : IF)
  /-- ROT (R169). Rotate left. -/
  | rot (h : Hd) (f : ZF)
  /-- CLZ (R169). Count leading zeros. -/
  | clz (h : Hd) (f : ZF)
  /-- POPC (R169). Population count. -/
  | popc (h : Hd) (f : ZF)
  /-- BREV (R169). Bit reverse. -/
  | brev (h : Hd) (f : ZF)
  /-- BFX (R175). Bit-field extract. -/
  | bfx (h : Hd) (f : ZF)
  /-- BFI (R175). Bit-field insert. -/
  | bfi (h : Hd) (f : ZF)
  /-- SEL (R174). Selects between two sources by predicate. -/
  | sel (h : Hd) (f : ZF)
  /-- ISET (R176). Register-form compare writing all ones or zero. -/
  | iset (h : Hd) (f : ZF)
  /-- ISET_I (R179). Immediate-form compare. -/
  | isetI (h : Hd) (f : IF)
  /-- LEA (R171). Register-form address pair plus scaled index. -/
  | lea (h : Hd) (f : ZF)
  /-- LEA_I (R179). Immediate-form address pair plus signed addend. -/
  | leaI (h : Hd) (f : IF)
  /-- IDP2 (R177). Packed 16-bit dot product with saturating accumulate. -/
  | idp2 (h : Hd) (f : ZF)
  /-- INARROW (R178). Halves the element width with saturation. -/
  | inarrow (h : Hd) (f : ZF)
  /-- FADD (R184). Register-form floating-point add. -/
  | fadd (h : Hd) (f : ZF)
  /-- FADD_I (R190). Immediate-form FP32 add. -/
  | faddI (h : Hd) (f : IF)
  /-- FSUB (R184). Floating-point subtract. -/
  | fsub (h : Hd) (f : ZF)
  /-- FMUL (R184). Register-form floating-point multiply. -/
  | fmul (h : Hd) (f : ZF)
  /-- FMUL_I (R190). Immediate-form FP32 multiply. -/
  | fmulI (h : Hd) (f : IF)
  /-- FFMA (R184). Fused multiply-add. -/
  | ffma (h : Hd) (f : ZF)
  /-- FFMS (R184). Fused multiply-subtract. -/
  | ffms (h : Hd) (f : ZF)
  /-- FFNM (R184). Fused negated multiply-add. -/
  | ffnm (h : Hd) (f : ZF)
  /-- FMIN (R185). Floating-point minimum. -/
  | fmin (h : Hd) (f : ZF)
  /-- FMAX (R185). Floating-point maximum. -/
  | fmax (h : Hd) (f : ZF)
  /-- FABS (R188). Clears the sign bit. -/
  | fabs (h : Hd) (f : ZF)
  /-- FNEG (R188). Inverts the sign bit. -/
  | fneg (h : Hd) (f : ZF)
  /-- FCMP (R186). Floating-point compare writing all ones or zero. -/
  | fcmp (h : Hd) (f : ZF)
  /-- FCLAMP (R187). Clamps between two bounds. -/
  | fclamp (h : Hd) (f : ZF)
  /-- FRCP (R191). Reciprocal. -/
  | frcp (h : Hd) (f : ZF)
  /-- FRSQ (R191). Reciprocal square root. -/
  | frsq (h : Hd) (f : ZF)
  /-- FSQRT (R191). Square root. -/
  | fsqrt (h : Hd) (f : ZF)
  /-- FDIV (R183). Division. -/
  | fdiv (h : Hd) (f : ZF)
  /-- FEXP2 (R191). Base-2 exponential. -/
  | fexp2 (h : Hd) (f : ZF)
  /-- FLOG2 (R191). Base-2 logarithm. -/
  | flog2 (h : Hd) (f : ZF)
  /-- FSIN (R191). Sine. -/
  | fsin (h : Hd) (f : ZF)
  /-- FCOS (R191). Cosine. -/
  | fcos (h : Hd) (f : ZF)
  /-- VDOT (R193). Packet dot product in the fixed tree. -/
  | vdot (h : Hd) (f : ZF)
  /-- VHSUM (R193). Packet horizontal sum. -/
  | vhsum (h : Hd) (f : ZF)
  /-- VBCAST (R194). Broadcasts a scalar to every element. -/
  | vbcast (h : Hd) (f : ZF)
  /-- VEXT (R194). Extracts one element. -/
  | vext (h : Hd) (f : ZF)
  /-- VINS (R194). Inserts one element. -/
  | vins (h : Hd) (f : ZF)
  /-- VPERM (R194). Permutes elements by index. -/
  | vperm (h : Hd) (f : ZF)
  /-- VSLIDE (R197). Slides the beam's row of elements with a fill. -/
  | vslide (h : Hd) (f : ZF)
  /-- VSHFL (R196). Copies a register from another thread. -/
  | vshfl (h : Hd) (f : ZF)
  /-- VHERO (R198). Builds a stratified wavelength packet. -/
  | vhero (h : Hd) (f : ZF)
  /-- POLMV (R199). Applies a Mueller matrix to a Stokes vector. -/
  | polmv (h : Hd) (f : ZF)
  /-- POLMM (R199). Multiplies two Mueller matrices. -/
  | polmm (h : Hd) (f : ZF)
  /-- RNGDRAW (R201). Writes random bits from the beam's generator. -/
  | rngdraw (h : Hd) (f : ZF)
  /-- RNGSET (R203). Sets the generator key and counter. -/
  | rngset (h : Hd) (f : ZF)
  /-- RNGSKIP (R203). Advances the generator counter. -/
  | rngskip (h : Hd) (f : ZF)
  /-- FXRD (R204). Reads fx. -/
  | fxrd (h : Hd) (f : ZF)
  /-- FXCLR (R204). Clears chosen fx bits. -/
  | fxclr (h : Hd) (f : ZF)
  /-- FSIGN (R188). Copies or XORs the sign of b. -/
  | fsign (h : Hd) (f : ZF)
  /-- CVT (R216). Converts elements between types. -/
  | cvt (h : Hd) (f : ZF)
  /-- CVTS_ENC (R217). Encodes a group of eight through a format slot. -/
  | cvtsEnc (h : Hd) (f : ZF)
  /-- CVTS_DEC (R217). Decodes a group of eight through a format slot. -/
  | cvtsDec (h : Hd) (f : ZF)
  /-- PACK_6 (R218). Packs FP6 register form into memory form. -/
  | pack6 (h : Hd) (f : ZF)
  /-- PACK_4 (R218). Packs bytes into nibbles. -/
  | pack4 (h : Hd) (f : ZF)
  /-- UNPACK_6 (R218). Unpacks FP6 memory form. -/
  | unpack6 (h : Hd) (f : ZF)
  /-- UNPACK_4 (R218). Unpacks nibbles into bytes. -/
  | unpack4 (h : Hd) (f : ZF)
  /-- TAGSET (R219). Writes a tag without touching data. -/
  | tagset (h : Hd) (f : ZF)
  /-- TAGRD (R219). Reads a register's tag. -/
  | tagrd (h : Hd) (f : ZF)
  /-- CBLD (R212). Loads codebook entries from memory into a bank. -/
  | cbld (h : Hd) (f : TF)
  /-- CBSYNC (R213). Orders the beam's stores before its later CBLD reads. -/
  | cbsync (h : Hd) (f : ZF)
  /-- CBX (R220). Expands indices through a bank into a register. -/
  | cbx (h : Hd) (f : ZF)
  /-- QNT (R221). Quantises eight values to nearest codebook indices. -/
  | qnt (h : Hd) (f : ZF)
  /-- SCLQ_ENC (R222). Computes an NQ4 block scale code. -/
  | sclqEnc (h : Hd) (f : ZF)
  /-- SCLQ_DEC (R222). Decodes an NQ4 block scale code. -/
  | sclqDec (h : Hd) (f : ZF)
  /-- MMA (R232). Adds A × B into an accumulator tile. -/
  | mma (h : Hd) (f : XF)
  /-- MMAT (R232). MMA with B read transposed. -/
  | mmat (h : Hd) (f : XF)
  /-- MZERO (R233). Zeroes tiles and their status. -/
  | mzero (h : Hd) (f : XF)
  /-- MLOAD (R234). Copies scratchpad bytes into a tile. -/
  | mload (h : Hd) (f : XF)
  /-- MRD (R234). Reads tile columns into registers. -/
  | mrd (h : Hd) (f : XF)
  /-- MWR (R234). Writes registers into tile columns. -/
  | mwr (h : Hd) (f : XF)
  /-- MDRAIN (R235). Scales, converts, clamps and writes out a tile. -/
  | mdrain (h : Hd) (f : XF)
  /-- MREL (R237). Empties the beam's A latch. -/
  | mrel (h : Hd) (f : XF)
  /-- MSTAT (R237). Reads a tile's status or clamp count. -/
  | mstat (h : Hd) (f : XF)
  /-- LD (R251). Loads from memory. -/
  | ld (h : Hd) (f : MF)
  /-- ST (R251). Stores to memory. -/
  | st (h : Hd) (f : MF)
  /-- LDS (R255). Loads from scratchpad. -/
  | lds (h : Hd) (f : MF)
  /-- STS (R255). Stores to scratchpad. -/
  | sts (h : Hd) (f : MF)
  /-- LDG (R257). Loads through the gang window. -/
  | ldg (h : Hd) (f : MF)
  /-- STG (R257). Stores through the gang window. -/
  | stg (h : Hd) (f : MF)
  /-- LDK (R258). Loads from stack scratch. -/
  | ldk (h : Hd) (f : MF)
  /-- STK (R258). Stores to stack scratch. -/
  | stk (h : Hd) (f : MF)
  /-- LDC (R259). Loads from the constant section. -/
  | ldc (h : Hd) (f : MF)
  /-- LDP6 (R262). Loads packed FP6 groups. -/
  | ldp6 (h : Hd) (f : MF)
  /-- STP6 (R262). Stores packed FP6 groups. -/
  | stp6 (h : Hd) (f : MF)
  /-- PREF (R260). Prefetches lines. -/
  | pref (h : Hd) (f : MF)
  /-- SPINFO (R261). Writes scratchpad and stack information. -/
  | spinfo (h : Hd) (f : MF)
  /-- FENCE (R292). Orders the beam's accesses at a scope. -/
  | fence (h : Hd) (f : MF)
  /-- DETDRAIN (R294). Requests the merge of the workgroup's DET partials. -/
  | detdrain (h : Hd) (f : MF)
  /-- ATOM (R302). Integer atomic returning the old value. -/
  | atom (h : Hd) (f : MF)
  /-- ATOMF (R302). Floating-point atomic returning the old value, or a DET partial. -/
  | atomf (h : Hd) (f : MF)
  /-- RED (R302). Integer reduction without return. -/
  | red (h : Hd) (f : MF)
  /-- REDF (R304). Floating-point reduction without return. -/
  | redf (h : Hd) (f : MF)
  /-- CAS (R302). Compare and swap. -/
  | cas (h : Hd) (f : MF)
  /-- CAS2 (R302). 128-bit compare and swap. -/
  | cas2 (h : Hd) (f : MF)
  /-- BARINIT (R316). Initialises a barrier object. -/
  | barinit (h : Hd) (f : MF)
  /-- BARARR (R317). Arrives at a barrier, closing the phase when the count is met. -/
  | bararr (h : Hd) (f : MF)
  /-- BARWAIT (R318). Waits for a barrier phase to end. -/
  | barwait (h : Hd) (f : MF)
  /-- BARQRY (R318). Reads a barrier object's state. -/
  | barqry (h : Hd) (f : MF)
  /-- LOGMARK (R313). Writes or checks a mark in the order log. -/
  | logmark (h : Hd) (f : TF)
  /-- CPY (R324). Queues a copy command on a channel. -/
  | cpy (h : Hd) (f : TF)
  /-- CPYWP (R325). Reads a channel's write pointer. -/
  | cpywp (h : Hd) (f : TF)
  /-- CPYWAIT (R325). Waits for a command to end or pass a pointer value. -/
  | cpywait (h : Hd) (f : TF)
  /-- CPYCAN (R327). Cancels a copy command. -/
  | cpycan (h : Hd) (f : TF)
  /-- CPYST (R328). Reads a channel's status. -/
  | cpyst (h : Hd) (f : TF)
  /-- SPAWN (R343). Creates a spawned thread per taking-part thread. -/
  | spawn (h : Hd) (f : TF)
  /-- EXIT (R349). Ends threads, dropping or decrementing join references. -/
  | exit (h : Hd) (f : TF)
  /-- JWAIT (R350). Waits for a join counter to read zero. -/
  | jwait (h : Hd) (f : TF)
  /-- AWAIT (R352). Yields the lane until counters or a word meet a condition. -/
  | await (h : Hd) (f : TF)
  /-- QPUSH (R338). Pushes entries to a queue. -/
  | qpush (h : Hd) (f : TF)
  /-- QPOP (R339). Pops entries from a queue. -/
  | qpop (h : Hd) (f : TF)
  /-- QQRY (R340). Reads a queue's state. -/
  | qqry (h : Hd) (f : TF)
  /-- NEMIT (R358). Sends records to a work-graph node's bin. -/
  | nemit (h : Hd) (f : TF)
  /-- NINFO (R360). Reads bin information. -/
  | ninfo (h : Hd) (f : TF)
  /-- LAUNCH (R138). Pushes a child launch into the pending-launch pool. -/
  | launch (h : Hd) (f : TF)
  /-- LWAIT (R139). Parks until a child launch ends and returns its status. -/
  | lwait (h : Hd) (f : TF)
  /-- LPOLL (R140). Tests a child launch without waiting. -/
  | lpoll (h : Hd) (f : TF)
  /-- VSWITCH (R136). Reaches a switch point and moves the workgroup to the requested variant. -/
  | vswitch (h : Hd) (f : TF)
  /-- ROLE (R141). Writes the workgroup's role. -/
  | role (h : Hd) (f : TF)
  /-- PSMP (R366). Samples a Prism surface by footprint. -/
  | psmp (h : Hd) (f : TF)
  /-- PSMPL (R366). Samples a Prism surface at an explicit level. -/
  | psmpl (h : Hd) (f : TF)
  /-- PUPS (R369). Turns a colour into a spectrum. -/
  | pups (h : Hd) (f : TF)
  /-- PQRY (R370). Reads surface record values. -/
  | pqry (h : Hd) (f : TF)
  /-- FACC (R372). Adds samples into film bins with compensation. -/
  | facc (h : Hd) (f : TF)
  /-- FRES (R374). Resolves film bins, optionally clearing them. -/
  | fres (h : Hd) (f : TF)
  /-- FCLR (R374). Zeroes film pixels. -/
  | fclr (h : Hd) (f : TF)
  /-- TIME (R378). Reads NOW. -/
  | time (h : Hd) (f : TF)
  /-- TRIGARM (R380). Arms a trigger slot. -/
  | trigarm (h : Hd) (f : TF)
  /-- TRIGQ (R382). Reads a trigger slot's state or time. -/
  | trigq (h : Hd) (f : TF)
  /-- RPKT (R387). Sends the core's collective contribution. -/
  | rpkt (h : Hd) (f : TF)
  /-- RRECV (R388). Receives the collective result at the root. -/
  | rrecv (h : Hd) (f : TF)
  /-- RBCAST (R388). Receives the broadcast all-reduce result. -/
  | rbcast (h : Hd) (f : TF)
  /-- RSTAT (R390). Reads the core's collective state. -/
  | rstat (h : Hd) (f : TF)
  /-- TRAP (R399). Raises SOFTWARE_TRAP. -/
  | trap (h : Hd) (f : YF)
  /-- TRET (R400). Returns from a trap handler. -/
  | tret (h : Hd) (f : YF)
  /-- RDSYS (R414). Reads a system register. -/
  | rdsys (h : Hd) (f : YF)
  /-- WRSYS (R414). Writes a system register. -/
  | wrsys (h : Hd) (f : YF)
  /-- HALT (R401). Halts the beam and pushes a host event. -/
  | halt (h : Hd) (f : YF)
  /-- TLBINV (R405). Drops cached translations of the context. -/
  | tlbinv (h : Hd) (f : YF)
  /-- CFLUSH (R415). Writes back and invalidates a range of lines. -/
  | cflush (h : Hd) (f : YF)
  /-- CINV (R416). Invalidates clean copies in caches. -/
  | cinv (h : Hd) (f : YF)
  /-- CLK (R417). Reads the core clock count. -/
  | clk (h : Hd) (f : YF)
  /-- MESHID (R417). Reads mesh identity values. -/
  | meshid (h : Hd) (f : YF)
  /-- PMARK (R418). Records a performance mark. -/
  | pmark (h : Hd) (f : YF)
  /-- PAIRED_WORD (R57). A paired word issues two compact half-ops to the two pipes together. -/
  | pairedWord (x y : Half)
  /-- UNALLOCATED_OPCODE (R62). A full word whose major opcode is unallocated, 0x00 and 0xF8–0xFF included, comes to issue and raises ILLEGAL_INSTRUCTION. -/
  | unallocatedOpcode (w : BitVec 63)
  /-- CLAUSE_START (R33). A beam's clause starts once its wait counters read zero, any accumulator hold it needs is free, and the lane scheduler selects the beam. In EvArg: a is core, b is lane. -/
  | clauseStart
  /-- FORCED_SWITCH (R142). After 64 clauses of one beam in a row while another beam is READY, the lane scheduler switches to another READY beam. In EvArg: a is core, b is lane. -/
  | forcedSwitch
  /-- OVERDUE_BEAM (R142). A READY beam whose count of passed-over clauses reaches 64 becomes overdue and is started ahead of every other choice. In EvArg: a is core, b is lane. -/
  | overdueBeam
  /-- HANDLER_ENTRY (R396). A precise or deferred trap writes the trap frame, sets HMODE and sends the beam to TRAP_BASE. In EvArg: a is beam. -/
  | handlerEntry
  /-- COUNTER_FALL (R34). A long-latency operation completes, lowers its completion counter and writes its destination registers. In EvArg: a is op; b is 0, or one more than the place of a write of the op that lands before the counter falls (R35), for a v register in the bytes of value. -/
  | counterFall
  /-- BEAM_WAKE (R134). The event a PARKED, EVICTED or WAITING beam waits for occurs, and the beam becomes READY. In EvArg: a is beam. -/
  | beamWake
  /-- HOST_PUSH (R486). The host writes a 64-byte entry to a queue through the context's push window. In EvArg: a is the offset in HREG, bytes is what is written; with flag the windows are read instead. -/
  | hostPush
  /-- DISPATCHER_TAKE (R126). The owner dispatcher takes the next launch by priority and age and checks it. In EvArg: a is die. -/
  | dispatcherTake
  /-- RESERVATION_HOLD (R127). A gang reservation takes tentative holds on its cores and commits when every core is held. In EvArg: a is launch. -/
  | reservationHold
  /-- RESERVATION_BACKOFF (R128). A losing reservation retries once its backoff wait expires. In EvArg: a is launch. -/
  | reservationBackoff
  /-- LAUNCH_COMPLETION_RECORD (R121). After retirement, DET merges and the log flush, the completion record is written with a .sys release. In EvArg: a is launch. -/
  | launchCompletionRecord
  /-- SWREQ_SET (R135). The dispatcher sets a workgroup's switch request up or down and holds the target's resources. In EvArg: a is wg. -/
  | swreqSet
  /-- DET_APPLICATION (R305). A workgroup's merged DET partials are applied to memory once every lower-keyed workgroup has been applied. In EvArg: a is wg. -/
  | detApplication
  /-- SPAWN_GATHER_TIMER (R344). A spawn group is formed when the oldest waiting thread was accepted 256 clk ago. In EvArg: a is core, b is launch, c is entry. -/
  | spawnGatherTimer
  /-- SPAWN_GROUP_PLACE (R345). A formed spawn group is placed on its core when room exists. In EvArg: a is core. -/
  | spawnGroupPlace
  /-- PARK_RELOAD (R354). An evicted beam whose event has happened is reloaded when its slots fit. In EvArg: a is core. -/
  | parkReload
  /-- SPILL_REFILL (R346). The gatherer refills its spawn queue from the spill FIFO as room frees. In EvArg: a is core, b is queue. -/
  | spillRefill
  /-- BIN_FIRE_TIMER (R357). A bin fires when its timer expires after its first record. In EvArg: a is launch, b is node. -/
  | binFireTimer
  /-- BIN_LAUNCH (R359). A fired bin is placed as a 1×1 gang, its records are copied into scratchpad, and its slot is freed. In EvArg: a is launch. -/
  | binLaunch
  /-- QUEUE_ARM (R334). A write to QUEUE_ARM reads the descriptor, empties the queue and resets its numbers. In EvArg: value is value. -/
  | queueArm
  /-- PREEMPT_REQUEST (R406). An unplaceable priority-0 TC0 launch chooses victim gangs and pre-empts them. In EvArg: a is launch. -/
  | preemptRequest
  /-- PREEMPT_SUSPEND (R406). A host write of PREEMPT_HI with bit 0 clear pre-empts every gang of the named launch. In EvArg: value is value. -/
  | preemptSuspend
  /-- PREEMPT_RESUME (R406). A host write of PREEMPT_HI with bit 0 set lets the suspended launch's gangs be resumed. In EvArg: value is value. -/
  | preemptResume
  /-- GANG_SAVE (R407). After the drain, the gang's state is written to the save pool and its cores are released. In EvArg: a is gang. -/
  | gangSave
  /-- GANG_RESUME (R409). A pre-empted gang is placed again, restored, and its beams resume. In EvArg: a is gang. -/
  | gangResume
  /-- FAULT_RESUME_RETRY (R403). The host's retry action invalidates the page's translations and reissues the faulting word. In EvArg: value is ticket. -/
  | faultResumeRetry
  /-- FAULT_RESUME_ABORT (R403). The host's abort action ends the launch TRAPPED. In EvArg: value is ticket. -/
  | faultResumeAbort
  /-- FAULT_RESUME_CONTINUE (R403). The host's continue action resumes a HALTED beam at the fall-through clause. In EvArg: value is ticket. -/
  | faultResumeContinue
  /-- EVENT_BUFFER_DRAIN (R402). Buffered events of a context are pushed, oldest first, once its EVQ has room. In EvArg: a is die, b is ctx. -/
  | eventBufferDrain
  /-- LAUNCH_LEVEL_TRAP (R411). A launch-level trap discards partials and queues, writes the log header and the TRAPPED record, and pushes event kind 4. In EvArg: a is launch. -/
  | launchLevelTrap
  /-- MIRROR_TURN (R312). A party waiting under MIR makes its choice when the next record of its stream names it. In EvArg: a is beam. -/
  | mirrorTurn
  /-- COPY_COMMAND_START (R325). A queued copy command starts on its channel, and WP is set to its destination start. In EvArg: a is core, b is ch. -/
  | copyCommandStart
  /-- COPY_WP_ADVANCE (R325). The channel's write pointer rises as destination bytes are performed. In EvArg: a is core, b is ch. -/
  | copyWpAdvance
  /-- COPY_COMMAND_END (R324). A copy command ends, performs its release, and sets LAST. In EvArg: a is core, b is ch. -/
  | copyCommandEnd
  /-- COPY_FAULT_STALL (R326). A running command stalls on a translation fault or ends on another fault. In EvArg: a is core, b is ch. -/
  | copyFaultStall
  /-- ROUTER_PACKET_ARRIVAL (R384). A collective packet reaches a router stage and is combined in tree order. In EvArg: a is packet. -/
  | routerPacketArrival
  /-- COLLECTIVE_TIMEOUT (R389). A router's collective timer expires and sends an expiry notice, or at the root starts a flush. In EvArg: a is core, b is launch, c is id. -/
  | collectiveTimeout
  /-- EXPIRY_NOTICE (R389). An expiry notice reaches the root, which sends a flush down the tree. In EvArg: a is notice. -/
  | expiryNotice
  /-- TIME_TICK (R377). The time unit advances NOW by one nanosecond scaled by RATE. -/
  | timeTick
  /-- PPS_EDGE (R377). A 1PPS rising edge latches NOW into PPS when PPSEN is set. -/
  | ppsEdge
  /-- TIME_STEP (R377). A write of TIME_STEP_HI adds the signed step to NOW. In EvArg: value is hi. -/
  | timeStep
  /-- TRIGGER_FIRE (R381). An armed slot finds NOW ≥ T and drives its pins and pushes its record. In EvArg: a is slot. -/
  | triggerFire
  /-- PIN_PULSE_END (R381). A shutter-sync pin returns low when its pulse width expires. In EvArg: a is pin. -/
  | pinPulseEnd
  /-- PACKET_RD (R451). A base die receives a read request packet and returns an RSP. In EvArg: a is stack, hdr is hdr. A value other than 0 is damage met on the way: it flips those bits of a 32-bit lane of a flit of the packet, c being 16 times the flit and the lane. The request may serve an operation in flight: op names it, threads and va what an error of the request names. Bit 0 of b is the SK bit of its page, bit 1 its NC bit. -/
  | packetRd
  /-- PACKET_WR (R451). A base die receives a write request packet with its byte masks and performs it. In EvArg: a is stack, hdr is hdr, masks is masks, bytes is data. A value other than 0 is damage met on the way: it flips those bits of a 32-bit lane of a flit of the packet, c being 16 times the flit and the lane. The request may serve an operation in flight: op names it, threads and va what an error of the request names. Bit 0 of b is the SK bit of its page, bit 1 its NC bit. -/
  | packetWr
  /-- PACKET_ATOM (R451). A base die performs an atomic for an NC page. In EvArg: a is stack, hdr is hdr, bytes is the beat of data. A value other than 0 is damage met on the way: it flips those bits of a 32-bit lane of a flit of the packet, c being 16 times the flit and the lane. The request may serve an operation in flight: op names it, threads and va what an error of the request names. Bit 0 of b is the SK bit of its page, bit 1 its NC bit. -/
  | packetAtom
  /-- PACKET_QCMD (R332). A queue engine receives a queue command packet and serves it. In EvArg: a is stack, hdr is hdr, whose opw is the code of the command, cmd is cmd. A value other than 0 is damage met on the way: it flips those bits of a 32-bit lane of a flit of the packet, c being 16 times the flit and the lane. -/
  | packetQcmd
  /-- PACKET_CTL (R450). A link control packet, such as a replay request, is received. In EvArg: a is stack, hdr is hdr, flag says that the flits of the responses are meant, not those of the requests. -/
  | packetCtl
  /-- PACKET_RSP (R453). A response packet arrives, frees its tag, and completes its request with its status. In EvArg: a is stack, b is tag. A value other than 0 is damage met on the way: it flips those bits of a 32-bit lane of a flit of the packet, c being 16 times the flit and the lane. -/
  | packetRsp
  /-- LINK_RETRAIN (R450). After 8 failed replays the link retrains onto spare lanes, or goes down. In EvArg: a is stack, b is worn, flag is trained. -/
  | linkRetrain
  /-- SCRUB (R455). The base die scrubs its codewords once per period, correcting single-symbol errors. In EvArg: a is stack. -/
  | scrub
  /-- HOT_WINDOW_END (R458). At each tracker window's end, hot frames are nominated for promotion or rebalance. In EvArg: a is stack. -/
  | hotWindowEnd
  /-- STACK_HOT_SET (R248). A stack-die sensor reads 95 °C or more, and STACK_HOT is set. In EvArg: a is die. -/
  | stackHotSet
  /-- STACK_HOT_CLEAR (R248). After 1 ms with every sensor below 90 °C, STACK_HOT is cleared. In EvArg: a is die. -/
  | stackHotClear
  /-- UALINK_INBOUND (R461). An inbound peer request is checked against the window table and performed or refused. In EvArg: a is port, b is pkg, acc is acc. -/
  | ualinkInbound
  /-- UALINK_TIMEOUT (R462). An outbound request with no completion within 100 µs completes with MEMORY_DATA_ERROR. In EvArg: a is port, b is op, c says which of its requests to peers; with flag b is 8 times the core and the channel of a copy. -/
  | ualinkTimeout
  /-- VETIK_TIMEOUT (R467). A device access to host memory with no completion within 100 µs completes with MEMORY_DATA_ERROR. In EvArg: a is op, c says which of its requests to the host; with flag a is 8 times the core and the channel of a copy. -/
  | vetikTimeout
  /-- VETIK_RETRAIN (R467). The Vetik Link retrains onto spare lanes, or goes down. In EvArg: a is worn, flag is trained. With c = 1 a flit fails its CRC instead, flag saying that it is the one that failed before; with c = 2 the sender replays it. -/
  | vetikRetrain
  /-- REGISTER_WRITE (R468). The host writes a word of HREG, or with flag reads one. In EvArg: a is the offset in HREG, value is value. -/
  | registerWrite
  /-- CORE_SPLIT_WRITE (R246). A write of CORE_SPLIT is accepted or ignored under its rules. In EvArg: a is ctx, value is value. -/
  | coreSplitWrite
  /-- STACK_SPLIT_WRITE (R247). A write of STACK_SPLIT is accepted, zeroing the stack scratch, or ignored. In EvArg: a is ctx, value is value. -/
  | stackSplitWrite
  /-- ENAB_WRITE (R472). A host write of ENAB enables offered features unless a launch is live. In EvArg: a is i, value is value. -/
  | enabWrite
  /-- COUNTER_CLEAR (R463). A host write of any value clears an error or wear counter. In EvArg: a is reg. -/
  | counterClear
  /-- POWER_ON (R473). After power-on the device verifies firmware, trains links, and sets MEM_READY; after a warm reset it starts again. In EvArg: bytes is the firmware image with its header. -/
  | powerOn
  /-- WARM (R474). A write of RESET_CTL.WARM stops all issue and restarts the device, keeping HBM under WARM_KEEP. In EvArg: value is value. -/
  | warm
  /-- GO (R480). A write of ATT_CTL.GO makes the Selral controller write a signed attestation report and set DONE. -/
  | go
  /-- TRIP (R481). A junction at 105 °C or a coolant fault sets TRIP and forces a warm reset. -/
  | trip
  /-- THROT (R481). The Selral controller withholds issue slots to keep within the power limits. In EvArg: flag is on. -/
  | throt
  /-- IDLE_ENTRY (R475). An idle device enters the deepest depth whose exit latency fits LTOL. -/
  | idleEntry
  /-- IDLE_WAKE (R475). A push, register access, UALink request or pushing trigger wakes the device. -/
  | idleWake
  /-- CORE_RETIRE (R476). At ID2 or deeper, the Selral controller retires a core and shifts its row. In EvArg: a is core. -/
  | coreRetire
  /-- UNIT_FAILED (R477). A failed core is fenced and the launches that use it end with UNIT_FAILED. In EvArg: a is core. With flag it is a soft error instead, and c says of what: 0 a word of core a's SRAM at offset b, 1 a word of stack die a at offset b, 2 sector b of HBM, 3 a corrected one of a core SRAM of die a, 4 a corrected one of die a's L2. -/
  | unitFailed
  /-- SLICE_FAILED (R477). A failed L2 slice ends every launch and forces a warm reset with WARM_KEEP. In EvArg: a is die, b is slice. -/
  | sliceFailed
  /-- INSTRUCTION_LINE_FILL (R60). A line fill by the die fetch agent completes and is written into the instruction cache of every core of the code-object group, replacing lines least-recently-used first. In EvArg: a is core, b is ctx, c is line. -/
  | instructionLineFill
  /-- UALINK_PORT_RETRAIN (R460). A UALink port retrains, bringing its spare lane in for a failed lane, or goes down when a second lane fails, changing UAL_STAT. In EvArg: a is port, b is failed. With c = 1 a flit of the port fails its CRC instead, with c = 2 one is sent again. -/
  | ualinkPortRetrain
  /-- HOST_MEMORY_ACCESS (R466). A host load, store or atomic on device memory arrives over the Vetik Link and is performed at the home slice as an access of the .sys agent, setting the line's host-presence bit; or the host reaches its own memory. In EvArg: acc is acc. -/
  | hostMemoryAccess
  deriving DecidableEq, Repr

end Sys2Proof
end

