-- ==== Sys2Proof/WellFormed.lean ====
section
/-! DEFINITION. Which words are legal by their own bits: every ILLEGAL_INSTRUCTION or ILLEGAL_PAIR
condition that the word alone decides (R54, R74). What depends on register contents, the variant
budget, tags or masks is checked by the meaning. -/

namespace Sys2Proof

/-- The code of a type (R45). -/
def Ty.code : Ty → Nat
  | .f32 => 0 | .f16 => 1 | .bf16 => 2 | .e4m3 => 3 | .e5m2 => 4 | .e3m2 => 5 | .e2m3 => 6
  | .nq4 => 7 | .cbi => 8 | .s8 => 9 | .s16 => 10 | .s32 => 11 | .s64 => 12 | .n8 => 13
  | .n16 => 14 | .n32 => 16 | .n64 => 17 | .b8 => 18 | .b16 => 19 | .b32 => 20 | .b64 => 21
  | .b128 => 22 | .b256 => 23

/-- Element width in bits of a type in a register (R89): FP6 takes a byte, indices four bits; the
wide untyped codes take their own width. -/
def Ty.width : Ty → Nat
  | .f32 | .s32 | .n32 | .b32 => 32
  | .f16 | .bf16 | .s16 | .n16 | .b16 => 16
  | .e4m3 | .e5m2 | .e3m2 | .e2m3 | .s8 | .n8 | .b8 => 8
  | .nq4 | .cbi => 4
  | .s64 | .n64 | .b64 => 64
  | .b128 => 128
  | .b256 => 256

/-- The arithmetic set of R166. -/
def Ty.arith : Ty → Bool
  | .s8 | .s16 | .s32 | .n8 | .n16 | .n32 => true
  | _ => false

/-- The signed set of R166. -/
def Ty.signed : Ty → Bool
  | .s8 | .s16 | .s32 => true
  | _ => false

/-- The bits set of R166. -/
def Ty.bits : Ty → Bool
  | .b8 | .b16 | .b32 => true
  | t => t.arith

/-- The elementwise floating-point types (R181). -/
def Ty.flt : Ty → Bool
  | .f32 | .f16 | .bf16 => true
  | _ => false

/-- The types of the packet moves (R194). -/
def Ty.move : Ty → Bool
  | .f32 | .s32 | .n32 | .b32 | .f16 | .bf16 | .s16 | .n16 | .b16 => true
  | _ => false

/-- The types CVT converts between (R216), by code. -/
def cvtCode (c : Nat) : Bool := c ≤ 6 || (9 ≤ c && c ≤ 11) || c == 13 || c == 14 || c == 16

def RF.isK : RF → Bool
  | .k _ => true
  | .t _ => false

/-- A field the word does not use must be 0 (R54). -/
def RF.zero (f : RF) : Bool := f == .t 0

/-- The register number within its class. -/
def RF.num : RF → Nat
  | .t n => n.toNat
  | .k n => n.toNat

def RF.even (f : RF) : Bool := f.num % 2 == 0
def RF.thr (f : RF) : Bool := !f.isK
/-- A uniform register with an even number. -/
def RF.kEven (f : RF) : Bool := f.isK && f.even

/-- A predicate position (R65): p0 to p7 or kp0 to kp3. -/
def RF.predSrc : RF → Bool
  | .t n => n.toNat ≤ 7
  | .k n => n.toNat ≤ 3

/-- A predicate destination: p7 cannot be written (R65). -/
def RF.predDst : RF → Bool
  | .t n => n.toNat ≤ 6
  | .k n => n.toNat ≤ 3

namespace ZF

/-- opx[5], which chooses v registers (R165, R180, R215). -/
def V (z : ZF) : Bool := z.opx.getLsbD 5
/-- opx[4]: .sat (R165) or R (R180). -/
def x4 (z : ZF) : Bool := z.opx.getLsbD 4
/-- opx[3:0]. -/
def x30 (z : ZF) : Nat := z.opx.toNat % 16
def hiA (z : ZF) : Bool := z.hi.getLsbD 2
def hiB (z : ZF) : Bool := z.hi.getLsbD 1
def hiC (z : ZF) : Bool := z.hi.getLsbD 0

/-- A source slot: unused fields and their hi bits are 0. -/
def srcOk (used : Bool) (f : RF) (hi : Bool) : Bool := used || (f.zero && !hi)

/-- R43: a uniform instruction reads only k registers. -/
def uniOk (z : ZF) (ub uc : Bool) : Bool :=
  !z.d.isK || (z.a.isK && (!ub || z.b.isK) && (!uc || z.c.isK))

def noCb (z : ZF) : Bool := z.cbk == 0 && z.cbs == 0

/-- R44: the expanded source is one the instruction uses and no k register; cbk is 0 without it. -/
def cbOk (z : ZF) (ub uc : Bool) : Bool :=
  match z.cbs.toNat with
  | 0 => z.cbk == 0
  | 1 => z.a.thr
  | 2 => ub && z.b.thr
  | _ => uc && z.c.thr

/-- The shared conditions of the integer rows (R165). -/
def intOk (z : ZF) (ub uc sat : Bool) : Bool :=
  z.rm == .rn && z.noCb && !(z.V && z.d.isK) && srcOk ub z.b z.hiB && srcOk uc z.c z.hiC
    && z.uniOk ub uc && (sat || !z.x4)

/-- The plain integer rows: arithmetic types, opx[3:0] = 0. -/
def int2 (z : ZF) (tys : Ty → Bool) (sat : Bool) : Bool := z.intOk true false sat && tys z.ty && z.x30 == 0
def int1 (z : ZF) (tys : Ty → Bool) (sat : Bool) : Bool := z.intOk false false sat && tys z.ty && z.x30 == 0

/-- The pair forms (R171): V = 0 and even pair fields. -/
def t32 (z : ZF) : Bool := z.ty == .s32 || z.ty == .n32

/-- The rounding rows of R183. -/
def fltOk (z : ZF) (ub uc : Bool) : Bool :=
  z.ty.flt && !(z.V && z.d.isK) && srcOk ub z.b z.hiB && srcOk uc z.c z.hiC && z.uniOk ub uc
    && z.cbOk ub uc && z.x30 == 0

/-- FADD, FSUB, FMUL: R = 1 takes the random block from c, a thread register (R180, R189). -/
def addOk (z : ZF) : Bool :=
  if z.x4 then
    z.ty.flt && !z.d.isK && z.rm == .sr && z.c.thr && !z.hiC && z.cbOk true false && z.x30 == 0
  else z.fltOk true false

/-- The special functions (R191): .a needs rm = 0. -/
def sfuOk (z : ZF) (approx : Bool) : Bool :=
  z.ty == .f32 && !(z.V && z.d.isK) && srcOk false z.b z.hiB && srcOk false z.c z.hiC && z.uniOk false false
    && z.cbOk false false && !z.x4 && (z.x30 == 0 || (approx && z.x30 == 1 && z.rm == .rn))

def noRm (z : ZF) : Bool := z.rm == .rn
def noHi (z : ZF) : Bool := z.hi == 0
def noTy (z : ZF) : Bool := z.ty == .f32
def bc0 (z : ZF) : Bool := z.b.zero && z.c.zero
def abc0 (z : ZF) : Bool := z.a.zero && z.bc0
/-- rm, ty, cbk, cbs and hi all 0. -/
def plain (z : ZF) : Bool := z.noRm && z.noTy && z.noCb && z.noHi

/-- PAND, POR, PXOR (R161). -/
def predOk (z : ZF) : Bool :=
  z.plain && z.d.predDst && z.a.predSrc && z.b.predSrc && z.c.zero && z.opx.toNat < 4 && z.uniOk true false

def psetOk (z : ZF) : Bool :=
  z.noRm && z.noCb && z.noHi && z.d.predDst && z.x30 ≤ 9 && z.opx.toNat < 48
    && (z.ty == .s32 || z.ty == .n32 || (z.ty == .f32 && z.x30 ≤ 5))
    && (if z.opx.toNat < 16 then z.c.zero && z.uniOk true false else z.c.predSrc && z.uniOk true true)

def pmovOk (z : ZF) : Bool :=
  z.plain && z.bc0 &&
  match z.opx.toNat with
  | 0 => z.d.predDst && z.a.predSrc && z.uniOk false false
  | 1 => z.a.zero
  | 2 => z.d.zero
  | _ => false

def voteOk (z : ZF) : Bool :=
  z.plain && z.bc0 && z.opx.toNat % 8 < 7 && z.opx.toNat / 8 < 5
    && (if z.opx.toNat % 8 == 0 then z.a.predSrc else z.a.zero)
    && (z.opx.toNat / 8 ≥ 3 || z.d.predDst)

def electOk (z : ZF) : Bool :=
  z.plain && z.abc0 && (z.opx == 0 && z.d.predDst || z.opx == 1 && z.d.isK)

def actmaskOk (z : ZF) : Bool := z.plain && z.abc0 && z.opx.toNat < 2

/-- SEL (R174): c is a predicate, kp when the word is uniform. -/
def selOk (z : ZF) : Bool :=
  z.rm == .rn && z.noCb && !(z.V && z.d.isK) && z.c.predSrc && !z.hiC && z.uniOk true true && !z.x4
    && z.x30 == 0 && (z.ty.bits || z.ty == .b256)

def movOk (z : ZF) : Bool :=
  z.intOk false false false && z.x30 == 0 && (z.ty.bits || z.ty == .b256)

def imul64Ok (z : ZF) : Bool := z.intOk true false false && z.t32 && z.x30 == 0 && !z.V && z.d.even
def iadd64Ok (z : ZF) : Bool := z.imul64Ok && z.a.even && z.b.even
def leaOk (z : ZF) : Bool :=
  z.intOk true false false && z.t32 && z.x30 < 8 && !z.V && z.d.even && z.a.even

/-- Packet moves (R194): every register of the class shown. -/
def vextIdxOk (z : ZF) : Bool :=
  !z.V && (if z.x4 then z.x30 == 0 else z.b.zero && !z.hiB && z.x30 < 256 / z.ty.width)

def vbcastOk (z : ZF) : Bool :=
  z.noRm && z.ty.move && z.d.thr && z.bc0 && !z.hiB && !z.hiC && z.opx == 0 && z.cbOk false false
def vextOk (z : ZF) : Bool :=
  z.noRm && z.ty.move && z.d.thr && z.a.thr && z.c.zero && !z.hiC && z.vextIdxOk && z.cbOk z.x4 false
def vinsOk (z : ZF) : Bool :=
  z.noRm && z.ty.move && z.d.thr && z.c.zero && !z.hiC && z.vextIdxOk && z.cbOk z.x4 false
def vpermOk (z : ZF) : Bool :=
  z.noRm && z.ty.move && z.d.thr && z.a.thr && z.b.thr && z.c.zero && !z.hiC && z.opx == 0 && z.cbOk true false
def vshflOk (z : ZF) : Bool :=
  z.noRm && z.noCb && z.noHi && z.c.zero && z.d.thr && z.a.thr && z.opx.toNat < 4
    && (z.ty == .b32 || z.ty == .b256)
def vslideOk (z : ZF) : Bool :=
  z.noRm && z.noCb && z.noHi && z.c.zero && z.d.thr && z.a.thr && z.ty.move && z.opx.toNat % 8 ≠ 0
    && z.opx.toNat / 16 < 3 && (if z.opx.toNat / 16 == 2 then z.b.isK else z.b.zero)
def vdotOk (z : ZF) : Bool :=
  z.noRm && z.noTy && z.opx == 0 && z.c.zero && !z.hiC && z.d.thr && z.a.thr && z.cbOk true false
def vhsumOk (z : ZF) : Bool :=
  z.noRm && z.noTy && z.opx == 0 && z.bc0 && !z.hiB && !z.hiC && z.d.thr && z.a.thr && z.cbOk false false
def vheroOk (z : ZF) : Bool :=
  z.noRm && z.noTy && z.opx == 0 && z.bc0 && !z.hiB && !z.hiC && z.d.thr && z.cbOk false false
/-- POLMV and POLMM (R199): register ranges aligned to their size. -/
def polOk (z : ZF) (da b : Nat) : Bool :=
  z.noTy && z.noCb && z.opx == 0 && z.c.zero && !z.hiC && z.d.thr && z.a.thr && z.b.thr
    && z.d.num % da == 0 && z.a.num % da == 0 && z.b.num % b == 0
def rngdrawOk (z : ZF) : Bool :=
  z.plain && z.abc0 && z.d.thr && (z.opx.toNat % 32 < 2)
def rngsetOk (z : ZF) : Bool :=
  z.plain && z.c.zero && z.opx == 0 && z.d.isK && z.a.kEven && z.b.kEven
def rngskipOk (z : ZF) : Bool :=
  z.plain && z.bc0 && z.opx == 0 && z.d.isK && z.a.kEven
def fxrdOk (z : ZF) : Bool := z.plain && z.abc0 && z.opx == 0 && z.d.thr
def fxclrOk (z : ZF) : Bool := z.plain && z.abc0 && z.d.zero

/-- The element count of a type in the class V chooses (R89). -/
def count (z : ZF) (w : Nat) : Nat := (if z.V then 256 else 32) / w

/-- The source type of CVT, opx[4:0] (R216). -/
def styCode (z : ZF) : Nat := z.opx.toNat % 32

end ZF

/-- The type with a given code (R45). -/
def Ty.ofCode : Nat → Option Ty
  | 0 => some .f32 | 1 => some .f16 | 2 => some .bf16 | 3 => some .e4m3 | 4 => some .e5m2
  | 5 => some .e3m2 | 6 => some .e2m3 | 7 => some .nq4 | 8 => some .cbi | 9 => some .s8
  | 10 => some .s16 | 11 => some .s32 | 12 => some .s64 | 13 => some .n8 | 14 => some .n16
  | 16 => some .n32 | 17 => some .n64 | 18 => some .b8 | 19 => some .b16 | 20 => some .b32
  | 21 => some .b64 | 22 => some .b128 | 23 => some .b256
  | _ => none

namespace ZF

def sty (z : ZF) : Ty := (Ty.ofCode z.styCode).getD .f32

/-- CVT (R215, R216): .hi needs more source than destination elements, .dhi the converse. -/
def cvtOk (z : ZF) : Bool :=
  cvtCode z.ty.code && cvtCode z.styCode && z.bc0 && z.noCb && !z.hiB && (z.d.isK == z.a.isK)
    && !(z.V && z.d.isK)
    && (!z.hiA || z.count z.sty.width > z.count z.ty.width)
    && (!z.hiC || z.count z.ty.width > z.count z.sty.width)
def cvtsOk (z : ZF) : Bool :=
  z.d.thr && z.a.thr && z.c.zero && z.ty.code < 8 && z.noCb && z.noHi && z.V && !z.x4
def packOk (z : ZF) (four : Bool) : Bool :=
  z.plain && z.d.thr && z.a.thr && (if four then z.b.thr else z.b.zero) && z.c.zero
    && z.opx.toNat == (if four then 33 else 32)
def unpackOk (z : ZF) (four : Bool) : Bool :=
  z.noRm && z.noTy && z.noCb && !z.hiB && !z.hiC && (four || !z.hiA) && z.d.thr && z.a.thr && z.bc0
    && z.opx.toNat == (if four then 33 else 32)
def tagsetOk (z : ZF) : Bool := z.plain && z.abc0 && z.d.thr && !z.x4
def tagrdOk (z : ZF) : Bool := z.plain && z.bc0 && z.d.thr && z.a.thr && z.opx.toNat % 32 == 0
def cbxOk (z : ZF) : Bool :=
  z.ty.flt && z.d.thr && z.a.thr && z.bc0 && z.cbs == 1 && !z.hiB && !z.hiC && z.opx.toNat % 32 == 0
def qntOk (z : ZF) : Bool :=
  z.noRm && z.noTy && z.noHi && z.cbs == 0 && z.d.thr && z.a.thr && z.c.zero && z.V && z.opx.toNat % 32 < 8
def sclqOk (z : ZF) : Bool :=
  z.plain && z.d.thr && z.a.thr && z.c.zero && z.opx.toNat % 32 < 2

end ZF

namespace IF

def V (f : IF) : Bool := f.imx.getLsbD 3
def x20 (f : IF) : Nat := f.imx.toNat % 8
/-- a and d name registers of one class (R179). -/
def oneClass (f : IF) : Bool := f.d.isK == f.a.isK
/-- Shared: registers of one class; with V they are no k registers (R179, R43). -/
def uni (f : IF) : Bool := f.oneClass && !(f.V && f.d.isK)
def moviOk (f : IF) : Bool := f.a.zero && f.x20 == 0 && !(f.V && f.d.isK)
def addOk (f : IF) : Bool := f.uni && f.x20 % 2 == 0
def logicOk (f : IF) : Bool := f.uni && f.x20 == 0
def shOk (f : IF) : Bool := f.uni && f.x20 == 0 && f.imm.toNat < 32
def sraOk (f : IF) : Bool := f.uni && f.x20 < 2 && f.imm.toNat < 32
def isetOk (f : IF) : Bool := f.imx.toNat ≤ 9 && f.oneClass
def leaOk (f : IF) : Bool := f.imx == 0 && f.d.even && f.a.even && f.oneClass
/-- The immediate forms of R190: a k source is broadcast (R42). -/
def fltOk (f : IF) : Bool := (!f.d.isK || f.a.isK) && !(f.V && f.d.isK) && f.x20 ≤ 5

end IF

/-- Ordering fields that an instruction may allow. -/
def Order.isNone (o : Order) : Bool := o == .none
def Order.acqOk : Order → Bool | .none | .acq _ => true | _ => false
def Order.relOk : Order → Bool | .none | .rel _ => true | _ => false
/-- The width of a scope, for no narrower than comparisons. -/
def Scope.rank : Scope → Nat | .beam => 0 | .wg => 1 | .gang => 2 | .dev => 3 | .sys => 4
def Order.scopeGe (o : Order) (r : Nat) : Bool :=
  match o with
  | .none => true
  | .acq s | .rel s | .ar s => r ≤ s.rank

namespace MF

/-- The b field of the loads and stores (R249): [0] V, [2:1] lay, the rest 0. -/
def bBits (m : MF) : Nat := (match m.b with | .t n => n.toNat | .k n => 64 + n.toNat)
def V (m : MF) : Bool := m.bBits % 2 == 1
def lay (m : MF) : Nat := m.bBits / 2 % 4

/-- The type rules of R250. -/
def tyOk (m : MF) : Bool :=
  if m.V then !m.d.isK
  else (m.ty ≠ .e3m2 && m.ty ≠ .e2m3 && m.ty ≠ .b128 && m.ty ≠ .b256)
    && (m.ty.width ≠ 64 || m.d.even)

/-- LD and ST families: address class, hint and layout as R249 allows. A load into k needs a k
address (R251). -/
def memOk (m : MF) (load pair hint layout ordOk : Bool) : Bool :=
  m.tyOk && m.bBits < 8 && (!pair || m.a.even) && (hint || m.ch == 0) && (layout || m.lay == 0)
    && (ordOk || m.ord.isNone) && (!(load && m.d.isK) || m.a.isK)

def p6Ok (m : MF) : Bool :=
  (m.ty == .e3m2 || m.ty == .e2m3) && m.bBits < 2 && m.a.even && m.d.thr

def prefOk (m : MF) : Bool :=
  m.d.zero && m.a.even && m.ty == .f32 && m.ord.isNone && m.b.zero
def spinfoOk (m : MF) : Bool :=
  m.a.zero && m.ty == .f32 && m.ord.isNone && m.ch == 0 && m.b.zero && m.off.toNat < 6
/-- Every field but ord is 0. -/
def bare (m : MF) : Bool :=
  m.d.zero && m.a.zero && m.ty == .f32 && m.ch == 0 && m.b.zero && m.off == 0
def fenceOk (m : MF) : Bool := m.bare && !m.ord.isNone
def detdrainOk (m : MF) : Bool := m.bare && (match m.ord with | .acq _ => false | _ => true)

/-- Operation code and offset of the atomics (R299). -/
def aop (m : MF) : Nat := m.off.toNat / 4096
def pairTy (t : Ty) : Bool := t == .s64 || t == .n64 || t == .b64
def iTy (t : Ty) : Bool := t == .s32 || t == .n32 || t == .b32 || pairTy t
/-- min and max need a signed or natural type (R300). -/
def iopOk (m : MF) : Bool :=
  m.aop ≤ 8 && ((m.aop ≠ 1 && m.aop ≠ 2) || (m.ty ≠ .b32 && m.ty ≠ .b64))
def fopOk (m : MF) : Bool := m.aop == 0 || ((m.aop == 1 || m.aop == 2) && m.ty == .f32)
/-- R301: a k destination needs the uniform form; so does none. -/
def auni (m : MF) (ret : Bool) : Bool := !(ret && m.d.isK) || (m.a.isK && m.b.isK)
def atomOk (m : MF) : Bool :=
  m.ch == 0 && m.a.even && iTy m.ty && m.iopOk && (!pairTy m.ty || (m.d.even && m.b.even))
    && (m.d.isK == m.b.isK) && m.auni true
def redOk (m : MF) : Bool :=
  m.ch == 0 && m.a.even && m.d.zero && iTy m.ty && m.iopOk && m.aop ≠ 6 && (!pairTy m.ty || m.b.even)
    && m.ord.relOk
def atomfOk (m : MF) : Bool :=
  m.ch == 0 && m.a.even && (m.ty == .f32 || m.ty == .bf16) && m.fopOk && m.auni true
def redfOk (m : MF) : Bool :=
  m.ch == 0 && m.a.even && m.d.zero && (m.ty == .f32 || m.ty == .bf16) && m.fopOk && m.ord.relOk
def casOk (m : MF) : Bool :=
  m.ch == 0 && m.a.even && m.aop == 0 && m.auni true &&
    ((m.ty == .b32 && m.b.even) || (m.ty == .b64 && m.d.even && m.b.num % 4 == 0))
def cas2Ok (m : MF) : Bool :=
  m.ch == 0 && m.a.even && m.aop == 0 && m.ty == .b128 && m.d.thr && m.b.thr

/-- The barrier scope is in ty (R315): 1 .wg, 2 .gang. -/
def barTy (m : MF) : Bool := m.ty == .f16 || m.ty == .bf16
def barScope (m : MF) : Nat := m.ty.code
def barinitOk (m : MF) : Bool := m.barTy && m.d.zero && m.ch == 0 && m.ord.relOk
def bararrOk (m : MF) : Bool :=
  m.barTy && m.ord.relOk && m.ord.scopeGe m.barScope
    && (if m.ch.getLsbD 1 then m.d.isK else m.d.zero) && (if m.ch.getLsbD 0 then m.b.isK else m.b.zero)
def barwaitOk (m : MF) : Bool :=
  m.barTy && m.d.zero && m.b.isK && m.ch == 0 && m.ord.acqOk && m.ord.scopeGe m.barScope
def barqryOk (m : MF) : Bool := m.barTy && m.b.zero && m.ch == 0 && m.ord.isNone

end MF

namespace BF

/-- jo19 uses a, q1, q2 and q3 (R150). -/
def kcOk (f : BF) : Bool :=
  let p := f.q1.toNat % 8
  p ≤ 3 || p == 7
def jmpOk (f : BF) : Bool := f.a.zero && f.kcOk && f.q2 == 0 && f.q3 == 0 && f.bx == 0
def jmpiOk (f : BF) : Bool := f.off == 0 && f.a.kEven && f.kcOk && f.q2 == 0 && f.q3 == 0 && f.bx == 0
def callOk (f : BF) : Bool := f.a.kEven && f.kcOk && f.q2 == 0 && f.q3 == 0 && f.bx == 0
def calliOk (f : BF) : Bool :=
  f.off == 0 && f.a.kEven && f.kcOk && f.q2 == 0 && f.q3 == 0 && f.bx.toNat < 64 && f.bx.toNat % 2 == 0
def noQ (f : BF) : Bool := f.q1 == 0 && f.q2 == 0 && f.q3 == 0
def bruOk (f : BF) : Bool :=
  f.noQ && (f.bx == 0 && f.a.zero || f.bx == 1 && f.off == 0 && f.a.thr && f.a.even)
def reconvOk (f : BF) : Bool := f.a.zero && f.noQ && f.bx == 0
def loopOk (f : BF) : Bool := f.a.zero && f.noQ && f.bx == 0
def loopkOk (f : BF) : Bool := f.a.isK && f.noQ && f.bx == 1
def yieldOk (f : BF) : Bool := f.off == 0 && f.a.zero && f.noQ && f.bx == 0
def waitfOk (f : BF) : Bool := f.off.toNat < 4096 && f.a.zero && f.noQ && f.bx.toNat < 64

end BF

namespace XF

/-- The A types of R225 and the B types each may meet. -/
def mmaTyOk (x : XF) : Bool :=
  let bt := x.mx.toNat % 8
  let pair := x.a.even
  match x.tyo.toNat with
  | 2 => pair && bt == 0 && !x.cbx && x.cbk == 0
  | 1 => pair && bt == 1 && !x.cbx && x.cbk == 0
  | 3 | 4 | 5 | 6 => pair && 2 ≤ bt && bt ≤ 5 && !x.cbx && x.cbk == 0
  | 9 => pair && bt == 6 && !x.cbx && x.cbk == 0
  | 7 => bt ≤ 1 && x.cbx && x.cbk == 0
  | 8 => bt ≤ 1 && x.cbx && x.cbk != 0
  | _ => false

/-- .hi (mx[3]) belongs to index rows (R226). -/
def mmaOk (x : XF) : Bool :=
  x.fs == 0 && x.c.zero && x.a.thr && x.mmaTyOk && x.mx.toNat < 16 && (x.mx.toNat < 8 || x.cbx)
/-- a, b, fs, lay, reu, ty, c, cbk and cbx all 0. -/
def rest0 (x : XF) : Bool :=
  x.fs == 0 && x.lay == 0 && !x.reu && x.tyo == 0 && x.cbk == 0 && !x.cbx
def mzeroOk (x : XF) : Bool :=
  x.rest0 && x.a.zero && x.b.zero && x.c.zero && x.tile.toNat + x.mx.toNat < 128
def mloadOk (x : XF) : Bool :=
  x.fs == 0 && !x.reu && x.tyo == 0 && x.cbk == 0 && !x.cbx && x.a.zero && x.c.zero && x.mx == 0
def mrdOk (x : XF) (s32 : Bool) : Bool :=
  x.rest0 && x.a.thr && x.b.zero && x.c.zero && (s32 || x.mx.toNat < 64)
    && x.mx.toNat % 8 + x.mx.toNat / 8 % 8 < 8 && x.a.num + x.mx.toNat / 8 % 8 < 64
/-- MDRAIN's ordering in bits 22 to 18 (R230). -/
def drainOrd (x : XF) : Option Order :=
  let o := x.tyo.toNat / 8
  let sc : Option Scope :=
    match x.tyo.toNat % 8 with
    | 0 => some .beam | 1 => some .wg | 2 => some .gang | 3 => some .dev | 4 => some .sys | _ => none
  match o, sc with
  | 0, some .beam => some .none
  | 1, some s => some (.acq s)
  | 2, some s => some (.rel s)
  | 3, some s => some (.ar s)
  | _, _ => none
def drainKind (x : XF) : Nat := x.mx.toNat / 4 % 4
def mdrainOk (x : XF) : Bool :=
  !x.reu && x.cbk == 0 && !x.cbx && x.drainOrd.isSome
    && (if x.mx.getLsbD 0 then true else x.a.zero) && (if x.mx.getLsbD 1 then true else x.c.zero)
    && x.mx.toNat / 32 < 3
    && (match x.drainKind with
        | 0 => true
        | 1 => x.b.kEven && x.lay == 0
        | 2 => x.b.isK && x.fs == 0 && x.lay == 0 && x.mx.toNat < 16
        | _ => false)
def mrelOk (x : XF) : Bool := x.rest0 && x.tile == 0 && x.a.zero && x.b.zero && x.c.zero && x.mx == 0
def mstatOk (x : XF) : Bool := x.rest0 && x.a.zero && x.b.zero && x.mx.toNat < 4

end XF

namespace TF

def rp (f : TF) : RF :=
  let n := f.tx.toNat % 128
  if n < 64 then .t (BitVec.ofNat 6 n) else .k (BitVec.ofNat 6 n)
def x (f : TF) (lo n : Nat) : Nat := f.tx.toNat / 2 ^ lo % 2 ^ n
def scopeFrom (o : Order) (lo : Nat) : Bool := o.scopeGe lo
def noOrd (f : TF) : Bool := f.ord.isNone
def tc0 (f : TF) : Bool := f.tc == 0

def cbldOk (f : TF) : Bool :=
  f.d.zero && f.a.kEven && f.b.isK && f.ord.acqOk && f.x 0 3 ≠ 0 && f.x 6 15 == 0
def logmarkOk (f : TF) : Bool := f.d.zero && f.a.isK && f.b.zero && f.noOrd && f.tc0 && f.tx == 0
def cpyOk (f : TF) : Bool := f.d.isK && f.a.isK && f.b.zero && f.x 3 18 == 0
def cpywpOk (f : TF) : Bool := f.d.kEven && f.a.zero && f.b.zero && f.ord.acqOk && f.tc0 && f.x 7 14 == 0
def cpywaitOk (f : TF) : Bool := f.d.isK && f.a.kEven && f.b.zero && f.ord.acqOk && f.tc0 && f.x 7 14 == 0
def cpycanOk (f : TF) : Bool := f.d.zero && f.a.isK && f.b.zero && f.noOrd && f.tc0 && f.x 4 17 == 0
def cpystOk (f : TF) : Bool := f.d.isK && f.a.zero && f.b.zero && f.noOrd && f.tc0 && f.x 9 12 == 0
def spawnOk (f : TF) : Bool :=
  f.d.zero && f.ord.relOk && f.ord.scopeGe 2 && f.x 7 14 == 0 && (f.x 5 1 == 1 || f.x 6 1 == 0)
    && (if f.x 5 1 == 1 then f.x 6 1 == 1 || f.b.even else f.b.zero)
def exitOk (f : TF) : Bool :=
  f.d.zero && f.a.zero && f.b.zero && f.tc0 && f.tx.toNat < 2 && f.ord.relOk && f.ord.scopeGe 2
    && (f.tx == 1 || f.noOrd)
def jwaitOk (f : TF) : Bool :=
  f.d.zero && f.b.zero && f.tc0 && f.tx.toNat < 2 && f.ord.acqOk && f.ord.scopeGe 2 && (f.tx == 1 || f.a.even)
def awaitOk (f : TF) : Bool :=
  f.d.zero && f.tc0 && f.x 15 6 == 0 &&
    (match f.x 12 3 with
     | 0 => f.a.zero && f.b.zero && f.noOrd
     | 1 | 2 | 3 => f.b.isK && f.ord.acqOk && f.x 1 11 == 0 && (f.x 0 1 == 1 || f.a.even)
     | _ => false)
/-- A queue entry operand (R337): even v, or k0, k16, k32, k48. -/
def entryOk (r : RF) : Bool := if r.isK then r.num % 16 == 0 else r.even
def qselOk (f : TF) (bit : Nat) : Bool := f.x bit 1 == 1 || f.b.zero
def qregOk (f : TF) : Bool := f.x 12 1 == 0 || f.x 0 12 == 0
def qpushOk (f : TF) : Bool :=
  f.d.predDst && entryOk f.a && (f.d.isK == f.a.isK) && f.qselOk 12 && f.qregOk && f.ord.relOk
    && f.ord.scopeGe 3 && f.x 13 8 == 0 && (!f.a.isK || f.x 12 1 == 0 || f.b.isK)
def qpopOk (f : TF) : Bool :=
  f.a.predDst && entryOk f.d && (f.d.isK == f.a.isK) && f.qselOk 12 && f.qregOk && f.ord.acqOk
    && f.ord.scopeGe 3 && f.x 13 8 == 0 && (!f.d.isK || f.x 12 1 == 0 || f.b.isK)
def qqryOk (f : TF) : Bool :=
  f.a.zero && f.qselOk 12 && f.qregOk && f.noOrd && f.x 13 3 < 5 && f.x 16 5 == 0
    && (!f.d.isK || f.x 12 1 == 0 || f.b.isK)
def nemitOk (f : TF) : Bool :=
  f.d.zero && f.a.thr && f.a.even && f.qselOk 8 && (f.x 8 1 == 0 || f.x 0 8 == 0) && f.ord.relOk
    && f.ord.scopeGe 3 && f.x 9 12 == 0
def ninfoOk (f : TF) : Bool := f.a.zero && f.b.zero && f.noOrd && f.tc0 && f.tx.toNat < 3
/-- A kp field in tx[1:0] (R137). -/
def launchOk (f : TF) : Bool :=
  f.d.isK && f.a.kEven && f.b.zero && f.ord.relOk && f.ord.scopeGe 3 && f.x 2 19 == 0
def lwaitOk (f : TF) : Bool :=
  f.d.isK && f.a.isK && f.b.zero && f.ord.acqOk && f.ord.scopeGe 3 && f.tc0 && f.tx == 0
def lpollOk (f : TF) : Bool :=
  f.d.isK && f.a.isK && f.b.zero && f.ord.acqOk && f.ord.scopeGe 3 && f.tc0 && f.x 2 19 == 0
def vswitchOk (f : TF) : Bool := f.d.zero && f.a.zero && f.b.zero && f.noOrd && f.tc0 && f.tx.toNat < 16
def roleOk (f : TF) : Bool := f.a.zero && f.b.zero && f.noOrd && f.tc0 && f.tx == 0

/-- rp must be an even k register, or an even s register where `thr` (R365). -/
def rpOk (f : TF) (thr : Bool) : Bool := f.rp.even && (thr || f.rp.isK)
def psmpOk (f : TF) : Bool :=
  f.d.thr && f.a.thr && f.a.num % 4 == 0 && f.b.thr && f.ord.acqOk && f.rpOk false && f.x 7 2 < 3
    && f.x 9 2 < 3 && f.x 12 9 == 0
def pupsOk (f : TF) : Bool :=
  f.d.thr && f.a.thr && f.a.num % 4 == 0 && f.b.thr && f.ord.acqOk && f.rpOk false && f.x 7 14 == 0
def pqryOk (f : TF) : Bool :=
  f.a.zero && (f.x 7 4 < 2 || f.b.zero) && f.noOrd && f.rpOk false && f.x 7 4 < 8 && f.x 11 10 == 0
    && (!f.d.isK || f.x 7 4 ≥ 2 || f.b.isK)
def faccOk (f : TF) : Bool :=
  f.d.zero && f.a.thr && f.b.thr && f.ord.relOk && f.rpOk true && f.x 7 14 == 0
def fresOk (f : TF) : Bool :=
  f.d.thr && f.d.even && f.a.zero && f.b.zero && f.ord.acqOk && f.rpOk true && f.x 8 13 == 0
def fclrOk (f : TF) : Bool :=
  f.d.zero && f.a.zero && f.ord.relOk && f.rpOk true && f.x 7 14 == 0
def timeOk (f : TF) : Bool := f.d.even && f.a.zero && f.b.zero && f.noOrd && f.tc0 && f.tx == 0
/-- d names kp0 to kp3 (R365). -/
def trigarmOk (f : TF) : Bool :=
  f.d.isK && f.d.predDst && f.a.kEven && f.b.isK && f.b.num % 4 == 0 && f.ord.acqOk && f.tc0 && f.x 4 17 == 0
def trigqOk (f : TF) : Bool :=
  f.a.zero && f.b.zero && f.noOrd && f.tc0 && f.x 4 2 < 3 && f.x 6 15 == 0
def rpktOk (f : TF) : Bool := f.d.zero && f.a.thr && f.b.kEven && f.ord.relOk && f.tx == 0
def rrecvOk (f : TF) : Bool := f.d.thr && f.a.zero && f.b.kEven && f.ord.acqOk && f.tc0 && f.tx == 0
def rstatOk (f : TF) : Bool := f.a.zero && f.b.kEven && f.noOrd && f.tc0 && f.tx.toNat < 9

end TF

namespace YF

def trapOk (f : YF) : Bool := f.d.zero && f.a.zero && f.sr == 0 && f.yx.toNat < 65536
def tretOk (f : YF) : Bool := f.d.zero && f.a.zero && f.sr == 0 && f.yx.toNat < 2
def rdsysOk (f : YF) : Bool := f.a.zero && f.yx == 0
def wrsysOk (f : YF) : Bool := f.d.zero && f.yx == 0
def tlbinvOk (f : YF) : Bool :=
  f.d.zero && f.sr == 0 && (f.yx == 0 && f.a.kEven || f.yx == 1 && f.a.zero)
def cflushOk (f : YF) : Bool :=
  f.d.zero && f.sr == 0 && (f.yx.toNat % 8 == 0 && f.a.kEven || f.yx == 1 && f.a.zero)
def cinvOk (f : YF) : Bool :=
  f.d.zero && f.sr == 0 && (f.yx.toNat % 8 < 3 && f.a.kEven || f.yx == 3 && f.a.zero)
def clkOk (f : YF) : Bool := f.d.even && f.a.zero && f.sr == 0 && f.yx == 0
def meshidOk (f : YF) : Bool := f.a.zero && f.sr == 0 && f.yx.toNat < 4

end YF

/-- TRET must be unguarded (R400); so must RECONV and loop.k (R150, R155). -/
def Hd.plain (h : Hd) : Bool := h.gp == 7 && !h.gn

/-! ### Paired words -/

/-- Which pipe a compact opcode uses (R66). -/
def Cop.main : Cop → Bool
  | .faddV | .fsubV | .fmulV | .ffmaV | .fminV | .fmaxV | .faddS | .fsubS | .fmulS | .ffmaS | .fminS
  | .fmaxS | .iaddS | .isubS | .imulS | .imadS | .iminS | .imaxS | .iaddV | .isubV | .movV => true
  | _ => false

/-- Whether its registers are v registers. -/
def Cop.v : Cop → Bool
  | .faddV | .fsubV | .fmulV | .ffmaV | .fminV | .fmaxV | .iaddV | .isubV | .movV | .andV | .orV | .xorV
  | .shlV | .shrV | .sraV => true
  | _ => false

/-- The one-source half-ops: b must be 0. -/
def Cop.unary : Cop → Bool
  | .movV | .notS | .popcS | .clzS | .movS | .frcpS | .frsqS | .fexp2S | .flog2S | .fabsS | .fnegS => true
  | _ => false

/-- Rows on which rm rounds (R67). -/
def Cop.rounds : Cop → Bool
  | .faddV | .fsubV | .fmulV | .ffmaV | .faddS | .fsubS | .fmulS | .ffmaS => true
  | _ => false

def Cop.fused : Cop → Bool
  | .ffmaV | .ffmaS | .imadS => true
  | _ => false

def Cop.pset : Cop → Bool
  | .psetI | .psetF => true
  | _ => false

namespace Half

/-- The condition code of a compact PSET: rm·4 + hx (R66). -/
def cond (x : Half) : Nat := x.rm.toNat * 4 + x.hx.toNat

/-- R67: unused bits are 0, and a PSET stays within its codes and below p7. -/
def fieldsOk (x : Half) : Bool :=
  (!x.cop.unary || x.b == 0) &&
  match x.cop with
  | .psetI => x.d.toNat ≤ 6 && x.cond ≤ 9
  | .psetF => x.d.toNat ≤ 6 && x.cond ≤ 5
  | .selS => x.rm == 0
  | .iminS | .imaxS => x.rm == 0 && x.hx.toNat < 2
  | .andS | .orS | .xorS | .andV | .orV | .xorV => x.rm == 0 && x.hx == 0
  | c => (c.rounds || x.rm == 0) && x.hx == 0

/-- The operand columns read (R57): vn is n mod 4, sn is 4 + n mod 4; fused forms read d too. -/
def columns (x : Half) : List Nat :=
  let col (n : BitVec 6) := (if x.cop.v then 0 else 4) + n.toNat % 4
  [col x.a] ++ (if x.cop.unary then [] else [col x.b]) ++ (if x.cop.fused then [col x.d] else [])

end Half

/-- The pairing rules (R57); rule 4 cannot fail. -/
def pairOk (x y : Half) : Bool :=
  (x.cop.main != y.cop.main) && ((x.columns ++ y.columns).eraseDups.length ≤ 3)
    && (x.cop.pset || y.cop.pset || x.cop.v != y.cop.v || x.d != y.d)

/-! ### All instructions -/

/-- The unallocated major opcodes of R62. -/
def unallocated (op : Nat) : Bool :=
  op == 0x00 || op == 0x0F || (0x19 ≤ op && op ≤ 0x1F) || (0x4C ≤ op && op ≤ 0x4F) || (0x77 ≤ op && op ≤ 0x7F)
    || (0x8B ≤ op && op ≤ 0x8F) || (0x99 ≤ op && op ≤ 0x9F) || (0xAD ≤ op && op ≤ 0xAF)
    || (0xBD ≤ op && op ≤ 0xBF) || (0xC5 ≤ op && op ≤ 0xC7) || op == 0xD6 || op == 0xD7 || op == 0xE2
    || op == 0xE3 || (0xF3 ≤ op && op ≤ 0xFF)

/-- Every condition of R54 and of the descriptions that the word alone decides. The machine's own
steps carry no word, so they are well formed. -/
def wellFormed : Instr → Bool
  | .nop _ f => f.plain && f.d.zero && f.abc0 && f.opx == 0
  | .br _ f => f.bx == 0
  | .bru _ f => f.bruOk
  | .brm _ _ => true
  | .brw _ f => f.bx == 0
  | .jmp _ f => f.jmpOk
  | .jmpi _ f => f.jmpiOk
  | .call _ f => f.callOk
  | .calli _ f => f.calliOk
  | .ret _ f => f.jmpiOk
  | .reconv h f => f.reconvOk && h.plain
  | .loop _ f => f.loopOk
  | .loopK h f => f.loopkOk && h.plain
  | .yield _ f => f.yieldOk
  | .waitf _ f => f.waitfOk
  | .pset _ f => f.psetOk
  | .pand _ f => f.predOk
  | .por _ f => f.predOk
  | .pxor _ f => f.predOk
  | .pnot _ f => f.plain && f.d.predDst && f.a.predSrc && f.bc0 && f.opx == 0 && f.uniOk false false
  | .pmov _ f => f.pmovOk
  | .vote _ f => f.voteOk
  | .elect _ f => f.electOk
  | .actmask _ f => f.actmaskOk
  | .mov _ f => f.movOk
  | .movi _ f => f.moviOk
  | .iadd _ f => f.int2 Ty.arith true
  | .iaddI _ f => f.addOk
  | .isub _ f => f.int2 Ty.arith true
  | .iaddc _ f => f.intOk true true false && f.ty == .n32 && f.x30 < 2
  | .imul _ f => f.int2 Ty.arith true
  | .imulI _ f => f.addOk
  | .imulh _ f => f.int2 Ty.arith false
  | .imad _ f => f.intOk true true true && f.ty.arith && f.x30 == 0
  | .imul64 _ f => f.imul64Ok
  | .iadd64 _ f => f.iadd64Ok
  | .idiv _ f => f.int2 Ty.arith false
  | .irem _ f => f.int2 Ty.arith false
  | .imin _ f => f.int2 Ty.arith false
  | .imax _ f => f.int2 Ty.arith false
  | .iabs _ f => f.int1 Ty.signed true
  | .ineg _ f => f.int1 Ty.signed true
  | .and _ f => f.int2 Ty.bits false
  | .andI _ f => f.logicOk
  | .or _ f => f.int2 Ty.bits false
  | .orI _ f => f.logicOk
  | .xor _ f => f.int2 Ty.bits false
  | .xorI _ f => f.logicOk
  | .not _ f => f.int1 Ty.bits false
  | .shl _ f => f.int2 Ty.bits false
  | .shlI _ f => f.shOk
  | .shr _ f => f.int2 Ty.arith false
  | .shrI _ f => f.shOk
  | .sra _ f => f.intOk true false false && f.ty.signed && f.x30 < 2
  | .sraI _ f => f.sraOk
  | .rot _ f => f.int2 Ty.bits false
  | .clz _ f => f.int1 Ty.bits false
  | .popc _ f => f.int1 Ty.bits false
  | .brev _ f => f.int1 Ty.bits false
  | .bfx _ f => f.intOk true false false && f.t32 && f.x30 == 0
  | .bfi _ f => f.intOk true true false && (f.t32 || f.ty == .b32) && f.x30 == 0
  | .sel _ f => f.selOk
  | .iset _ f => f.intOk true false false && f.ty.arith && f.x30 ≤ 9
  | .isetI _ f => f.isetOk
  | .lea _ f => f.leaOk
  | .leaI _ f => f.leaOk
  | .idp2 _ f => f.intOk true true false && f.ty == .s16 && f.x30 == 0
  | .inarrow _ f => f.intOk true false false && (f.ty == .s8 || f.ty == .s16 || f.ty == .n8 || f.ty == .n16) && f.x30 < 2
  | .fadd _ f => f.addOk
  | .faddI _ f => f.fltOk
  | .fsub _ f => f.addOk
  | .fmul _ f => f.addOk
  | .fmulI _ f => f.fltOk
  | .ffma _ f => f.fltOk true true && !f.x4
  | .ffms _ f => f.fltOk true true && !f.x4
  | .ffnm _ f => f.fltOk true true && !f.x4
  | .fmin _ f => f.fltOk true false && !f.x4 && f.noRm
  | .fmax _ f => f.fltOk true false && !f.x4 && f.noRm
  | .fabs _ f => f.fltOk false false && !f.x4 && f.noRm
  | .fneg _ f => f.fltOk false false && !f.x4 && f.noRm
  | .fcmp _ f => (ZF.fltOk (ZF.mk f.d f.a f.b f.c f.rm f.ty f.cbk f.cbs f.hi (f.opx &&& 0x30#6)) true false) && f.x30 ≤ 5 && !f.x4 && f.noRm
  | .fclamp _ f => f.fltOk true true && !f.x4 && f.noRm
  | .frcp _ f => f.sfuOk true
  | .frsq _ f => f.sfuOk true
  | .fsqrt _ f => f.sfuOk false
  | .fdiv _ f => f.fltOk true false && !f.x4 && f.ty == .f32
  | .fexp2 _ f => f.sfuOk true
  | .flog2 _ f => f.sfuOk true
  | .fsin _ f => f.sfuOk true
  | .fcos _ f => f.sfuOk true
  | .vdot _ f => f.vdotOk
  | .vhsum _ f => f.vhsumOk
  | .vbcast _ f => f.vbcastOk
  | .vext _ f => f.vextOk
  | .vins _ f => f.vinsOk
  | .vperm _ f => f.vpermOk
  | .vslide _ f => f.vslideOk
  | .vshfl _ f => f.vshflOk
  | .vhero _ f => f.vheroOk
  | .polmv _ f => f.polOk 4 16
  | .polmm _ f => f.polOk 16 16
  | .rngdraw _ f => f.rngdrawOk
  | .rngset _ f => f.rngsetOk
  | .rngskip _ f => f.rngskipOk
  | .fxrd _ f => f.fxrdOk
  | .fxclr _ f => f.fxclrOk
  | .fsign _ f => f.ty.flt && !(f.V && f.d.isK) && ZF.srcOk false f.c f.hiC && f.uniOk true false && f.noCb && !f.x4 && f.x30 < 2 && f.noRm
  | .cvt _ f => f.cvtOk
  | .cvtsEnc _ f => f.cvtsOk && !f.opx.getLsbD 3
  | .cvtsDec _ f => f.cvtsOk && f.opx.getLsbD 3
  | .pack6 _ f => f.packOk false
  | .pack4 _ f => f.packOk true
  | .unpack6 _ f => f.unpackOk false
  | .unpack4 _ f => f.unpackOk true
  | .tagset _ f => f.tagsetOk
  | .tagrd _ f => f.tagrdOk
  | .cbld _ f => f.cbldOk
  | .cbsync _ f => f.plain && f.d.zero && f.abc0 && f.opx == 0
  | .cbx _ f => f.cbxOk
  | .qnt _ f => f.qntOk
  | .sclqEnc _ f => f.sclqOk && !f.opx.getLsbD 0
  | .sclqDec _ f => f.sclqOk && f.opx.getLsbD 0
  | .mma _ f => f.mmaOk
  | .mmat _ f => f.mmaOk
  | .mzero _ f => f.mzeroOk
  | .mload _ f => f.mloadOk
  | .mrd _ f => f.mrdOk true
  | .mwr _ f => f.mrdOk false
  | .mdrain _ f => f.mdrainOk
  | .mrel _ f => f.mrelOk
  | .mstat _ f => f.mstatOk
  | .ld _ f => f.memOk true true true false true
  | .st _ f => f.memOk false true true false true
  | .lds _ f => f.memOk true false false true true
  | .sts _ f => f.memOk false false false true true
  | .ldg _ f => f.memOk true false false true true
  | .stg _ f => f.memOk false false false true true
  | .ldk _ f => f.memOk true false false false true
  | .stk _ f => f.memOk false false false false true
  | .ldc _ f => f.memOk true false true false false
  | .ldp6 _ f => f.p6Ok
  | .stp6 _ f => f.p6Ok
  | .pref _ f => f.prefOk
  | .spinfo _ f => f.spinfoOk
  | .fence _ f => f.fenceOk
  | .detdrain _ f => f.detdrainOk
  | .atom _ f => f.atomOk
  | .atomf _ f => f.atomfOk
  | .red _ f => f.redOk
  | .redf _ f => f.redfOk
  | .cas _ f => f.casOk
  | .cas2 _ f => f.cas2Ok
  | .barinit _ f => f.barinitOk
  | .bararr _ f => f.bararrOk
  | .barwait _ f => f.barwaitOk
  | .barqry _ f => f.barqryOk
  | .logmark _ f => f.logmarkOk
  | .cpy _ f => f.cpyOk
  | .cpywp _ f => f.cpywpOk
  | .cpywait _ f => f.cpywaitOk
  | .cpycan _ f => f.cpycanOk
  | .cpyst _ f => f.cpystOk
  | .spawn _ f => f.spawnOk
  | .exit _ f => f.exitOk
  | .jwait _ f => f.jwaitOk
  | .await _ f => f.awaitOk
  | .qpush _ f => f.qpushOk
  | .qpop _ f => f.qpopOk
  | .qqry _ f => f.qqryOk
  | .nemit _ f => f.nemitOk
  | .ninfo _ f => f.ninfoOk
  | .launch _ f => f.launchOk
  | .lwait _ f => f.lwaitOk
  | .lpoll _ f => f.lpollOk
  | .vswitch _ f => f.vswitchOk
  | .role _ f => f.roleOk
  | .psmp _ f => f.psmpOk
  | .psmpl _ f => f.psmpOk
  | .pups _ f => f.pupsOk
  | .pqry _ f => f.pqryOk
  | .facc _ f => f.faccOk
  | .fres _ f => f.fresOk
  | .fclr _ f => f.fclrOk
  | .time _ f => f.timeOk
  | .trigarm _ f => f.trigarmOk
  | .trigq _ f => f.trigqOk
  | .rpkt _ f => f.rpktOk
  | .rrecv _ f => f.rrecvOk
  | .rbcast _ f => f.rrecvOk
  | .rstat _ f => f.rstatOk
  | .trap _ f => f.trapOk
  | .tret h f => f.tretOk && h.plain
  | .rdsys _ f => f.rdsysOk
  | .wrsys _ f => f.wrsysOk
  | .halt _ f => f.trapOk
  | .tlbinv _ f => f.tlbinvOk
  | .cflush _ f => f.cflushOk
  | .cinv _ f => f.cinvOk
  | .clk _ f => f.clkOk
  | .meshid _ f => f.meshidOk
  | .pmark _ f => f.trapOk
  | .pairedWord x y => x.fieldsOk && y.fieldsOk && pairOk x y
  | .unallocatedOpcode w => unallocated (w.toNat / 2 ^ 55)
  | .clauseStart => true
  | .forcedSwitch => true
  | .overdueBeam => true
  | .handlerEntry => true
  | .counterFall => true
  | .beamWake => true
  | .hostPush => true
  | .dispatcherTake => true
  | .reservationHold => true
  | .reservationBackoff => true
  | .launchCompletionRecord => true
  | .swreqSet => true
  | .detApplication => true
  | .spawnGatherTimer => true
  | .spawnGroupPlace => true
  | .parkReload => true
  | .spillRefill => true
  | .binFireTimer => true
  | .binLaunch => true
  | .queueArm => true
  | .preemptRequest => true
  | .preemptSuspend => true
  | .preemptResume => true
  | .gangSave => true
  | .gangResume => true
  | .faultResumeRetry => true
  | .faultResumeAbort => true
  | .faultResumeContinue => true
  | .eventBufferDrain => true
  | .launchLevelTrap => true
  | .mirrorTurn => true
  | .copyCommandStart => true
  | .copyWpAdvance => true
  | .copyCommandEnd => true
  | .copyFaultStall => true
  | .routerPacketArrival => true
  | .collectiveTimeout => true
  | .expiryNotice => true
  | .timeTick => true
  | .ppsEdge => true
  | .timeStep => true
  | .triggerFire => true
  | .pinPulseEnd => true
  | .packetRd => true
  | .packetWr => true
  | .packetAtom => true
  | .packetQcmd => true
  | .packetCtl => true
  | .packetRsp => true
  | .linkRetrain => true
  | .scrub => true
  | .hotWindowEnd => true
  | .stackHotSet => true
  | .stackHotClear => true
  | .ualinkInbound => true
  | .ualinkTimeout => true
  | .vetikTimeout => true
  | .vetikRetrain => true
  | .registerWrite => true
  | .coreSplitWrite => true
  | .stackSplitWrite => true
  | .enabWrite => true
  | .counterClear => true
  | .powerOn => true
  | .warm => true
  | .go => true
  | .trip => true
  | .throt => true
  | .idleEntry => true
  | .idleWake => true
  | .coreRetire => true
  | .unitFailed => true
  | .sliceFailed => true
  | .instructionLineFill => true
  | .ualinkPortRetrain => true
  | .hostMemoryAccess => true

end Sys2Proof
end

