-- ==== Sys2Proof/Decode.lean ====
section
/-! DEFINITION. Words to instructions and back (R40 to R56, R62, R66). `decode` is total: it answers
the instruction, or says which trap the word raises at issue (R54, R57). `encode` is written from the
same field tables. -/

namespace Sys2Proof

/-- Why a word is no instruction, which is also the trap it raises when it comes to issue. -/
inductive Reject where
  | illegalInstruction
  | illegalPair
  deriving DecidableEq, Repr

/-! ### Fields -/

def RF.bits : RF → BitVec 7
  | .t n => 0#1 ++ n
  | .k n => 1#1 ++ n

def RF.ofBits (b : BitVec 7) : RF := if b.getLsbD 6 then .k (b.extractLsb' 0 6) else .t (b.extractLsb' 0 6)

def Rm.bits : Rm → BitVec 3
  | .rn => 0 | .rz => 1 | .ru => 2 | .rd => 3 | .rna => 4 | .sr => 5

def Rm.ofBits (b : BitVec 3) : Option Rm :=
  match b.toNat with
  | 0 => some .rn | 1 => some .rz | 2 => some .ru | 3 => some .rd | 4 => some .rna | 5 => some .sr
  | _ => none

def Ty.bits5 (t : Ty) : BitVec 5 := BitVec.ofNat 5 t.code
def Ty.ofBits (b : BitVec 5) : Option Ty := Ty.ofCode b.toNat

def Scope.bits : Scope → BitVec 3
  | .beam => 0 | .wg => 1 | .gang => 2 | .dev => 3 | .sys => 4

def Scope.ofBits (b : BitVec 3) : Option Scope :=
  match b.toNat with
  | 0 => some .beam | 1 => some .wg | 2 => some .gang | 3 => some .dev | 4 => some .sys
  | _ => none

/-- ord then sc (R49). -/
def Order.bits : Order → BitVec 6
  | .none => 0
  | .acq s => 1#3 ++ s.bits
  | .rel s => 2#3 ++ s.bits
  | .ar s => 3#3 ++ s.bits

def Order.ofBits (b : BitVec 6) : Option Order :=
  match (b.extractLsb' 3 3).toNat with
  | 0 => if b.extractLsb' 0 3 = 0 then some .none else Option.none
  | 1 => (Scope.ofBits (b.extractLsb' 0 3)).map .acq
  | 2 => (Scope.ofBits (b.extractLsb' 0 3)).map .rel
  | 3 => (Scope.ofBits (b.extractLsb' 0 3)).map .ar
  | _ => Option.none

def bit1 (b : Bool) : BitVec 1 := BitVec.ofBool b

/-! ### Formats: bits [63:50] are shared (R40), bits [49:0] as each format lays them out -/

def encHd (op : BitVec 8) (h : Hd) : BitVec 14 := 0#1 ++ op ++ bit1 h.gn ++ h.gp ++ bit1 h.cf

def encZ (op : BitVec 8) (h : Hd) (z : ZF) : W64 :=
  encHd op h ++ z.d.bits ++ z.a.bits ++ z.b.bits ++ z.c.bits ++ z.rm.bits ++ z.ty.bits5 ++ z.cbk ++ z.cbs
    ++ z.hi ++ z.opx

def encI (op : BitVec 8) (h : Hd) (f : IF) : W64 := encHd op h ++ f.d.bits ++ f.a.bits ++ f.imx ++ f.imm

def encM (op : BitVec 8) (h : Hd) (m : MF) : W64 :=
  encHd op h ++ m.d.bits ++ m.a.bits ++ m.ty.bits5 ++ m.ord.bits ++ m.ch ++ m.b.bits ++ m.off

def encB (op : BitVec 8) (h : Hd) (f : BF) : W64 :=
  encHd op h ++ f.off ++ f.a.bits ++ f.q1 ++ f.q2 ++ f.q3 ++ f.bx

def encX (op : BitVec 8) (h : Hd) (x : XF) : W64 :=
  encHd op h ++ x.tile ++ x.a.bits ++ x.b.bits ++ x.fs ++ x.lay ++ bit1 x.reu ++ x.tyo ++ x.c.bits ++ x.cbk
    ++ bit1 x.cbx ++ x.mx

def encT (op : BitVec 8) (h : Hd) (f : TF) : W64 :=
  encHd op h ++ f.d.bits ++ f.a.bits ++ f.b.bits ++ f.ord.bits ++ f.tc ++ f.tx

def encY (op : BitVec 8) (h : Hd) (f : YF) : W64 := encHd op h ++ f.d.bits ++ f.a.bits ++ f.sr ++ f.yx

def parseHd (w : W64) : Hd :=
  { gn := w.getLsbD 54, gp := w.extractLsb' 51 3, cf := w.getLsbD 50 }

def rfAt (w : W64) (lo : Nat) : RF := RF.ofBits (w.extractLsb' lo 7)

def parseZ (w : W64) : Option ZF :=
  match Rm.ofBits (w.extractLsb' 19 3), Ty.ofBits (w.extractLsb' 14 5) with
  | some rm, some ty =>
    some { d := rfAt w 43, a := rfAt w 36, b := rfAt w 29, c := rfAt w 22, rm := rm, ty := ty,
           cbk := w.extractLsb' 11 3, cbs := w.extractLsb' 9 2, hi := w.extractLsb' 6 3, opx := w.extractLsb' 0 6 }
  | _, _ => none

def parseI (w : W64) : IF :=
  { d := rfAt w 43, a := rfAt w 36, imx := w.extractLsb' 32 4, imm := w.extractLsb' 0 32 }

def parseM (w : W64) : Option MF :=
  match Ty.ofBits (w.extractLsb' 31 5), Order.ofBits (w.extractLsb' 25 6) with
  | some ty, some o =>
    some { d := rfAt w 43, a := rfAt w 36, ty := ty, ord := o, ch := w.extractLsb' 23 2, b := rfAt w 16,
           off := w.extractLsb' 0 16 }
  | _, _ => none

def parseB (w : W64) : BF :=
  { off := w.extractLsb' 26 24, a := rfAt w 19, q1 := w.extractLsb' 15 4, q2 := w.extractLsb' 11 4,
    q3 := w.extractLsb' 7 4, bx := w.extractLsb' 0 7 }

def parseX (w : W64) : XF :=
  { tile := w.extractLsb' 43 7, a := rfAt w 36, b := rfAt w 29, fs := w.extractLsb' 26 3,
    lay := w.extractLsb' 24 2, reu := w.getLsbD 23, tyo := w.extractLsb' 18 5, c := rfAt w 11,
    cbk := w.extractLsb' 8 3, cbx := w.getLsbD 7, mx := w.extractLsb' 0 7 }

def parseT (w : W64) : Option TF :=
  match Order.ofBits (w.extractLsb' 23 6) with
  | some o =>
    some { d := rfAt w 43, a := rfAt w 36, b := rfAt w 29, ord := o, tc := w.extractLsb' 21 2,
           tx := w.extractLsb' 0 21 }
  | none => none

def parseY (w : W64) : YF :=
  { d := rfAt w 43, a := rfAt w 36, sr := w.extractLsb' 20 16, yx := w.extractLsb' 0 20 }

/-- The compact opcodes of R66. -/
def Cop.bits : Cop → BitVec 6
  | .faddV => 0x01 | .fsubV => 0x02 | .fmulV => 0x03 | .ffmaV => 0x04 | .fminV => 0x05 | .fmaxV => 0x06
  | .faddS => 0x08 | .fsubS => 0x09 | .fmulS => 0x0A | .ffmaS => 0x0B | .fminS => 0x0C | .fmaxS => 0x0D
  | .iaddS => 0x10 | .isubS => 0x11 | .imulS => 0x12 | .imadS => 0x13 | .iminS => 0x14 | .imaxS => 0x15
  | .iaddV => 0x16 | .isubV => 0x17 | .movV => 0x18 | .andS => 0x20 | .orS => 0x21 | .xorS => 0x22
  | .notS => 0x23 | .shlS => 0x24 | .shrS => 0x25 | .sraS => 0x26 | .popcS => 0x27 | .clzS => 0x28
  | .andV => 0x29 | .orV => 0x2A | .xorV => 0x2B | .selS => 0x2C | .psetI => 0x2D | .psetF => 0x2E
  | .movS => 0x30 | .frcpS => 0x31 | .frsqS => 0x32 | .fexp2S => 0x33 | .flog2S => 0x34 | .fabsS => 0x35
  | .fnegS => 0x36 | .shlV => 0x38 | .shrV => 0x39 | .sraV => 0x3A

def Cop.ofBits (b : BitVec 6) : Option Cop :=
  match b.toNat with
  | 0x01 => some .faddV | 0x02 => some .fsubV | 0x03 => some .fmulV | 0x04 => some .ffmaV | 0x05 => some .fminV
  | 0x06 => some .fmaxV | 0x08 => some .faddS | 0x09 => some .fsubS | 0x0A => some .fmulS | 0x0B => some .ffmaS
  | 0x0C => some .fminS | 0x0D => some .fmaxS | 0x10 => some .iaddS | 0x11 => some .isubS | 0x12 => some .imulS
  | 0x13 => some .imadS | 0x14 => some .iminS | 0x15 => some .imaxS | 0x16 => some .iaddV | 0x17 => some .isubV
  | 0x18 => some .movV | 0x20 => some .andS | 0x21 => some .orS | 0x22 => some .xorS | 0x23 => some .notS
  | 0x24 => some .shlS | 0x25 => some .shrS | 0x26 => some .sraS | 0x27 => some .popcS | 0x28 => some .clzS
  | 0x29 => some .andV | 0x2A => some .orV | 0x2B => some .xorV | 0x2C => some .selS | 0x2D => some .psetI
  | 0x2E => some .psetF | 0x30 => some .movS | 0x31 => some .frcpS | 0x32 => some .frsqS | 0x33 => some .fexp2S
  | 0x34 => some .flog2S | 0x35 => some .fabsS | 0x36 => some .fnegS | 0x38 => some .shlV | 0x39 => some .shrV
  | 0x3A => some .sraV
  | _ => none

def encHalf (x : Half) : BitVec 31 := x.cop.bits ++ x.d ++ x.a ++ x.b ++ x.gp ++ x.rm ++ x.hx

def parseHalf (b : BitVec 31) : Option Half :=
  (Cop.ofBits (b.extractLsb' 25 6)).map fun c =>
    { cop := c, d := b.extractLsb' 19 6, a := b.extractLsb' 13 6, b := b.extractLsb' 7 6,
      gp := b.extractLsb' 4 3, rm := b.extractLsb' 2 2, hx := b.extractLsb' 0 2 }

/-- The word of a well-formed instruction word (none for the machine's own steps). -/
def encode : Instr → Option W64
  | .nop h f => some (encZ 0x01#8 h f)
  | .br h f => some (encB 0x02#8 h f)
  | .bru h f => some (encB 0x03#8 h f)
  | .brm h f => some (encB 0x04#8 h f)
  | .brw h f => some (encB 0x05#8 h f)
  | .jmp h f => some (encB 0x06#8 h f)
  | .jmpi h f => some (encB 0x07#8 h f)
  | .call h f => some (encB 0x08#8 h f)
  | .calli h f => some (encB 0x09#8 h f)
  | .ret h f => some (encB 0x0A#8 h f)
  | .reconv h f => some (encB 0x0B#8 h f)
  | .loop h f => some (encB 0x0C#8 h f)
  | .loopK h f => some (encB 0x0C#8 h f)
  | .yield h f => some (encB 0x0D#8 h f)
  | .waitf h f => some (encB 0x0E#8 h f)
  | .pset h f => some (encZ 0x10#8 h f)
  | .pand h f => some (encZ 0x11#8 h f)
  | .por h f => some (encZ 0x12#8 h f)
  | .pxor h f => some (encZ 0x13#8 h f)
  | .pnot h f => some (encZ 0x14#8 h f)
  | .pmov h f => some (encZ 0x15#8 h f)
  | .vote h f => some (encZ 0x16#8 h f)
  | .elect h f => some (encZ 0x17#8 h f)
  | .actmask h f => some (encZ 0x18#8 h f)
  | .mov h f => some (encZ 0x20#8 h f)
  | .movi h f => some (encI 0x21#8 h f)
  | .iadd h f => some (encZ 0x22#8 h f)
  | .iaddI h f => some (encI 0x42#8 h f)
  | .isub h f => some (encZ 0x23#8 h f)
  | .iaddc h f => some (encZ 0x24#8 h f)
  | .imul h f => some (encZ 0x25#8 h f)
  | .imulI h f => some (encI 0x43#8 h f)
  | .imulh h f => some (encZ 0x26#8 h f)
  | .imad h f => some (encZ 0x27#8 h f)
  | .imul64 h f => some (encZ 0x28#8 h f)
  | .iadd64 h f => some (encZ 0x29#8 h f)
  | .idiv h f => some (encZ 0x2A#8 h f)
  | .irem h f => some (encZ 0x2B#8 h f)
  | .imin h f => some (encZ 0x2C#8 h f)
  | .imax h f => some (encZ 0x2D#8 h f)
  | .iabs h f => some (encZ 0x2E#8 h f)
  | .ineg h f => some (encZ 0x2F#8 h f)
  | .and h f => some (encZ 0x30#8 h f)
  | .andI h f => some (encI 0x44#8 h f)
  | .or h f => some (encZ 0x31#8 h f)
  | .orI h f => some (encI 0x45#8 h f)
  | .xor h f => some (encZ 0x32#8 h f)
  | .xorI h f => some (encI 0x46#8 h f)
  | .not h f => some (encZ 0x33#8 h f)
  | .shl h f => some (encZ 0x34#8 h f)
  | .shlI h f => some (encI 0x47#8 h f)
  | .shr h f => some (encZ 0x35#8 h f)
  | .shrI h f => some (encI 0x48#8 h f)
  | .sra h f => some (encZ 0x36#8 h f)
  | .sraI h f => some (encI 0x49#8 h f)
  | .rot h f => some (encZ 0x37#8 h f)
  | .clz h f => some (encZ 0x38#8 h f)
  | .popc h f => some (encZ 0x39#8 h f)
  | .brev h f => some (encZ 0x3A#8 h f)
  | .bfx h f => some (encZ 0x3B#8 h f)
  | .bfi h f => some (encZ 0x3C#8 h f)
  | .sel h f => some (encZ 0x3D#8 h f)
  | .iset h f => some (encZ 0x3E#8 h f)
  | .isetI h f => some (encI 0x4A#8 h f)
  | .lea h f => some (encZ 0x3F#8 h f)
  | .leaI h f => some (encI 0x4B#8 h f)
  | .idp2 h f => some (encZ 0x40#8 h f)
  | .inarrow h f => some (encZ 0x41#8 h f)
  | .fadd h f => some (encZ 0x50#8 h f)
  | .faddI h f => some (encI 0x75#8 h f)
  | .fsub h f => some (encZ 0x51#8 h f)
  | .fmul h f => some (encZ 0x52#8 h f)
  | .fmulI h f => some (encI 0x76#8 h f)
  | .ffma h f => some (encZ 0x53#8 h f)
  | .ffms h f => some (encZ 0x54#8 h f)
  | .ffnm h f => some (encZ 0x55#8 h f)
  | .fmin h f => some (encZ 0x56#8 h f)
  | .fmax h f => some (encZ 0x57#8 h f)
  | .fabs h f => some (encZ 0x58#8 h f)
  | .fneg h f => some (encZ 0x59#8 h f)
  | .fcmp h f => some (encZ 0x5A#8 h f)
  | .fclamp h f => some (encZ 0x5B#8 h f)
  | .frcp h f => some (encZ 0x5C#8 h f)
  | .frsq h f => some (encZ 0x5D#8 h f)
  | .fsqrt h f => some (encZ 0x5E#8 h f)
  | .fdiv h f => some (encZ 0x5F#8 h f)
  | .fexp2 h f => some (encZ 0x60#8 h f)
  | .flog2 h f => some (encZ 0x61#8 h f)
  | .fsin h f => some (encZ 0x62#8 h f)
  | .fcos h f => some (encZ 0x63#8 h f)
  | .vdot h f => some (encZ 0x64#8 h f)
  | .vhsum h f => some (encZ 0x65#8 h f)
  | .vbcast h f => some (encZ 0x66#8 h f)
  | .vext h f => some (encZ 0x67#8 h f)
  | .vins h f => some (encZ 0x68#8 h f)
  | .vperm h f => some (encZ 0x69#8 h f)
  | .vslide h f => some (encZ 0x6A#8 h f)
  | .vshfl h f => some (encZ 0x6B#8 h f)
  | .vhero h f => some (encZ 0x6C#8 h f)
  | .polmv h f => some (encZ 0x6D#8 h f)
  | .polmm h f => some (encZ 0x6E#8 h f)
  | .rngdraw h f => some (encZ 0x6F#8 h f)
  | .rngset h f => some (encZ 0x70#8 h f)
  | .rngskip h f => some (encZ 0x71#8 h f)
  | .fxrd h f => some (encZ 0x72#8 h f)
  | .fxclr h f => some (encZ 0x73#8 h f)
  | .fsign h f => some (encZ 0x74#8 h f)
  | .cvt h f => some (encZ 0x80#8 h f)
  | .cvtsEnc h f => some (encZ 0x81#8 h f)
  | .cvtsDec h f => some (encZ 0x81#8 h f)
  | .pack6 h f => some (encZ 0x82#8 h f)
  | .pack4 h f => some (encZ 0x82#8 h f)
  | .unpack6 h f => some (encZ 0x83#8 h f)
  | .unpack4 h f => some (encZ 0x83#8 h f)
  | .tagset h f => some (encZ 0x84#8 h f)
  | .tagrd h f => some (encZ 0x85#8 h f)
  | .cbld h f => some (encT 0x86#8 h f)
  | .cbsync h f => some (encZ 0x87#8 h f)
  | .cbx h f => some (encZ 0x88#8 h f)
  | .qnt h f => some (encZ 0x89#8 h f)
  | .sclqEnc h f => some (encZ 0x8A#8 h f)
  | .sclqDec h f => some (encZ 0x8A#8 h f)
  | .mma h f => some (encX 0x90#8 h f)
  | .mmat h f => some (encX 0x91#8 h f)
  | .mzero h f => some (encX 0x92#8 h f)
  | .mload h f => some (encX 0x93#8 h f)
  | .mrd h f => some (encX 0x94#8 h f)
  | .mwr h f => some (encX 0x95#8 h f)
  | .mdrain h f => some (encX 0x96#8 h f)
  | .mrel h f => some (encX 0x97#8 h f)
  | .mstat h f => some (encX 0x98#8 h f)
  | .ld h f => some (encM 0xA0#8 h f)
  | .st h f => some (encM 0xA1#8 h f)
  | .lds h f => some (encM 0xA2#8 h f)
  | .sts h f => some (encM 0xA3#8 h f)
  | .ldg h f => some (encM 0xA4#8 h f)
  | .stg h f => some (encM 0xA5#8 h f)
  | .ldk h f => some (encM 0xA6#8 h f)
  | .stk h f => some (encM 0xA7#8 h f)
  | .ldc h f => some (encM 0xA8#8 h f)
  | .ldp6 h f => some (encM 0xA9#8 h f)
  | .stp6 h f => some (encM 0xAA#8 h f)
  | .pref h f => some (encM 0xAB#8 h f)
  | .spinfo h f => some (encM 0xAC#8 h f)
  | .fence h f => some (encM 0xB0#8 h f)
  | .detdrain h f => some (encM 0xB1#8 h f)
  | .atom h f => some (encM 0xB2#8 h f)
  | .atomf h f => some (encM 0xB3#8 h f)
  | .red h f => some (encM 0xB4#8 h f)
  | .redf h f => some (encM 0xB5#8 h f)
  | .cas h f => some (encM 0xB6#8 h f)
  | .cas2 h f => some (encM 0xB7#8 h f)
  | .barinit h f => some (encM 0xB8#8 h f)
  | .bararr h f => some (encM 0xB9#8 h f)
  | .barwait h f => some (encM 0xBA#8 h f)
  | .barqry h f => some (encM 0xBB#8 h f)
  | .logmark h f => some (encT 0xBC#8 h f)
  | .cpy h f => some (encT 0xC0#8 h f)
  | .cpywp h f => some (encT 0xC1#8 h f)
  | .cpywait h f => some (encT 0xC2#8 h f)
  | .cpycan h f => some (encT 0xC3#8 h f)
  | .cpyst h f => some (encT 0xC4#8 h f)
  | .spawn h f => some (encT 0xC8#8 h f)
  | .exit h f => some (encT 0xC9#8 h f)
  | .jwait h f => some (encT 0xCA#8 h f)
  | .await h f => some (encT 0xCB#8 h f)
  | .qpush h f => some (encT 0xCC#8 h f)
  | .qpop h f => some (encT 0xCD#8 h f)
  | .qqry h f => some (encT 0xCE#8 h f)
  | .nemit h f => some (encT 0xCF#8 h f)
  | .ninfo h f => some (encT 0xD0#8 h f)
  | .launch h f => some (encT 0xD1#8 h f)
  | .lwait h f => some (encT 0xD2#8 h f)
  | .lpoll h f => some (encT 0xD3#8 h f)
  | .vswitch h f => some (encT 0xD4#8 h f)
  | .role h f => some (encT 0xD5#8 h f)
  | .psmp h f => some (encT 0xD8#8 h f)
  | .psmpl h f => some (encT 0xD9#8 h f)
  | .pups h f => some (encT 0xDA#8 h f)
  | .pqry h f => some (encT 0xDB#8 h f)
  | .facc h f => some (encT 0xDC#8 h f)
  | .fres h f => some (encT 0xDD#8 h f)
  | .fclr h f => some (encT 0xDE#8 h f)
  | .time h f => some (encT 0xDF#8 h f)
  | .trigarm h f => some (encT 0xE0#8 h f)
  | .trigq h f => some (encT 0xE1#8 h f)
  | .rpkt h f => some (encT 0xE4#8 h f)
  | .rrecv h f => some (encT 0xE5#8 h f)
  | .rbcast h f => some (encT 0xE6#8 h f)
  | .rstat h f => some (encT 0xE7#8 h f)
  | .trap h f => some (encY 0xE8#8 h f)
  | .tret h f => some (encY 0xE9#8 h f)
  | .rdsys h f => some (encY 0xEA#8 h f)
  | .wrsys h f => some (encY 0xEB#8 h f)
  | .halt h f => some (encY 0xEC#8 h f)
  | .tlbinv h f => some (encY 0xED#8 h f)
  | .cflush h f => some (encY 0xEE#8 h f)
  | .cinv h f => some (encY 0xEF#8 h f)
  | .clk h f => some (encY 0xF0#8 h f)
  | .meshid h f => some (encY 0xF1#8 h f)
  | .pmark h f => some (encY 0xF2#8 h f)
  | .pairedWord x y => some (1#1 ++ encHalf x ++ 0#1 ++ encHalf y)
  | .unallocatedOpcode w => some (0#1 ++ w)
  | .clauseStart => none
  | .forcedSwitch => none
  | .overdueBeam => none
  | .handlerEntry => none
  | .counterFall => none
  | .beamWake => none
  | .hostPush => none
  | .dispatcherTake => none
  | .reservationHold => none
  | .reservationBackoff => none
  | .launchCompletionRecord => none
  | .swreqSet => none
  | .detApplication => none
  | .spawnGatherTimer => none
  | .spawnGroupPlace => none
  | .parkReload => none
  | .spillRefill => none
  | .binFireTimer => none
  | .binLaunch => none
  | .queueArm => none
  | .preemptRequest => none
  | .preemptSuspend => none
  | .preemptResume => none
  | .gangSave => none
  | .gangResume => none
  | .faultResumeRetry => none
  | .faultResumeAbort => none
  | .faultResumeContinue => none
  | .eventBufferDrain => none
  | .launchLevelTrap => none
  | .mirrorTurn => none
  | .copyCommandStart => none
  | .copyWpAdvance => none
  | .copyCommandEnd => none
  | .copyFaultStall => none
  | .routerPacketArrival => none
  | .collectiveTimeout => none
  | .expiryNotice => none
  | .timeTick => none
  | .ppsEdge => none
  | .timeStep => none
  | .triggerFire => none
  | .pinPulseEnd => none
  | .packetRd => none
  | .packetWr => none
  | .packetAtom => none
  | .packetQcmd => none
  | .packetCtl => none
  | .packetRsp => none
  | .linkRetrain => none
  | .scrub => none
  | .hotWindowEnd => none
  | .stackHotSet => none
  | .stackHotClear => none
  | .ualinkInbound => none
  | .ualinkTimeout => none
  | .vetikTimeout => none
  | .vetikRetrain => none
  | .registerWrite => none
  | .coreSplitWrite => none
  | .stackSplitWrite => none
  | .enabWrite => none
  | .counterClear => none
  | .powerOn => none
  | .warm => none
  | .go => none
  | .trip => none
  | .throt => none
  | .idleEntry => none
  | .idleWake => none
  | .coreRetire => none
  | .unitFailed => none
  | .sliceFailed => none
  | .instructionLineFill => none
  | .ualinkPortRetrain => none
  | .hostMemoryAccess => none

/-- The instruction a full word names by its opcode (R62) and the bits that tell two rows of one
opcode apart; none where a field holds a reserved value. -/
def build (w : W64) : Option Instr :=
  let h := parseHd w
  match (w.extractLsb' 55 8).toNat with
  | 0x01 => (parseZ w).map (.nop h)
  | 0x02 => some (.br h (parseB w))
  | 0x03 => some (.bru h (parseB w))
  | 0x04 => some (.brm h (parseB w))
  | 0x05 => some (.brw h (parseB w))
  | 0x06 => some (.jmp h (parseB w))
  | 0x07 => some (.jmpi h (parseB w))
  | 0x08 => some (.call h (parseB w))
  | 0x09 => some (.calli h (parseB w))
  | 0x0A => some (.ret h (parseB w))
  | 0x0B => some (.reconv h (parseB w))
  | 0x0C => if w.getLsbD 0 then some (.loopK h (parseB w)) else some (.loop h (parseB w))
  | 0x0D => some (.yield h (parseB w))
  | 0x0E => some (.waitf h (parseB w))
  | 0x10 => (parseZ w).map (.pset h)
  | 0x11 => (parseZ w).map (.pand h)
  | 0x12 => (parseZ w).map (.por h)
  | 0x13 => (parseZ w).map (.pxor h)
  | 0x14 => (parseZ w).map (.pnot h)
  | 0x15 => (parseZ w).map (.pmov h)
  | 0x16 => (parseZ w).map (.vote h)
  | 0x17 => (parseZ w).map (.elect h)
  | 0x18 => (parseZ w).map (.actmask h)
  | 0x20 => (parseZ w).map (.mov h)
  | 0x21 => some (.movi h (parseI w))
  | 0x22 => (parseZ w).map (.iadd h)
  | 0x23 => (parseZ w).map (.isub h)
  | 0x24 => (parseZ w).map (.iaddc h)
  | 0x25 => (parseZ w).map (.imul h)
  | 0x26 => (parseZ w).map (.imulh h)
  | 0x27 => (parseZ w).map (.imad h)
  | 0x28 => (parseZ w).map (.imul64 h)
  | 0x29 => (parseZ w).map (.iadd64 h)
  | 0x2A => (parseZ w).map (.idiv h)
  | 0x2B => (parseZ w).map (.irem h)
  | 0x2C => (parseZ w).map (.imin h)
  | 0x2D => (parseZ w).map (.imax h)
  | 0x2E => (parseZ w).map (.iabs h)
  | 0x2F => (parseZ w).map (.ineg h)
  | 0x30 => (parseZ w).map (.and h)
  | 0x31 => (parseZ w).map (.or h)
  | 0x32 => (parseZ w).map (.xor h)
  | 0x33 => (parseZ w).map (.not h)
  | 0x34 => (parseZ w).map (.shl h)
  | 0x35 => (parseZ w).map (.shr h)
  | 0x36 => (parseZ w).map (.sra h)
  | 0x37 => (parseZ w).map (.rot h)
  | 0x38 => (parseZ w).map (.clz h)
  | 0x39 => (parseZ w).map (.popc h)
  | 0x3A => (parseZ w).map (.brev h)
  | 0x3B => (parseZ w).map (.bfx h)
  | 0x3C => (parseZ w).map (.bfi h)
  | 0x3D => (parseZ w).map (.sel h)
  | 0x3E => (parseZ w).map (.iset h)
  | 0x3F => (parseZ w).map (.lea h)
  | 0x40 => (parseZ w).map (.idp2 h)
  | 0x41 => (parseZ w).map (.inarrow h)
  | 0x42 => some (.iaddI h (parseI w))
  | 0x43 => some (.imulI h (parseI w))
  | 0x44 => some (.andI h (parseI w))
  | 0x45 => some (.orI h (parseI w))
  | 0x46 => some (.xorI h (parseI w))
  | 0x47 => some (.shlI h (parseI w))
  | 0x48 => some (.shrI h (parseI w))
  | 0x49 => some (.sraI h (parseI w))
  | 0x4A => some (.isetI h (parseI w))
  | 0x4B => some (.leaI h (parseI w))
  | 0x50 => (parseZ w).map (.fadd h)
  | 0x51 => (parseZ w).map (.fsub h)
  | 0x52 => (parseZ w).map (.fmul h)
  | 0x53 => (parseZ w).map (.ffma h)
  | 0x54 => (parseZ w).map (.ffms h)
  | 0x55 => (parseZ w).map (.ffnm h)
  | 0x56 => (parseZ w).map (.fmin h)
  | 0x57 => (parseZ w).map (.fmax h)
  | 0x58 => (parseZ w).map (.fabs h)
  | 0x59 => (parseZ w).map (.fneg h)
  | 0x5A => (parseZ w).map (.fcmp h)
  | 0x5B => (parseZ w).map (.fclamp h)
  | 0x5C => (parseZ w).map (.frcp h)
  | 0x5D => (parseZ w).map (.frsq h)
  | 0x5E => (parseZ w).map (.fsqrt h)
  | 0x5F => (parseZ w).map (.fdiv h)
  | 0x60 => (parseZ w).map (.fexp2 h)
  | 0x61 => (parseZ w).map (.flog2 h)
  | 0x62 => (parseZ w).map (.fsin h)
  | 0x63 => (parseZ w).map (.fcos h)
  | 0x64 => (parseZ w).map (.vdot h)
  | 0x65 => (parseZ w).map (.vhsum h)
  | 0x66 => (parseZ w).map (.vbcast h)
  | 0x67 => (parseZ w).map (.vext h)
  | 0x68 => (parseZ w).map (.vins h)
  | 0x69 => (parseZ w).map (.vperm h)
  | 0x6A => (parseZ w).map (.vslide h)
  | 0x6B => (parseZ w).map (.vshfl h)
  | 0x6C => (parseZ w).map (.vhero h)
  | 0x6D => (parseZ w).map (.polmv h)
  | 0x6E => (parseZ w).map (.polmm h)
  | 0x6F => (parseZ w).map (.rngdraw h)
  | 0x70 => (parseZ w).map (.rngset h)
  | 0x71 => (parseZ w).map (.rngskip h)
  | 0x72 => (parseZ w).map (.fxrd h)
  | 0x73 => (parseZ w).map (.fxclr h)
  | 0x74 => (parseZ w).map (.fsign h)
  | 0x75 => some (.faddI h (parseI w))
  | 0x76 => some (.fmulI h (parseI w))
  | 0x80 => (parseZ w).map (.cvt h)
  | 0x81 => if w.getLsbD 3 then (parseZ w).map (.cvtsDec h) else (parseZ w).map (.cvtsEnc h)
  | 0x82 => if w.getLsbD 0 then (parseZ w).map (.pack4 h) else (parseZ w).map (.pack6 h)
  | 0x83 => if w.getLsbD 0 then (parseZ w).map (.unpack4 h) else (parseZ w).map (.unpack6 h)
  | 0x84 => (parseZ w).map (.tagset h)
  | 0x85 => (parseZ w).map (.tagrd h)
  | 0x86 => (parseT w).map (.cbld h)
  | 0x87 => (parseZ w).map (.cbsync h)
  | 0x88 => (parseZ w).map (.cbx h)
  | 0x89 => (parseZ w).map (.qnt h)
  | 0x8A => if w.getLsbD 0 then (parseZ w).map (.sclqDec h) else (parseZ w).map (.sclqEnc h)
  | 0x90 => some (.mma h (parseX w))
  | 0x91 => some (.mmat h (parseX w))
  | 0x92 => some (.mzero h (parseX w))
  | 0x93 => some (.mload h (parseX w))
  | 0x94 => some (.mrd h (parseX w))
  | 0x95 => some (.mwr h (parseX w))
  | 0x96 => some (.mdrain h (parseX w))
  | 0x97 => some (.mrel h (parseX w))
  | 0x98 => some (.mstat h (parseX w))
  | 0xA0 => (parseM w).map (.ld h)
  | 0xA1 => (parseM w).map (.st h)
  | 0xA2 => (parseM w).map (.lds h)
  | 0xA3 => (parseM w).map (.sts h)
  | 0xA4 => (parseM w).map (.ldg h)
  | 0xA5 => (parseM w).map (.stg h)
  | 0xA6 => (parseM w).map (.ldk h)
  | 0xA7 => (parseM w).map (.stk h)
  | 0xA8 => (parseM w).map (.ldc h)
  | 0xA9 => (parseM w).map (.ldp6 h)
  | 0xAA => (parseM w).map (.stp6 h)
  | 0xAB => (parseM w).map (.pref h)
  | 0xAC => (parseM w).map (.spinfo h)
  | 0xB0 => (parseM w).map (.fence h)
  | 0xB1 => (parseM w).map (.detdrain h)
  | 0xB2 => (parseM w).map (.atom h)
  | 0xB3 => (parseM w).map (.atomf h)
  | 0xB4 => (parseM w).map (.red h)
  | 0xB5 => (parseM w).map (.redf h)
  | 0xB6 => (parseM w).map (.cas h)
  | 0xB7 => (parseM w).map (.cas2 h)
  | 0xB8 => (parseM w).map (.barinit h)
  | 0xB9 => (parseM w).map (.bararr h)
  | 0xBA => (parseM w).map (.barwait h)
  | 0xBB => (parseM w).map (.barqry h)
  | 0xBC => (parseT w).map (.logmark h)
  | 0xC0 => (parseT w).map (.cpy h)
  | 0xC1 => (parseT w).map (.cpywp h)
  | 0xC2 => (parseT w).map (.cpywait h)
  | 0xC3 => (parseT w).map (.cpycan h)
  | 0xC4 => (parseT w).map (.cpyst h)
  | 0xC8 => (parseT w).map (.spawn h)
  | 0xC9 => (parseT w).map (.exit h)
  | 0xCA => (parseT w).map (.jwait h)
  | 0xCB => (parseT w).map (.await h)
  | 0xCC => (parseT w).map (.qpush h)
  | 0xCD => (parseT w).map (.qpop h)
  | 0xCE => (parseT w).map (.qqry h)
  | 0xCF => (parseT w).map (.nemit h)
  | 0xD0 => (parseT w).map (.ninfo h)
  | 0xD1 => (parseT w).map (.launch h)
  | 0xD2 => (parseT w).map (.lwait h)
  | 0xD3 => (parseT w).map (.lpoll h)
  | 0xD4 => (parseT w).map (.vswitch h)
  | 0xD5 => (parseT w).map (.role h)
  | 0xD8 => (parseT w).map (.psmp h)
  | 0xD9 => (parseT w).map (.psmpl h)
  | 0xDA => (parseT w).map (.pups h)
  | 0xDB => (parseT w).map (.pqry h)
  | 0xDC => (parseT w).map (.facc h)
  | 0xDD => (parseT w).map (.fres h)
  | 0xDE => (parseT w).map (.fclr h)
  | 0xDF => (parseT w).map (.time h)
  | 0xE0 => (parseT w).map (.trigarm h)
  | 0xE1 => (parseT w).map (.trigq h)
  | 0xE4 => (parseT w).map (.rpkt h)
  | 0xE5 => (parseT w).map (.rrecv h)
  | 0xE6 => (parseT w).map (.rbcast h)
  | 0xE7 => (parseT w).map (.rstat h)
  | 0xE8 => some (.trap h (parseY w))
  | 0xE9 => some (.tret h (parseY w))
  | 0xEA => some (.rdsys h (parseY w))
  | 0xEB => some (.wrsys h (parseY w))
  | 0xEC => some (.halt h (parseY w))
  | 0xED => some (.tlbinv h (parseY w))
  | 0xEE => some (.cflush h (parseY w))
  | 0xEF => some (.cinv h (parseY w))
  | 0xF0 => some (.clk h (parseY w))
  | 0xF1 => some (.meshid h (parseY w))
  | 0xF2 => some (.pmark h (parseY w))
  | _ => some (.unallocatedOpcode (w.extractLsb' 0 63))

/-- A paired word (R55 to R57): an unallocated half-op or a nonzero unused bit is
ILLEGAL_INSTRUCTION, a broken pairing rule ILLEGAL_PAIR. DESIGN CHOICE, unsafe (log 97). -/
def decodePair (w : W64) : Except Reject Instr :=
  match parseHalf (w.extractLsb' 32 31), parseHalf (w.extractLsb' 0 31), w.getLsbD 31 with
  | some x, some y, false =>
    if x.fieldsOk && y.fieldsOk then
      if pairOk x y then .ok (.pairedWord x y) else .error .illegalPair
    else .error .illegalInstruction
  | _, _, _ => .error .illegalInstruction

/-- The instruction a word is, or the trap it raises at issue. -/
def decode (w : W64) : Except Reject Instr :=
  if w.getLsbD 63 then decodePair w
  else
    match build w with
    | some i => if wellFormed i then .ok i else .error .illegalInstruction
    | none => .error .illegalInstruction

/-- Eight bytes, the first at the lowest address (R2, R27), as a word. -/
def wordOfBytes : List Byte → W64
  | [b0, b1, b2, b3, b4, b5, b6, b7] => b7 ++ b6 ++ b5 ++ b4 ++ b3 ++ b2 ++ b1 ++ b0
  | _ => 0

/-- The bytes of a word as memory holds them. -/
def bytesOfWord (w : W64) : List Byte := (List.range 8).map fun i => w.extractLsb' (8 * i) 8

/-- The decoder on bytes: a word is 8 bytes. -/
def decodeBytes (bs : List Byte) : Except Reject Instr :=
  if bs.length = 8 then decode (wordOfBytes bs) else .error .illegalInstruction

/-- The instruction the decoder reads from an instruction whose bits are w; a word has 64 bits, and
those the table does not count are zero. -/
def decodeTableWord (nbits w : Nat) : Option Instr :=
  match decode (BitVec.ofNat 64 (w % 2 ^ min nbits 64)) with
  | .ok i => some i
  | .error _ => none

end Sys2Proof
end

