-- ==== Sys2Proof/Machine/Maps.lean ====
section
/-! DEFINITION. Sparse tables as sorted lists of number and value, and the bit and byte helpers that
every family uses (R2, R89). A table is plain data: keys strictly rise, so equal tables are equal
lists. -/

namespace Sys2Proof.Machine

/-- A table of values by number, keys strictly rising. -/
abbrev NMap (α : Type) := List (Nat × α)

/-- The value listed under a key. -/
def look {α : Type} : NMap α → Nat → Option α
  | [], _ => none
  | (k, v) :: m, x => if x = k then some v else look m x

/-- List a value under a key, in place of what stood there. -/
def put {α : Type} : NMap α → Nat → α → NMap α
  | [], x, a => [(x, a)]
  | (k, v) :: m, x, a =>
    if x < k then (x, a) :: (k, v) :: m
    else if x = k then (x, a) :: m
    else (k, v) :: put m x a

/-- Drop a key. -/
def del {α : Type} : NMap α → Nat → NMap α
  | [], _ => []
  | (k, v) :: m, x => if x = k then m else (k, v) :: del m x

/-- Change the value under a key, if there is one. -/
def upd {α : Type} : NMap α → Nat → (α → α) → NMap α
  | [], _, _ => []
  | (k, v) :: m, x, f => if x = k then (k, f v) :: m else (k, v) :: upd m x f

/-- Keys strictly rise. -/
def sorted {α : Type} : NMap α → Bool
  | [] => true
  | [_] => true
  | (k, _) :: (k', v) :: m => decide (k < k') && sorted ((k', v) :: m)

/-! ### Bytes in a table: an unlisted byte reads 0, and a zero byte is never listed -/

/-- The byte at an address. DESIGN CHOICE, unsafe (log 5). -/
def getB (m : NMap Byte) (a : Nat) : Byte := (look m a).getD 0

/-- Write one byte. -/
def setB (m : NMap Byte) (a : Nat) (b : Byte) : NMap Byte := if b = 0 then del m a else put m a b

/-- n bytes from an address, lowest first. -/
def getBs (m : NMap Byte) (a : Nat) : Nat → List Byte
  | 0 => []
  | n + 1 => getB m a :: getBs m (a + 1) n

/-- Write bytes at ascending addresses. -/
def setBs (m : NMap Byte) (a : Nat) : List Byte → NMap Byte
  | [] => m
  | b :: bs => setBs (setB m a b) (a + 1) bs

/-- Drop every byte of a range. -/
def clearRange (m : NMap Byte) (a n : Nat) : NMap Byte := m.filter fun x => x.1 < a || a + n ≤ x.1

/-- The canonical form of a byte table. -/
def wfB (m : NMap Byte) : Bool := sorted m && m.all fun x => decide (x.2 ≠ 0)

/-- Little-endian bytes as a number (R2). -/
def natOfBytes : List Byte → Nat
  | [] => 0
  | b :: bs => b.toNat + 256 * natOfBytes bs

/-- A number as n little-endian bytes. -/
def bytesOfNat : Nat → Nat → List Byte
  | 0, _ => []
  | n + 1, x => BitVec.ofNat 8 x :: bytesOfNat n (x / 256)

/-- Bits [hi:lo] of a number. -/
def bits (x hi lo : Nat) : Nat := x / 2 ^ lo % 2 ^ (hi + 1 - lo)
/-- Bit i of a number. -/
def bit (x i : Nat) : Bool := x / 2 ^ i % 2 == 1
/-- A Bool as 0 or 1. -/
def b2n (b : Bool) : Nat := if b then 1 else 0
/-- Element i of width w (R89). -/
def elem (x w i : Nat) : Nat := x / 2 ^ (w * i) % 2 ^ w
/-- Elements of width w, lowest first, as one number. -/
def ofElems (w : Nat) : List Nat → Nat
  | [] => 0
  | e :: es => e % 2 ^ w + 2 ^ w * ofElems w es
/-- The first n elements of width w. -/
def elems (x w n : Nat) : List Nat := (List.range n).map (elem x w)
/-- A w-bit field read as a signed number. -/
def sext (w x : Nat) : Int := if x % 2 ^ w < 2 ^ (w - 1) then ((x % 2 ^ w : Nat) : Int) else ((x % 2 ^ w : Nat) : Int) - (2 ^ w : Nat)
/-- A signed number as a w-bit field. -/
def wrap (w : Nat) (i : Int) : Nat := (i % ((2 ^ w : Nat) : Int)).toNat
/-- Round up to a multiple. -/
def roundUp (x m : Nat) : Nat := (x + m - 1) / m * m
/-- The threads, places or bits 0 to n - 1 that satisfy a test, as a mask. -/
def maskOf (n : Nat) (p : Nat → Bool) : Nat := (List.range n).foldl (fun m i => if p i then m + 2 ^ i else m) 0
/-- The set bits of an 8-bit mask in ascending order. -/
def bitsOf (m : BitVec 8) : List Nat := (List.range 8).filter fun t => m.getLsbD t
/-- A mask of threads as bits. -/
def mask8 (p : Nat → Bool) : BitVec 8 := BitVec.ofNat 8 (maskOf 8 p)
/-- The lowest set bit. -/
def lowest (m : BitVec 8) : Nat := (bitsOf m).headD 0

/-- XOR of the w-bit fields of x that start at lo, lo + w, …, n of them. -/
def xorFields (x w lo : Nat) : Nat → Nat
  | 0 => 0
  | n + 1 => (x / 2 ^ lo % 2 ^ w) ^^^ xorFields x w (lo + w) n

end Sys2Proof.Machine
end

