-- ==== Sys2Proof/Machine/State.lean ====
section
/-! DEFINITION. The state of the device as plain data: every piece of state the spec names, each under
its own name, and a few fields of the model's own (the agenda, the fresh-value counter), marked as
such. Tables list what exists; INVENTORY.md gives each field's rule and reset value. -/

namespace Sys2Proof.Machine

/-! ### Traps and faults in flight -/

/-- What a trap brings to its frame (R395), but for the resume position and the masks at entry.
DEDUCED, unsafe (log 74). -/
structure TrapInfo where
  code : Nat
  mask : BitVec 8 := 0
  reg : Nat := 0xFF
  addr : Nat := 0
  d0 : Nat := 0
  d1 : Nat := 0
  d2 : Nat := 0
  deferred : Bool := false
  ovf : Bool := false
  ctr : Nat := 0xFF
  feature : Nat := 0
  deriving DecidableEq, Repr

/-- The record a counter keeps of the first fault of its operations (R36), and the untracked-error
record of a beam (R253). -/
structure FaultRec where
  code : Nat
  addr : Nat := 0
  mask : BitVec 8 := 0
  ovf : Bool := false
  deriving DecidableEq, Repr

/-! ### Threads -/

/-- A join reference (R348): the virtual address of the parent's counter, or its offset in the
allocation of the parent's workgroup. -/
inductive JoinRef where
  | mem (va : Nat)
  | scratch (wg off : Nat)
  deriving DecidableEq, Repr

/-- A thread slot in use (R19, R100, R110, R124). -/
structure Thread where
  v : Vector V256 64 := Vector.replicate 64 0
  s : Vector W32 64 := Vector.replicate 64 0
  vtag : Vector (BitVec 4) 64 := Vector.replicate 64 15
  stag : Vector (BitVec 4) 64 := Vector.replicate 64 15
  p : BitVec 7 := 0
  fx : BitVec 8 := 0
  join : Option JoinRef := none
  /-- Creation identity, as the src field of R310. -/
  ident : Nat := 0
  /-- The thread has not exited. -/
  alive : Bool := true
  /-- The workgroup the slot is allotted to. -/
  wg : Nat := 0
  deriving DecidableEq, Repr

/-- A register write that lands when an operation completes (R34): only the bits of the mask change;
a tag is written with a thread register. DEDUCED, safe (log 10). -/
inductive RegWrite where
  /-- a v register under a mask, in elements of so many bits -/
  | v (thread : Nat) (n : Nat) (val mask : V256) (tag : BitVec 4) (ew : Nat)
  | s (thread : Nat) (n : Nat) (val : W32) (tag : BitVec 4)
  | k (n : Nat) (val : W32)
  | p (thread : Nat) (n : Nat) (val : Bool)
  | kp (n : Nat) (val : Bool)
  /-- flags ORed into fx (R235) -/
  | fx (thread : Nat) (fl : Nat)
  deriving DecidableEq, Repr

/-! ### Beams -/

/-- The beam states of R134. -/
inductive BeamSt where
  | ready | issuing | waiting | parked | evicted | halted | exited
  deriving DecidableEq, Repr

/-- What a WAITING, PARKED or EVICTED beam waits for. -/
inductive Wait where
  | none
  /-- MODEL: the awaited event has come, and the word that waited issues again to finish -/
  | met
  /-- the next clause's wait field or the accumulator hold (R33, R224) -/
  | clause
  /-- WAITF: every counter of the mask at most n (R160) -/
  | waitf (mask : BitVec 12) (n : Nat)
  /-- every counter zero, before a rendezvous (R136, R156) -/
  | zero
  /-- the register-writing loads of R353 -/
  | loads
  /-- Mirror turns (R312): of each waiting party the stream's kind and key, and its name -/
  | mirror (ts : List (Nat × Nat × Nat))
  /-- arrived at a BRW rendezvous (R156): the taken threads, the target and the join -/
  | brw (taken : BitVec 8) (tg jn : W64)
  /-- arrived at VSWITCH point k (R136) -/
  | vswitch (k : Nat)
  /-- a compacted beam at its matching RECONV, or a beam slot without a list (R156) -/
  | brwPath
  /-- BARWAIT on the object at this place of a core's SRAM with this token (R318), counted in its
  WAIT field -/
  | barrier (core off tok : Nat)
  /-- AWAIT mode 0 (R352): the counter mask -/
  | counters (mask : BitVec 12)
  /-- a word in memory (location) or in a core's SRAM compared (R350, R352): 0 zero, 1 eq, 2 ne,
  3 ge -/
  | mword (loc : Nat) (mode : Nat) (cmp : Nat)
  | sword (core off : Nat) (mode : Nat) (cmp : Nat)
  /-- the same of a word that a context sees through an Aperture -/
  | aword (ctx va : Nat) (mode : Nat) (cmp : Nat)
  /-- LWAIT for a child (R139) -/
  | child (handle : Nat)
  /-- MODEL: the child an LWAIT parked for has ended with this status -/
  | ended (status : Nat)
  /-- a translation fault not yet answered (R403) -/
  | ticket (t : Nat)
  /-- HALT not yet answered (R401) -/
  | host (t : Nat)
  /-- the final wait of EXIT (R349) -/
  | exit
  deriving DecidableEq, Repr

/-- The A operand latch of a beam slot (R227): the key (a, ty, cbx, cbk, .hi), the threads it was read from, and
the operand. DEDUCED, unsafe (log 86). -/
structure Latch where
  key : Nat
  list : List (Option Nat)
  data : List Nat
  deriving DecidableEq, Repr

/-- What a word has done whose other threads still wait for their turns (R312): the threads done, the register
writes of its operation, and the threads that met an error. -/
structure Partway where
  done : BitVec 8 := 0
  ws : List RegWrite := []
  bad : List Nat := []
  deriving DecidableEq, Repr

/-- A beam slot in use (R21, R34, R36, R39, R142, R144, R200, R413). -/
structure Beam where
  /-- MODEL: a number no other beam ever has, so that an operation in flight finds its beam. -/
  uid : Nat := 0
  wg : Nat := 0
  /-- index in the workgroup -/
  b : Nat := 0
  pc : W64 := 0
  pos : Nat := 0
  /-- inside a clause that has started -/
  mid : Bool := false
  /-- the clause as fetched: header and words; empty before the fetch -/
  buf : List W64 := []
  k : Vector W32 64 := Vector.replicate 64 0
  kp : BitVec 4 := 0
  ctr : Vector Nat 12 := Vector.replicate 12 0
  recs : Vector (Option FaultRec) 12 := Vector.replicate 12 none
  untracked : Option FaultRec := none
  genKey : W64 := 0
  genCtr : Nat := 0
  tagMode : Bool := false
  idivTrap : Bool := false
  hmode : Bool := false
  live : BitVec 8 := 0
  active : BitVec 8 := 0
  /-- the thread slot numbers in pass order -/
  list : List (Option Nat) := []
  st : BeamSt := .ready
  wait : Wait := .none
  /-- the threads of an EVICTED beam, in the park area (R354) -/
  evicted : List (Option Thread) := []
  /-- the state a HALTED beam held -/
  held : BeamSt := .ready
  lane : Option Nat := none
  age : Nat := 0
  parkedAt : Nat := 0
  /-- clauses of other beams started while READY (R142) -/
  passed : Nat := 0
  latch : Option Latch := none
  /-- a rendezvous trap raised in every arrived beam, not yet entered -/
  pend : Option TrapInfo := none
  partway : Option Partway := none
  /-- it has arrived at a drain since the last one started (R294) -/
  detDone : Bool := false
  deriving DecidableEq, Repr

/-! ### Workgroups -/

inductive RKind where
  | br | brm | loop | brw
  deriving DecidableEq, Repr

/-- An entry of the reconvergence stack (R145). -/
structure REntry where
  beam : Nat
  kind : RKind
  rmask : BitVec 8 := 0
  m : List (BitVec 8) := []
  next : Nat := 0
  jn : W64 := 0
  tg : W64 := 0
  ft : W64 := 0
  deriving DecidableEq, Repr

/-- An original list the compaction unit keeps (R156). -/
structure BrwOrig where
  beam : Nat
  list : List (Option Nat)
  active : BitVec 8
  deriving DecidableEq, Repr

/-- The compaction unit's lists of an open BRW (R156). -/
structure Brw where
  orig : List BrwOrig
  taken : List Nat
  fall : List Nat
  path : Nat
  deriving DecidableEq, Repr

/-- What created a workgroup (R124, R345, R359). -/
inductive WgKind where
  /-- launched: role 0 none, 1 loader, 2 computer, 3 storer -/
  | launch (role : Nat)
  | spawn (e : Nat) (num : Nat)
  | bin (node : Nat) (num : Nat) (recs : Nat) (timer : Bool)
  deriving DecidableEq, Repr

/-- A drain of DET partials that has started and is not yet applied (R295). -/
structure DetDrain where
  num : Nat
  release : Bool
  deriving DecidableEq, Repr

/-- The resources held for a variant switch (R135). -/
structure SwHold where
  /-- beam slots beyond those it has -/
  beams : List Nat := []
  slots : List Nat
  spadBase : Nat
  spadSize : Nat
  deriving DecidableEq, Repr

/-- A workgroup (R116, R129, R131, R135, R145, R295, R394). -/
structure Wg where
  gang : Nat := 0
  launch : Nat := 0
  core : Nat := 0
  w : Nat := 0
  kind : WgKind := .launch 0
  variant : Nat := 0
  fixedVar : Bool := false
  nv : Nat := 64
  ns : Nat := 64
  spadBase : Nat := 0
  spadSize : Nat := 0
  /-- the save region of R394: present, and then 256 bytes per beam -/
  region : Bool := false
  /-- beam slot keys by b -/
  beams : List Nat := []
  stack : List REntry := []
  brw : Option Brw := none
  swreq : BitVec 8 := 0
  swHold : Option SwHold := none
  placed : Nat := 0
  /-- drains started so far, and those not yet applied -/
  detNum : Nat := 0
  drains : List DetDrain := []
  retired : Bool := false
  /-- its slots and its scratchpad are free for others: those of a role workgroup are only once the last workgroup of
  its gang retires (R362) -/
  freed : Bool := false
  deriving DecidableEq, Repr

/-! ### Gangs, launches, code objects -/

inductive GangSt where
  | placed | halting | saved
  deriving DecidableEq, Repr

/-- A gang (R116, R118, R407, R409). -/
structure Gang where
  launch : Nat := 0
  g : Nat := 0
  x : Nat := 0
  y : Nat := 0
  w : Nat := 1
  h : Nat := 1
  /-- a saved gang's state stands on cores of numbers 256 and up, which no gang is placed on (MODEL) -/
  st : GangSt := .placed
  placed : Nat := 0
  deriving DecidableEq, Repr

/-- A role entry (R120). -/
structure Role where
  entry : Nat
  variant : Nat
  count : Nat
  deriving DecidableEq, Repr

/-- A format slot (R106). -/
structure Fs where
  efmt : Nat := 0
  cbw : Nat := 0
  bsz : Nat := 0
  sfmt : Nat := 0
  sloc : Nat := 0
  cbank : Nat := 0
  ssr : Nat := 0
  sate : Bool := false
  smin : Nat := 0
  smax : Nat := 0
  deriving DecidableEq, Repr

/-- The fields of a launch record (R119). -/
structure LRec where
  code : Nat := 0
  parm : Nat := 0
  done : Nat := 0
  fpt : Nat := 0
  gshp : Nat := 0
  wpc : Nat := 1
  gcnt : Nat := 1
  prio : Nat := 0
  tc : Nat := 0
  flags : Nat := 0
  dmax : Nat := 0
  quota : Nat := 0
  sresv : Nat := 0
  olog : Nat := 0
  olsz : Nat := 0
  spillq : Nat := 0
  nest : Nat := 0
  wgtab : Nat := 0
  seed : Nat := 0
  /-- loader, computer, storer -/
  roles : List (Option Role) := []
  fs : List Fs := []
  deriving DecidableEq, Repr

/-- A variant's budget (R79). -/
structure Variant where
  nv : Nat
  ns : Nat
  beams : Nat
  spad : Nat
  deriving DecidableEq, Repr

/-- An entry (R80). -/
structure Entry where
  offs : List Nat
  role : Nat
  deriving DecidableEq, Repr

/-- A spawn entry (R81). -/
structure SpawnEntry where
  pc : Nat
  nv : Nat
  ns : Nat
  beams : Nat
  pay : Nat
  spad : Nat
  deriving DecidableEq, Repr

/-- A work-graph node (R82) with its ring (R356). -/
structure Node where
  entry : Nat
  size : Nat
  count : Nat
  timer : Nat
  ring : Nat := 0
  nslot : Nat := 1
  deriving DecidableEq, Repr

/-- A place of a switch map (R83). -/
structure Place where
  cls : Nat
  reg : Nat
  off : Nat
  deriving DecidableEq, Repr

/-- A switch point of one variant (R83). -/
structure SwPoint where
  pc : Nat
  area : Nat
  places : List Place
  deriving DecidableEq, Repr

/-- What the dispatcher reads of a code object (R78 to R83). -/
structure CodeObj where
  swmask : Nat := 0
  codeoff : Nat := 0
  codesz : Nat := 0
  cstoff : Nat := 0
  cstsz : Nat := 0
  variants : List Variant := []
  entries : List Entry := []
  spawns : List SpawnEntry := []
  nodes : List Node := []
  /-- index 16n + k -/
  points : List SwPoint := []
  deriving DecidableEq, Repr

inductive LaunchSt where
  | queued | checking | placing | running | ending | done | refused
  deriving DecidableEq, Repr

/-- A record of the order log (R310). -/
structure LogRec where
  kind : Nat
  key : Nat
  src : Nat
  chc : Nat
  deriving DecidableEq, Repr

/-- An open or fired bin (R357). The records keep their bytes. -/
structure Bin where
  node : Nat
  num : Nat
  slot : Nat
  recs : List (List Byte)
  opened : Nat
  fired : Bool
  byTimer : Bool
  order : Nat
  deriving DecidableEq, Repr

/-- What a reservation holds for one workgroup on a core (R127, R129). -/
structure WgAlloc where
  g : Nat
  w : Nat
  core : Nat
  variant : Nat
  role : Nat
  fixed : Bool
  /-- beam slots, and eight thread slots for each -/
  beams : List Nat
  slots : List Nat
  base : Nat
  deriving DecidableEq, Repr

/-- A launch (R119 to R131, R138, R309 to R313, R343, R345, R357, R371, R411). -/
structure Launch where
  ctx : Nat := 0
  /-- the 512 bytes of the record -/
  raw : List Byte := []
  lrec : LRec := {}
  obj : CodeObj := {}
  st : LaunchSt := .queued
  owner : Nat := 0
  age : Nat := 0
  /-- the queue it came from, or 4096 for the pool -/
  src : Nat := 4096
  /-- its pool entry, for a device-side launch -/
  pool : Option Nat := none
  /-- gangs committed so far -/
  nextG : Nat := 0
  losses : Nat := 0
  /-- no reservation is tried before this clock (R128) -/
  backoff : Nat := 0
  /-- the origins chosen for the gangs of the reservation under way: G, x, y -/
  plan : List (Nat × Nat × Nat) := []
  /-- cores still to be held: G and core number, in the order of R127 -/
  todo : List (Nat × Nat) := []
  /-- tentative holds -/
  holds : List WgAlloc := []
  quotaUsed : Nat := 0
  filmDrop : Nat := 0
  /-- threads spawned and groups formed, per spawn entry -/
  spawnCnt : NMap Nat := []
  groupCnt : NMap Nat := []
  log : List LogRec := []
  mirror : List LogRec := []
  bins : List Bin := []
  binCnt : NMap Nat := []
  fireCnt : Nat := 0
  status : Nat := 0
  detail : Nat := 0
  /-- a launch-level trap raised and not yet carried out: its detail -/
  trapped : Option Nat := none
  /-- the host suspended it; and event kind 5 is still owed -/
  suspended : Bool := false
  owesSaved : Bool := false
  deriving DecidableEq, Repr

/-- An entry of the pending-launch pool (R137). -/
structure PoolEntry where
  gen : Nat
  launch : Nat
  parent : Nat
  ctx : Nat
  /-- completion status, 0 before the end -/
  status : Nat := 0
  deriving DecidableEq, Repr

/-! ### Cores -/

/-- A codebook bank (R205): valid entries, widths, owner, entry bytes as numbers; and whether a CBLD
is filling it (R211). -/
structure Bank where
  valid : BitVec 256 := 0
  ew : Nat := 0
  iw : Nat := 0
  owner : Option Nat := none
  /-- DESIGN CHOICE, unsafe (log 4). -/
  entries : NMap Nat := []
  loading : Nat := 0
  deriving DecidableEq, Repr

/-- A command of a copy channel (R321). -/
structure CopyCmd where
  seq : Nat
  src : Nat
  dst : Nat
  len : Nat
  skind : Nat
  dkind : Nat
  slay : Nat
  dlay : Nat
  sofs : Nat
  /-- issuing workgroup, gang, launch and context, and the active mask at issue -/
  wg : Nat
  gang : Nat
  launch : Nat
  ctx : Nat
  mask : BitVec 8
  /-- bytes written so far -/
  done : Nat := 0
  cancel : Bool := false
  /-- the channel boundary it stops at, once cancelled or halted with its gang (R327, R331) -/
  stop : Option Nat := none
  /-- source bytes the command itself has overwritten, as they were, by source index (R330) -/
  lost : NMap Byte := []
  deriving DecidableEq, Repr

/-- A copy channel (R320, R325, R328). -/
structure Chan where
  holder : Option Nat := none
  seqCtr : Nat := 0
  queue : List CopyCmd := []
  running : Option CopyCmd := none
  stalled : Option Nat := none
  wp : Nat := 0
  seq : Nat := 0
  last : Nat := 0
  faultAddr : Nat := 0
  /-- numbers of commands cancelled before they ran -/
  removed : List Nat := []
  deriving DecidableEq, Repr

/-- A spawned thread waiting to be grouped (R342). -/
structure SpawnItem where
  launch : Nat
  gang : Nat
  /-- the workgroup that spawned it -/
  wg : Nat
  e : Nat
  payload : List (W32 × BitVec 4)
  join : Option JoinRef
  num : Nat
  parent : Nat
  at_ : Nat
  deriving DecidableEq, Repr

/-- A formed spawn group (R344). -/
structure Group where
  launch : Nat
  gang : Nat
  e : Nat
  num : Nat
  items : List SpawnItem
  deriving DecidableEq, Repr

/-- A lane scheduler (R142): the beam whose clause last started, its clauses in a row, and whether a
switch was asked for by swh or YIELD. -/
structure Lane where
  /-- the number of that beam -/
  cur : Option Nat := none
  row : Nat := 0
  switch : Bool := false
  /-- the turn at which a clause last started (MODEL) -/
  last : Nat := 0
  deriving DecidableEq, Repr

/-- What a router and its core know of a collective (R384, R388 to R390). -/
structure Coll where
  /-- the descriptor of the packet that opened it -/
  k0 : Nat
  k1 : Nat
  /-- it takes one of the router's 16 places -/
  slot : Bool := false
  /-- own contribution -/
  own : Option (List Nat) := none
  /-- what came from the children west, north, east, south: a sum, and the positions missing from it -/
  kids : NMap (Option (List Nat) × List Nat) := []
  /-- the clock of the first packet -/
  start : Option Nat := none
  /-- its timer has run out -/
  expired : Bool := false
  /-- a flush is under way -/
  flushing : Bool := false
  /-- its packet has been sent up, and the parent has taken it -/
  sent : Bool := false
  taken : Bool := false
  /-- the result, the positions missing from it, and whether a flush brought it -/
  result : Option (List Nat × List Nat × Bool) := none
  /-- the core has sent its contribution; the contribution came late -/
  contributed : Bool := false
  late : Bool := false
  /-- 2 or 3 once the core has read the result, and what was missing -/
  read : Nat := 0
  missing : List Nat := []
  deriving DecidableEq, Repr

/-- What a packet between routers carries (R384, R388, R389). -/
inductive PktKind where
  /-- the sum of a subtree, from the child in this direction, and the positions missing from it -/
  | part (dir : Nat) (val : Option (List Nat)) (missing : List Nat)
  /-- a timer has run out: to the root -/
  | notice
  /-- the root's flush, on its way down -/
  | flush
  /-- the result under mode 1, on its way down -/
  | result (val missing : List Nat) (timedOut : Bool)
  deriving DecidableEq, Repr

/-- A packet on its way to the router of a core. -/
structure Pkt where
  launch : Nat
  id : Nat
  k0 : Nat
  k1 : Nat
  dst : Nat
  kind : PktKind
  deriving DecidableEq, Repr

/-- A core (R17, R205, R223, R224, R246, R320, R342, R384, R412). -/
structure Core where
  /-- DEDUCED, unsafe (log 47). -/
  split : Nat := 5
  accHold : Option Nat := none
  /-- accumulator words by 512·tile + 64·row + column, zero words unlisted -/
  acc : NMap W32 := []
  /-- per tile: NAN, INF, ISAT in bits 0 to 2, dcnt in bits 63 to 32; zero unlisted -/
  tiles : NMap (BitVec 64) := []
  banks : NMap Bank := []
  chans : NMap Chan := []
  lanes : NMap Lane := []
  spawnQ : List SpawnItem := []
  groups : List Group := []
  pmarkLast : W32 := 0
  pmarkCnt : W32 := 0
  colls : NMap Coll := []
  deriving DecidableEq, Repr

/-! ### Operations in flight -/

/-- A request that an operation has sent to a peer, or over the Vetik Link, and whose completion it awaits (R462,
R467): its address, the threads that an error of it names, and the bytes that its write found. -/
structure Remote where
  peer : Bool
  va : Nat
  mask : BitVec 8
  undo : List (Nat × Byte) := []
  deriving DecidableEq, Repr

/-- The lines of a context that a CINV drops, by line number of their virtual addresses (R416); the data
lines, by location / 128, of every cache or of those listed. -/
structure Cinv where
  ctx : Nat
  lo : Nat := 0
  hi : Nat := 0
  instr : Bool := false
  aperture : Bool := false
  data : Option (List Nat) := none
  allData : Bool := false
  deriving DecidableEq, Repr

/-- When an operation in flight may complete. -/
inductive OpCond where
  | now
  /-- a fence: the accesses it orders before it have been performed (R292, R293) -/
  | fence (o : Order)
  /-- the copy command with this sequence number has ended; `own` marks the operation of the command
  itself, which its fault is recorded for -/
  | copyEnd (core ch seq : Nat) (own : Bool)
  /-- a CPYWAIT's condition (R325); the status word goes to k[d], and the acquire follows -/
  | copyAt (core ch ptr seq d gang : Nat) (acq : Option Scope)
  /-- a contribution has been taken by the parent router or the root's stage (R387) -/
  | rpkt (core launch id : Nat)
  /-- a collective's result has reached the core's router: it goes to v[d] of these threads, index and
  register-file key, and the acquire follows (R388) -/
  | coll (core launch id d : Nat) (ts : List (Nat × Nat)) (acq : Option Scope)
  /-- the DET drain of a workgroup is applied (R295); with `hold`, later accesses of the beam wait for
  it; with a scope it performs a release when it is applied (R296) -/
  | drain (wg num : Nat) (hold : Bool) (rel : Option Scope)
  /-- the bank load of R212: entries from `first` on are read from va on, and replies over links are awaited -/
  | bank (core n va first : Nat) (rs : List Remote)
  /-- replies over the Vetik Link or UALink are awaited -/
  | remote (rs : List Remote)
  /-- a CINV: its lines go as it completes (R416) -/
  | lines (c : Cinv)
  /-- a TLBINV, behind what FENCE.rel.dev waits for: the translations of one page or of the whole context
  go as it completes (R405) -/
  | pages (ctx : Nat) (va : Option Nat)
  /-- never by itself: another step removes it -/
  | held
  deriving DecidableEq, Repr

/-- What kind of access an operation is (R274, R292): a beam's read, its write or its read-modify-write;
an engine command that reads or that writes; or none of these. -/
inductive OpKind where
  | load | store | atomic | engineRead | engineWrite | other
  deriving DecidableEq, Repr

/-- An untracked operation of this kind keeps its error for the beam's next release (R253, R212): stores,
RED, the writing engines and the codebook loader. -/
def OpKind.held : OpKind → Bool
  | .store | .atomic | .engineWrite => true
  | _ => false
/-- It reads: an acquire waits until it has returned (R292). -/
def OpKind.reads : OpKind → Bool
  | .load | .atomic => true
  | _ => false
/-- A beam's own access to memory, and not an engine's (R287). -/
def OpKind.own : OpKind → Bool
  | .load | .store | .atomic => true
  | _ => false

/-- A record NEMIT has still to put into a bin: its node, the sending thread and its bytes (R358). -/
structure Emit where
  launch : Nat
  node : Nat
  src : Nat
  /-- its thread, by number in the beam -/
  t : Nat := 0
  bytes : List Byte
  deriving DecidableEq, Repr

/-- What a Prism unit that stalled on a translation fault has still to do (R271, R368): its word, and the
beam and its threads as they stood at issue. -/
structure Engine where
  instr : Instr
  beam : Beam
  threads : List (Nat × Thread)
  deriving DecidableEq, Repr

/-- A long-latency operation in flight (R34, R35). -/
structure Op where
  id : Nat
  beam : Nat
  uid : Nat
  ctr : Option Nat
  kind : OpKind := .other
  writes : List RegWrite := []
  fault : Option FaultRec := none
  cond : OpCond := .now
  /-- the bytes that the writes of a store found in memory, by location: until the store has reached its home
  slice a codebook load may still read them (R213) -/
  old : List (Nat × Byte) := []
  /-- records that wait for a bin -/
  emit : List Emit := []
  /-- a stalled engine's command -/
  eng : Option Engine := none
  deriving DecidableEq, Repr

/-- It is the operation of an engine command that writes. -/
def Op.wrote (o : Op) : Bool :=
  o.kind == .engineWrite || match o.cond with
    | .copyEnd _ _ _ own => own
    | _ => false

/-! ### Memory system -/

/-- A cached translation (R404): context, page number and size exponent, physical page, leaf
attributes. -/
structure TlbEntry where
  ctx : Nat
  vpn : Nat
  size : Nat
  pte : Nat
  deriving DecidableEq, Repr

/-- A DET partial (R304, R373): word or film bin, operation, owner and value. -/
structure Partial where
  loc : Nat
  /-- 0 add f32, 1 min, 2 max, 3 add bf16 (one half), 4 film bin -/
  op : Nat
  launch : Nat
  wg : Nat
  beam : Nat
  /-- the drain it belongs to: none while unmarked -/
  drain : Option Nat
  val : Nat
  deriving DecidableEq, Repr

/-- The state of a queue (R333 to R336). Entries keep their push number, pushing core and bytes. -/
structure Queue where
  type : Nat := 0
  ring : Nat := 0
  lcap : Nat := 0
  ctx : Nat := 0
  entries : List (Nat × Nat × List Byte) := []
  /-- the threads a spill queue holds, by pushing core, oldest first (R346) -/
  spill : List (Nat × SpawnItem) := []
  push : Nat := 0
  pop : Nat := 0
  discard : Nat := 0
  deriving DecidableEq, Repr

/-- A ticket the host has not answered (R402, R403): the event kind and what waits. -/
structure Ticket where
  kind : Nat
  ctx : Nat
  launch : Nat
  addr : Nat
  /-- the waiting unit: a beam key, a channel as core·8 + channel, or the core of a stalled engine -/
  who : Nat
  /-- the beam's number, 0 for a channel, or the number of the engine's operation -/
  uid : Nat := 0
  /-- a stalled engine, not a channel -/
  engine : Bool := false
  deriving DecidableEq, Repr

/-- A trigger slot (R379): state 0 idle, 1 armed, 2 fired. -/
structure Trig where
  st : Nat := 0
  /-- its owner: none until a TRIGARM has written it -/
  owned : Bool := false
  ctx : Nat := 0
  t : Nat := 0
  action : Nat := 0
  pins : Nat := 0
  width : Nat := 0
  queue : Nat := 0
  record : List Byte := []
  dropped : Bool := false
  deriving DecidableEq, Repr

/-- The time unit (R377, R381). -/
structure TimeUnit where
  sec : Nat := 0
  ns : Nat := 0
  /-- fraction in units of 2^-32 ns -/
  frac : Nat := 0
  run : Bool := false
  ppsen : Bool := false
  valid : Bool := false
  rate : Int := 0
  stepLo : Nat := 0
  pps : Nat := 0
  trigs : NMap Trig := []
  /-- pulses in progress: pin and pulse number -/
  pulses : List (Nat × Nat) := []
  deriving DecidableEq, Repr

/-- One direction of the packet link of a stack (R450). -/
structure LinkDir where
  /-- the sequence number of the first flit of the packet the receiver awaits -/
  next : Nat := 0
  /-- the sender's last 256 flits -/
  replay : List (BitVec 512) := []
  /-- how many of them, at the end, belong to a packet that has not come through, and how many of these the
  receiver has taken -/
  unread : Nat := 0
  got : Nat := 0
  /-- the flit whose failures are counted, by its number, how many replays of it have begun, and whether one
  more is asked for -/
  bad : Option Nat := none
  fails : Nat := 0
  asked : Bool := false
  deriving DecidableEq, Repr

/-- An outstanding tag (R452): its class; the operation in flight that its request serves, 0 for none, with the threads
and the address that an error of the request names (R453). -/
structure Tag where
  tag : Nat
  tc : Nat
  op : Nat := 0
  mask : BitVec 8 := 0
  va : Nat := 0
  deriving DecidableEq, Repr

/-- The packet link of a stack (R450, R452). -/
structure Link where
  tags : List Tag := []
  /-- the flits of requests and of responses -/
  req : LinkDir := {}
  rsp : LinkDir := {}
  trainFails : Nat := 0
  /-- the response the base die is about to send: tag and status -/
  rsps : List (Nat × Nat × List Byte) := []
  /-- the transfers of the tracker's window that has ended here, until it has ended on every stack (R458) -/
  ended : Option Nat := none
  /-- the clock at which its window began (R458) -/
  since : Nat := 0
  /-- which of the stack's codewords the scrub reads next, counted in address order (R455).
  DESIGN CHOICE, unsafe (log 113). -/
  scrub : Nat := 0
  deriving DecidableEq, Repr

/-- Requests the tracker has counted per frame in the window (R458, R459): count, whether the latest
came from an SK page, whether any had pin, whether any was NC. -/
structure HotFrame where
  count : Nat := 0
  /-- 32-byte data transfers -/
  xfers : Nat := 0
  sk : Bool := false
  pin : Bool := false
  nc : Bool := false
  deriving DecidableEq, Repr

/-! ### Agenda (MODEL) -/

/-- A turn of the agenda: one of the machine's own steps, and what it brings. DESIGN CHOICE, safe (log 2). -/
structure Turn where
  instr : Instr
  arg : EvArg := {}
  deriving DecidableEq, Repr

/-- A data line that an L1 (by core) or a Prism cache (1024 + core / 2) may hold: its location / 128, the bytes as
filled or last updated, and whether an engine of the core has written bytes of it since, which the beams of the core
are to find once they have waited for the engine (R236, R287, R288). -/
structure CacheLine where
  cache : Nat
  line : Nat
  bytes : List Byte
  behind : Bool := false
  deriving DecidableEq, Repr

/-- Memory and what stands beside it. -/
structure Mem where
  /-- HBM, host and peer bytes by location: P for HBM and host, 2^52·(package + 1) + PA for a peer -/
  bytes : NMap Byte := []
  /-- what HBM or the host still holds under a byte that L2 has not written back (R415, R474).
  DEDUCED, safe (log 77). -/
  unflushed : NMap Byte := []
  /-- sectors of recoded blocks with an uncorrectable codeword that have since been written whole (R454) -/
  renewed : List Nat := []
  /-- 32-byte sectors, by location / 32, whose codeword is uncorrectable (R454) -/
  poison : List Nat := []
  /-- the warm resets that left the sectors of HBM open (R474), the latest first: where their free values begin, and
  the sectors written whole since -/
  lost : List (Nat × List Nat) := []
  /-- 128-byte lines whose host-presence bit is set (R466) -/
  present : List Nat := []
  /-- 256-byte blocks stored recoded, fallback bit 0 (R457). PRESUMED, unsafe (log 6). -/
  recoded : List Nat := []
  /-- of blocks that L2 holds dirty, the RCD bit of the page they were last written through (R451, R457) -/
  rcd : NMap Bool := []
  tlb : List TlbEntry := []
  /-- instruction cache lines: core·16 + ctx, line number, bytes; of one core, least recently used first
  (R60). DEDUCED, unsafe (log 18). -/
  icache : List (Nat × Nat × List Byte) := []
  /-- what L1s and Prism caches hold (R243, R279, R363). DESIGN CHOICE, safe (log 91). -/
  caches : List CacheLine := []
  /-- decompressed bytes that an Aperture read has left in a cache, at context·2^64 + address (R265).
  DESIGN CHOICE, safe (log 92). -/
  expanded : NMap Byte := []
  /-- what page-table walkers still see under bytes that a context has stored since its last TLBINV, by
  location: the byte and the context (R270, R273). DEDUCED, unsafe (log 93). -/
  unseen : NMap (Byte × Nat) := []
  /-- 32-byte words of the core SRAMs and the stack dies that an uncorrectable soft error has struck: twice
  the word number, plus 1 for a stack die (R253). DESIGN CHOICE, unsafe (log 94). -/
  struck : List Nat := []
  /-- scratchpad bytes at core·2^24 + place in the core's SRAM -/
  scratch : NMap Byte := []
  /-- stack scratch bytes at (die·16 + ctx)·2^28 + offset -/
  stack : NMap Byte := []
  partials : List Partial := []
  deriving DecidableEq, Repr

/-- The schedule: what the model adds to say which agent moves next (MODEL), and the clock.
DESIGN CHOICE, unsafe (log 3). -/
structure Sched where
  /-- DESIGN CHOICE, safe (log 2). -/
  agenda : List Turn := []
  arg : EvArg := {}
  /-- the beam whose word issues next -/
  cur : Nat := 0
  /-- the last word of cur stalled, so another agent moves first -/
  stalled : Bool := false
  /-- the beams that have stalled, or have begun a clause of their handler, since the last turn (R25) -/
  tried : List Nat := []
  /-- core clocks since the last warm reset (R417). DESIGN CHOICE, unsafe (log 12). -/
  clk : Nat := 0
  /-- how many free values have been drawn. DESIGN CHOICE, safe (log 14). -/
  freeIdx : Nat := 0
  /-- the next unused number for ages, identities and operations -/
  fresh : Nat := 1
  /-- how many turns the device has taken, so that every agent gets its turn -/
  turns : Nat := 0
  deriving DecidableEq, Repr

/-- The whole machine. -/
structure State where
  sched : Sched := {}
  threads : NMap Thread := []
  beams : NMap Beam := []
  wgs : NMap Wg := []
  gangs : NMap Gang := []
  launches : NMap Launch := []
  cores : NMap Core := []
  ops : List Op := []
  mem : Mem := {}
  queues : NMap Queue := []
  pool : NMap PoolEntry := []
  /-- generation numbers of pool entries that differ from the first -/
  poolGen : NMap Nat := []
  tickets : NMap Ticket := []
  /-- where the search for the next ticket number begins (MODEL). DESIGN CHOICE, unsafe (log 31). -/
  nextTicket : Nat := 0
  /-- packets of collectives between routers -/
  net : NMap Pkt := []
  /-- buffered host events by die·16 + ctx, oldest first (R402) -/
  evbuf : NMap (List (List Byte)) := []
  time : TimeUnit := {}
  /-- system registers by number; unlisted ones hold their reset value (R412, R463, R482) -/
  regs : NMap W32 := []
  /-- context registers by ctx·65536 + number -/
  ctxRegs : NMap W32 := []
  links : NMap Link := []
  hot : NMap HotFrame := []
  /-- what the sensors of the stack dies last read in °C, by 8·die + sensor, and by die the clock since which all eight have
  read below 90 (R248). DESIGN CHOICE, unsafe (log 125). -/
  heat : NMap Nat := []
  cool : NMap Nat := []
  /-- training failures of the Vetik Link, at place 8 -/
  ports : NMap Link := []
  /-- what the last access from outside was answered: one over UALink, one of the host, or its read of a register -/
  reply : List Byte := []
  /-- the reply code of the last host push (R469) -/
  pushReply : Nat := 0
  /-- the firmware image that runs (R479) -/
  firmware : List Byte := []
  /-- physical columns fenced beside the one that SPARE_MAP has room for, as 32·row + column, the rows numbered as
  SPARE_MAP numbers them (R476, R477). DESIGN CHOICE, unsafe (log 115). -/
  fencedCols : List Nat := []
  /-- dies that do not return to service (R477) -/
  outDies : List Nat := []
  deriving DecidableEq, Repr

/-- The machine right after reset: power has come up and nothing has been started (R473).
DESIGN CHOICE, unsafe (log 3). -/
def State.reset : State := {}

/-- Why a step stops. -/
inductive Fault where
  /-- Raised by EXIT, RECONV and TRET (R148) where a path ends, live threads remain and no reconvergence entry holds
  any of them, which only an amask that a handler has rewritten can bring about (R395, R400): R144 says an issuing beam's
  active mask is never empty and gives this beam no fate. Safe: the model stops where the hardware goes on in some
  unstated way. DESIGN CHOICE, safe (log 13). -/
  | noFate
  deriving DecidableEq, Repr

/-- Why a step has no meaning. -/
inductive Refusal where
  /-- Raised only by a dispatch arm of an instruction that has no meaning yet. Safe. -/
  | notModelled (mnemonic : String)
  deriving DecidableEq, Repr

end Sys2Proof.Machine
end

