-- ==== Sys2Proof/Machine/Ops.lean ====
section
/-! DEFINITION. The shared operations of every meaning: finding the beam, its threads and workgroup,
counters and operations in flight (R34, R35), taking a trap and returning from one (R391 to R400), host events (R402) and launch-level traps. -/

namespace Sys2Proof

/-- The scope of an ordering: its release side, and its acquire side. -/
def Order.relAt : Order → Option Scope
  | .rel c | .ar c => some c
  | _ => .none
def Order.acqAt : Order → Option Scope
  | .acq c | .ar c => some c
  | _ => .none

/-- The same with the scope that a word implies where it writes none. -/
def Order.relOr (o : Order) (implied : Scope) : Scope := o.relAt.getD implied
def Order.acqOr (o : Order) (implied : Scope) : Scope := o.acqAt.getD implied

end Sys2Proof

namespace Sys2Proof.Machine

/-! ### How a word stops short of its effect -/

/-- Why a word that came to issue did not complete. -/
inductive Stop where
  /-- a precise trap (R391), or a launch-level one -/
  | trap (t : TrapInfo)
  /-- the word stalls before issue, with no fault (R33, R34) -/
  | stall
  /-- the beam waits at the word, in this state, and the word issues again -/
  | wait (st : BeamSt) (w : Wait)
  /-- the record of a counter is raised at the word (R36) -/
  | deferred (c : Nat) (r : FaultRec)
  /-- the untracked-error record is raised before an ordering word takes effect (R253) -/
  | untracked (r : FaultRec)
  /-- a translation fault: address, cause and thread mask (R271) -/
  | page (addr cause : Nat) (mask : BitVec 8)
  | fault (f : Fault)
  deriving DecidableEq, Repr

/-- A meaning's answer, or why it stopped. -/
abbrev R (α : Type) := Except Stop α

/-- A precise trap with a mask and nothing else in its frame. DEDUCED, unsafe (log 74). -/
def trap {α : Type} (code : Nat) (mask : BitVec 8 := 0) : R α := .error (.trap { code := code, mask := mask })

/-- Trap unless the condition holds. -/
def need (c : Bool) (code : Nat) (mask : BitVec 8 := 0) : R Unit := if c then .ok () else trap code mask

/-- Stall unless the condition holds. -/
def ready (c : Bool) : R Unit := if c then .ok () else .error .stall

/-! ### Trap codes (R392) -/

namespace Code
def illegalClause : Nat := 0x01
def illegalInstruction : Nat := 0x02
def illegalPair : Nat := 0x03
def uniformViolation : Nat := 0x04
def illegalConvergence : Nat := 0x05
def switchMismatch : Nat := 0x06
def rstackOverflow : Nat := 0x07
def tagMismatch : Nat := 0x08
def invalidIndex : Nat := 0x09
def codebookConflict : Nat := 0x0A
def intDivide : Nat := 0x0B
def rngExhausted : Nat := 0x0C
def misaligned : Nat := 0x0D
def scratchBounds : Nat := 0x0E
def constBounds : Nat := 0x0F
def apertureWrite : Nat := 0x10
def detReadHazard : Nat := 0x11
def detMix : Nat := 0x12
def detCapacity : Nat := 0x13
def barInvalid : Nat := 0x14
def barOverrun : Nat := 0x15
def copyDesc : Nat := 0x16
def nodeInvalid : Nat := 0x17
def collInvalid : Nat := 0x18
def softwareTrap : Nat := 0x19
def memoryDataError : Nat := 0x20
def copyFault : Nat := 0x21
def queueInvalid : Nat := 0x22
def surfaceFault : Nat := 0x23
def pageFault : Nat := 0x28
def beamHalt : Nat := 0x29
def parkExhausted : Nat := 0x30
def mirrorDiverge : Nat := 0x31
def orderLogFull : Nat := 0x32
def doubleTrap : Nat := 0x33
def featureDisabled : Nat := 0x34
def unitFailed : Nat := 0x35
end Code

/-- ILLEGAL_INSTRUCTION (R54): nothing is written, no counter rises, the generator does not advance. -/
def illegal {α : Type} : R α := trap Code.illegalInstruction

/-- The codes that end the launch whatever the handler (R391, R392). -/
def launchLevel (code : Nat) : Bool := 0x30 ≤ code

/-! ### Finding things -/

/-- DESIGN CHOICE, unsafe (log 88). -/
def State.beam (s : State) (bk : Nat) : Beam := (look s.beams bk).getD {}
def State.setBeam (s : State) (bk : Nat) (b : Beam) : State := { s with beams := put s.beams bk b }
def State.modBeam (s : State) (bk : Nat) (f : Beam → Beam) : State := { s with beams := upd s.beams bk f }

/-- The beam whose word is issuing. -/
def State.cb (s : State) : Beam := s.beam s.sched.cur
def State.modCb (s : State) (f : Beam → Beam) : State := s.modBeam s.sched.cur f

/-- The core of a beam slot key. -/
def coreOf (bk : Nat) : Nat := bk / 64
/-- The core of the issuing beam. -/
def State.cc (s : State) : Nat := coreOf s.sched.cur

def State.wg (s : State) (id : Nat) : Wg := (look s.wgs id).getD {}
def State.modWg (s : State) (id : Nat) (f : Wg → Wg) : State := { s with wgs := upd s.wgs id f }
def State.cwg (s : State) : Wg := s.wg s.cb.wg
def State.modCwg (s : State) (f : Wg → Wg) : State := s.modWg s.cb.wg f

def State.gang (s : State) (id : Nat) : Gang := (look s.gangs id).getD {}
def State.launch (s : State) (id : Nat) : Launch := (look s.launches id).getD {}
def State.modLaunch (s : State) (id : Nat) (f : Launch → Launch) : State := { s with launches := upd s.launches id f }
def State.cl (s : State) : Launch := s.launch s.cwg.launch
def State.modCl (s : State) (f : Launch → Launch) : State := s.modLaunch s.cwg.launch f

/-- A core; one nothing has touched is at its reset values. -/
def State.core (s : State) (c : Nat) : Core := (look s.cores c).getD {}
def State.setCore (s : State) (c : Nat) (x : Core) : State := { s with cores := put s.cores c x }
def State.modCore (s : State) (c : Nat) (f : Core → Core) : State := s.setCore c (f (s.core c))

/-- DESIGN CHOICE, unsafe (log 88). -/
def State.thread (s : State) (tk : Nat) : Thread := (look s.threads tk).getD {}
def State.modThread (s : State) (tk : Nat) (f : Thread → Thread) : State := { s with threads := upd s.threads tk f }

/-- The register-file key of the thread at index t of a beam (R21). -/
def tkeyOf (bk : Nat) (b : Beam) (t : Nat) : Nat := coreOf bk * 512 + ((b.list.getD t none).getD 0)
def State.tkey (s : State) (t : Nat) : Nat := tkeyOf s.sched.cur s.cb t
/-- Thread t of the issuing beam. -/
def State.th (s : State) (t : Nat) : Thread := s.thread (s.tkey t)
def State.modTh (s : State) (t : Nat) (f : Thread → Thread) : State := s.modThread (s.tkey t) f

/-! ### Registers (R42, R89, R110) -/

def Thread.getV (x : Thread) (n : Nat) : V256 := x.v.toArray.getD n 0
def Thread.getS (x : Thread) (n : Nat) : W32 := x.s.toArray.getD n 0
def Thread.getVt (x : Thread) (n : Nat) : BitVec 4 := x.vtag.toArray.getD n 15
def Thread.getSt (x : Thread) (n : Nat) : BitVec 4 := x.stag.toArray.getD n 15
/-- Write v[n] with its tag. -/
def Thread.setV (x : Thread) (n : Nat) (val : V256) (tag : BitVec 4) : Thread :=
  { x with v := x.v.setIfInBounds n val, vtag := x.vtag.setIfInBounds n tag }
/-- Write s[n] with its tag. -/
def Thread.setS (x : Thread) (n : Nat) (val : W32) (tag : BitVec 4) : Thread :=
  { x with s := x.s.setIfInBounds n val, stag := x.stag.setIfInBounds n tag }
/-- p7 reads true (R65). -/
def Thread.getP (x : Thread) (n : Nat) : Bool := n == 7 || x.p.getLsbD n
def setBit {w : Nat} (x : BitVec w) (n : Nat) (v : Bool) : BitVec w :=
  if v then x ||| BitVec.ofNat w (2 ^ n) else x &&& ~~~(BitVec.ofNat w (2 ^ n))
def Thread.setP (x : Thread) (n : Nat) (v : Bool) : Thread := { x with p := setBit x.p n v }

def Beam.getK (b : Beam) (n : Nat) : W32 := b.k.toArray.getD n 0
def Beam.setK (b : Beam) (n : Nat) (v : W32) : Beam := { b with k := b.k.setIfInBounds n v }
/-- The 64-bit value of a k pair (R42). -/
def Beam.kPair (b : Beam) (n : Nat) : Nat := (b.getK n).toNat + 2 ^ 32 * (b.getK (n + 1)).toNat
def Beam.setKp (b : Beam) (n : Nat) (v : Bool) : Beam := { b with kp := setBit b.kp n v }
/-- kp0 to kp3, or 7 for true (R150). -/
def Beam.getKp (b : Beam) (n : Nat) : Bool := n == 7 || b.kp.getLsbD n
def Beam.getCtr (b : Beam) (i : Nat) : Nat := b.ctr.toArray.getD i 0
def Beam.setCtr (b : Beam) (i n : Nat) : Beam := { b with ctr := b.ctr.setIfInBounds i n }
def Beam.getRec (b : Beam) (i : Nat) : Option FaultRec := b.recs.toArray.getD i none
def Beam.setRec (b : Beam) (i : Nat) (r : Option FaultRec) : Beam := { b with recs := b.recs.setIfInBounds i r }

/-- The pair S[t][n], S[t][n+1] as 64 bits. -/
def Thread.sPair (x : Thread) (n : Nat) : Nat := (x.getS n).toNat + 2 ^ 32 * (x.getS (n + 1)).toNat

/-! ### Guards and masks (R41, R144) -/

def State.active (s : State) (t : Nat) : Bool := s.cb.active.getLsbD t
/-- Guard(t) of a full word. -/
def State.guard (s : State) (h : Hd) (t : Nat) : Bool := (s.th t).getP h.gp.toNat != h.gn
/-- The threads with Active(t) and Guard(t). -/
def State.part (s : State) (h : Hd) : BitVec 8 := mask8 fun t => s.active t && s.guard h t
/-- Unguarded: gp = 7, gn = 0. -/
def unguarded (h : Hd) : Bool := h.gp == 7 && !h.gn
/-- Whether a uniform instruction takes effect (R41). DEDUCED, unsafe (log 28). -/
def State.acts (s : State) (h : Hd) : Bool := unguarded h || s.part h != 0

/-- Fold an operation over the threads of a mask, in ascending t. -/
def eachT {α : Type} (m : BitVec 8) (a : α) (f : α → Nat → α) : α := (bitsOf m).foldl f a

/-! ### System registers (R412, R463, R482) -/

/-- The bits of a SPARE_MAP and of an L2SPARE register that R482 names; the others read zero (R5). -/
def repairBits (n : Nat) : W32 := if n < 0x520 then 0xFFF#32 else 0x7F#32

/-- Reset values. DESIGN CHOICE, unsafe (log 8). -/
def regReset (n : Nat) : W32 :=
  if n = 0x300 then 0x4C4E07B0#32
  else if n = 0x4A3 then 0x001000A0#32
  else if n = 0x4A5 then 0x00001801#32
  else if 0x510 ≤ n ∧ n ≤ 0x521 then Config.repairMap n &&& repairBits n
  else 0
def State.reg (s : State) (n : Nat) : W32 := (look s.regs n).getD (regReset n)
def State.setReg (s : State) (n : Nat) (v : W32) : State := { s with regs := put s.regs n v }
def ctxRegReset (n : Nat) : W32 := if n = 0x102 then 5#32 else 0
def State.ctxReg (s : State) (ctx n : Nat) : W32 := (look s.ctxRegs (ctx * 65536 + n)).getD (ctxRegReset n)
def State.setCtxReg (s : State) (ctx n : Nat) (v : W32) : State :=
  { s with ctxRegs := put s.ctxRegs (ctx * 65536 + n) v }
/-- A register pair as 64 bits. -/
def State.reg64 (s : State) (n : Nat) : Nat := (s.reg n).toNat + 2 ^ 32 * (s.reg (n + 1)).toNat
def State.ctxReg64 (s : State) (ctx n : Nat) : Nat := (s.ctxReg ctx n).toNat + 2 ^ 32 * (s.ctxReg ctx (n + 1)).toNat
/-- Counters saturate at 2^32 - 1 (R463). -/
def State.bump (s : State) (n : Nat) : State :=
  if (s.reg n).toNat < 2 ^ 32 - 1 then s.setReg n (s.reg n + 1) else s

/-- The depth the device rests at (R475), and the bits of PWR_STAT above it. -/
def State.depth (s : State) : Nat := (s.reg 0x509).toNat % 8
def State.setDepth (s : State) (d : Nat) : State := s.setReg 0x509 (BitVec.ofNat 32 ((s.reg 0x509).toNat / 8 * 8 + d))
/-- SREF of every stack: in self-refresh at ID3 and ID4 (R464, R475). -/
def State.selfRefresh (s : State) (on : Bool) : State :=
  (List.range 8).foldl (fun s k => s.setReg (0x407 + 16 * k) (setBit (s.reg (0x407 + 16 * k)) 6 on)) s
/-- What comes from outside, and a trigger's push, wakes the device (R475). DEDUCED, unsafe (log 62). -/
def State.awake (s : State) : State :=
  if s.depth = 0 then s else if s.depth < 3 then s.setDepth 0 else (s.setDepth 0).selfRefresh false

/-- DEV_STAT.MEM_READY. -/
def State.memReady (s : State) : Bool := (s.reg 0x301).getLsbD 0
/-- Whether the driver has enabled a feature (R471, R472). -/
def State.enabled (s : State) (f : Nat) : Bool := (s.reg (0x504 + f / 32)).getLsbD (f % 32)
/-- R393: a word that needs a disabled feature ends the launch. -/
def State.needs (s : State) (f : Nat) : R Unit :=
  if s.enabled f then .ok () else .error (.trap { code := Code.featureDisabled, feature := f })

/-! ### Numbers the model draws -/

/-- A value the spec leaves open. DESIGN CHOICE, safe (log 14). -/
def State.draw (s : State) : Nat × State :=
  (Config.free s.sched.freeIdx, { s with sched := { s.sched with freeIdx := s.sched.freeIdx + 1 } })
/-- A beam's next word or clause cannot go on: other beams and agents move before it tries again (R25).
DESIGN CHOICE, unsafe (log 3). -/
def State.stall (s : State) (bk : Nat) : State :=
  { s with sched := { s.sched with stalled := true, tried := s.sched.tried ++ [bk] } }
/-- A number not used before. -/
def State.fresh (s : State) : Nat × State :=
  (s.sched.fresh, { s with sched := { s.sched with fresh := s.sched.fresh + 1 } })

/-! ### Operations in flight (R34, R35) -/

/-- Flag A or flag B of the clause that is issuing (R28, R34); 15 is none. -/
def Beam.flag (b : Beam) (cf : Bool) : Nat :=
  let h := (b.buf.headD 0).toNat
  if cf then bits h 35 32 else bits h 39 36

/-- A DETDRAIN.ar of the beam is not yet applied, so its later accesses wait (R296). -/
def State.held (s : State) : Bool :=
  s.ops.any fun o => o.beam == s.sched.cur && o.uid == s.cb.uid && (match o.cond with
    | .drain _ _ h _ => h
    | _ => false)

/-- A word whose accesses pass no counter waits for the same (R296). -/
def State.unheld (s : State) : R Unit := ready (!s.held)

/-- The counter a long-latency word raises (R35): flag 15 is ILLEGAL_INSTRUCTION when the word writes
a register, and a counter at 63 stalls the word. -/
def State.counterOf (s : State) (h : Hd) (writes : Bool) : R (Option Nat) :=
  let f := s.cb.flag h.cf
  if f = 15 then (if writes then illegal else .ok none)
  else if s.cb.getCtr f = 63 then .error .stall
  else .ok (some f)

/-- The same for a word that accesses memory, which an unapplied DETDRAIN.ar holds back. -/
def State.flagOf (s : State) (h : Hd) (writes : Bool) : R (Option Nat) := do
  let c ← s.counterOf h writes
  ready (!s.held)
  .ok c

/-- Issue a long-latency operation of a beam: its counter rises and it stands in flight. -/
def State.startOp (s : State) (bk : Nat) (ctr : Option Nat) (o : Op) : State :=
  let (id, s) := s.fresh
  let s := match ctr with
    | some c => s.modBeam bk fun b => b.setCtr c (b.getCtr c + 1)
    | none => s
  { s with ops := s.ops ++ [{ o with id := id, beam := bk, uid := (s.beam bk).uid, ctr := ctr }] }

/-- The usual case: register writes that land when the counter falls. DESIGN CHOICE, unsafe (log 9). -/
def State.later (s : State) (ctr : Option Nat) (kind : OpKind) (ws : List RegWrite)
    (fault : Option FaultRec := none) (cond : OpCond := .now) (old : List (Nat × Byte) := []) : State :=
  s.startOp s.sched.cur ctr
    { id := 0, beam := 0, uid := 0, ctr := none, kind := kind, writes := ws, fault := fault, cond := cond, old := old }

/-- Put a fault in a record: the first is kept, a later one sets the overflow bit (R36). -/
def addFault (r : Option FaultRec) (f : FaultRec) : Option FaultRec :=
  match r with
  | none => some f
  | some r => some { r with ovf := true }

/-- The record of an operation more of whose threads meet uncorrectable data (R253): one names them all, with the
address of the lowest. -/
def Op.lose (o : Op) (m : BitVec 8) (va : Nat) : FaultRec :=
  match o.fault with
  | some f =>
    if f.code ≠ Code.memoryDataError then f
    else { f with mask := f.mask ||| m, addr := if lowest m < lowest f.mask then va else f.addr }
  | none => { code := Code.memoryDataError, addr := va, mask := m }

/-- One write of a completing operation. Thread registers live in their slots, k and kp in the beam.
DEDUCED, safe (log 10). -/
def State.land (s : State) (bk : Nat) (w : RegWrite) : State :=
  match w with
  | .v tk n val m tag _ => s.modThread tk fun x => x.setV n ((x.getV n &&& ~~~m) ||| (val &&& m)) tag
  | .s tk n val tag => s.modThread tk fun x => x.setS n val tag
  | .p tk n val => s.modThread tk fun x => x.setP n val
  | .k n val => s.modBeam bk fun b => b.setK n val
  | .kp n val => s.modBeam bk fun b => b.setKp n val
  | .fx tk fl => s.modThread tk fun x => { x with fx := x.fx ||| BitVec.ofNat 8 fl }

/-- A cache loses every line it holds (R290, R363). -/
def Mem.dropCache (m : Mem) (cache : Nat) : Mem := { m with caches := m.caches.filter fun x => x.cache ≠ cache }
/-- A cache loses the lines that engines of its core have left behind (R236, R287, R288). -/
def Mem.dropBehind (m : Mem) (cache : Nat) : Mem := { m with caches := m.caches.filter fun x => x.cache ≠ cache || !x.behind }

/-- Complete an operation in flight: its registers are written, its counter falls, its fault is
recorded (R34, R36; R253 for an untracked one). The beam finds what a tracked engine command wrote (R287).
DEDUCED, safe (log 10). -/
def State.complete (s : State) (o : Op) : State :=
  let s := { s with ops := s.ops.filter fun x => x.id ≠ o.id }
  let s := if o.ctr.isSome && o.wrote then { s with mem := s.mem.dropBehind (coreOf o.beam) } else s
  let s := o.writes.foldl (fun s w => s.land o.beam w) s
  s.modBeam o.beam fun b =>
    if b.uid = o.uid then
      let b := match o.ctr with
        | some c => b.setCtr c (b.getCtr c - 1)
        | none => b
      match o.fault, o.ctr with
      | some f, some c => b.setRec c (addFault (b.getRec c) f)
      | some f, none => { b with untracked := addFault b.untracked f }
      | none, _ => b
    else b

/-- Operations of a beam still in flight. -/
def State.opsOf (s : State) (bk : Nat) : List Op :=
  s.ops.filter fun o => o.beam == bk && o.uid == (s.beam bk).uid
/-- A write to a thread slot. DEDUCED, safe (log 36). -/
def RegWrite.inSlot : RegWrite → Bool
  | .v _ _ _ _ _ _ => true
  | .s _ _ _ _ => true
  | .p _ _ _ => true
  | .fx _ _ => true
  | _ => false
/-- Register-writing loads outstanding (R353): any operation that has still to write a thread slot, which
the beam must not give up before. DEDUCED, safe (log 36). -/
def State.loadsOut (s : State) (bk : Nat) : Bool :=
  (s.opsOf bk).any fun o => o.kind == .load || o.kind == .engineRead || o.writes.any RegWrite.inSlot
    || (match o.cond with
      | .coll _ _ _ _ _ _ => true
      | _ => false)
def Beam.allZero (b : Beam) : Bool := b.ctr.toList.all (· == 0)

/-! ### Reconvergence entries of a beam (R146) -/

/-- The beam's own top entry: the latest of its entries of kind BR, BRM or LOOP; for a compacted beam
the search ends at the open BRW entry. -/
def ownTopIdx (st : List REntry) (b : Nat) : Option Nat :=
  let i := (List.range st.length).filter fun i =>
    match st[i]? with
    | some e => e.kind == .brw || e.beam == b
    | none => false
  match i.getLast? with
  | some j => match st[j]? with
    | some e => if e.kind == .brw then none else some j
    | none => none
  | none => none

def brwIdx (st : List REntry) : Option Nat := st.findIdx? fun e => e.kind == .brw

/-- The current entry: the own top entry, or the open BRW entry. -/
def currentIdx (st : List REntry) (b : Nat) : Option Nat := (ownTopIdx st b).orElse fun _ => brwIdx st

/-- How many entries a beam owns: those of its index; for a compacted beam, those above the BRW
entry. -/
def ownCount (st : List REntry) (b : Nat) : Nat :=
  let st := match brwIdx st with
    | some i => st.drop (i + 1)
    | none => st
  (st.filter fun e => e.kind != .brw && e.beam == b).length

/-! ### The clause a beam is in (R27) -/

/-- Words of the clause in the buffer. -/
def Beam.count (b : Beam) : Nat := bits (b.buf.headD 0).toNat 55 52 + 1
/-- The fall-through clause (R27). -/
def Beam.fall (b : Beam) : W64 := b.pc + BitVec.ofNat 64 (8 * (b.count + 1))
/-- A signed offset in units of 8 bytes from the clause (R38). -/
def Beam.target {w : Nat} (b : Beam) (off : BitVec w) : W64 := b.pc + BitVec.ofInt 64 (8 * off.toInt)

/-! ### Queues of the queue engines (R335) -/

def Queue.depth (q : Queue) : Nat := (q.push + 2 ^ 32 - q.pop) % 2 ^ 32
def Queue.cap (q : Queue) : Nat := 2 ^ q.lcap
def State.queue (s : State) (q : Nat) : Queue := (look s.queues q).getD {}

/-- Who writes memory: the core whose L1 follows the write, or the core whose engine it is, so that its L1 falls
behind; the context whose page-table walkers see it only after a TLBINV (none for the host and the dispatcher);
whether the page keeps it out of L2; and the RCD bit of the page (R243, R267, R273, R279, R287). -/
structure Agent where
  core : Option Nat := none
  engine : Option Nat := none
  ctx : Option Nat := none
  nc : Bool := false
  rcd : Bool := false
  deriving DecidableEq, Repr

/-- Keep the old byte under a byte that L2 now holds dirty (R415, R474), and the RCD bit its block goes to the base
die with (R451); a write to an NC page goes to its target (R243). DEDUCED, safe (log 77). -/
def Mem.dirty (m : Mem) (a : Agent) (loc : Nat) : Mem :=
  if a.nc || 2 ^ 52 ≤ loc then { m with unflushed := del m.unflushed loc }
  else match look m.unflushed loc with
    | some _ => { m with rcd := put m.rcd (loc / 256) a.rcd }
    | none => { m with unflushed := put m.unflushed loc (getB m.bytes loc), rcd := put m.rcd (loc / 256) a.rcd }

/-- Keep the byte that the walkers go on seeing under a context's own store; a byte that another agent writes
they see at once (R270, R273). DEDUCED, unsafe (log 93). -/
def Mem.hide (m : Mem) (a : Agent) (loc : Nat) : Mem :=
  match a.ctx with
  | none => { m with unseen := del m.unseen loc }
  | some c => match look m.unseen loc with
    | some _ => m
    | none => { m with unseen := put m.unseen loc (getB m.bytes loc, c) }

/-- Write bytes at a location, as a write performed at its point of coherence: a copy of the line that the
host holds is invalidated first (R466). -/
def Mem.write (m : Mem) (a : Agent) (loc : Nat) : List Byte → Mem
  | [] => m
  | b :: bs =>
    let m := (m.dirty a loc).hide a loc
    Mem.write { m with bytes := setB m.bytes loc b, present := m.present.filter (· ≠ loc / 128) } a (loc + 1) bs

/-- A line has bytes of a range. -/
def CacheLine.meets (x : CacheLine) (loc n : Nat) : Bool := loc < 128 * x.line + 128 && 128 * x.line < loc + n

/-- Those bytes of a line brought up to date with memory. -/
def CacheLine.patch (bytes : NMap Byte) (loc n : Nat) (x : CacheLine) : CacheLine :=
  if x.meets loc n then
    { x with bytes := (List.range 128).map fun i =>
        let a := 128 * x.line + i
        if loc ≤ a ∧ a < loc + n then getB bytes a else x.bytes.getD i 0 }
  else x

/-- The Prism cache that a core's unit reads through: one for a pair of cores (R17, R363). -/
def prismCache (core : Nat) : Nat := 1024 + core / 2

/-- The bytes of a range are brought up to date in some caches (R243, R277, R279). -/
def Mem.refresh (m : Mem) (which : Nat → Bool) (loc n : Nat) : Mem :=
  { m with caches := m.caches.map fun x => if which x.cache then x.patch m.bytes loc n else x }

/-- A write reaches the caches: the writer's own L1 follows it, and its pair's Prism cache, through which its engine
commands read; an engine's leaves both behind (R243, R277, R287). -/
def Mem.follow (m : Mem) (a : Agent) (loc n : Nat) : Mem :=
  match a.core, a.engine with
  | some c, _ => m.refresh (fun k => k == c || k == prismCache c) loc n
  | none, some c => { m with caches := m.caches.map fun x => if (x.cache == c || x.cache == prismCache c) && x.meets loc n then { x with behind := true } else x }
  | none, none => m

/-- DESIGN CHOICE, unsafe (log 5). -/
def Mem.read (m : Mem) (loc n : Nat) : List Byte := getBs m.bytes loc n

/-- The queue accepts an entry (R335): it is written at its ring place and the push number rises.
DEDUCED, unsafe (log 33). -/
def State.pushEntry (s : State) (q core : Nat) (e : List Byte) : State :=
  let x := s.queue q
  let s := { s with mem := s.mem.write {} (x.ring + 64 * (x.push % x.cap)) e }
  { s with queues := put s.queues q { x with entries := x.entries ++ [(x.push, core, e)], push := (x.push + 1) % 2 ^ 32 } }

/-! ### Host events (R402) -/

/-- A 64-byte event record. -/
def eventRecord (kind cause ticket addr core unit mask done : Nat) : List Byte :=
  bytesOfNat 1 kind ++ bytesOfNat 1 cause ++ bytesOfNat 2 0 ++ bytesOfNat 4 ticket ++ bytesOfNat 8 addr
    ++ bytesOfNat 1 (core % 32 / 16) ++ bytesOfNat 1 core ++ bytesOfNat 1 unit ++ bytesOfNat 1 mask
    ++ bytesOfNat 4 0 ++ bytesOfNat 8 done ++ bytesOfNat 32 0

/-- The queue engine of a queue or of a node's bins stands behind a link that is down (R332): it serves no request, and
each is answered with status 2 (R450). -/
def State.engineDown (s : State) (n : Nat) : Bool := (s.reg (0x407 + 16 * (n % 8))).getLsbD 1

/-- A queue of a context that takes an entry: an armed FIFO with room, whose engine can be reached. -/
def State.queueTakes (s : State) (ctx q : Nat) : Bool :=
  let x := s.queue q
  x.type == 1 && x.ctx == ctx && decide (x.depth < x.cap) && !s.engineDown q

/-- The queue a context's events go to, when it can take one. -/
def State.evQueue (s : State) (ctx : Nat) : Option Nat :=
  let r := (s.ctxReg ctx 0x10B).toNat
  if bit r 12 && s.queueTakes ctx (bits r 11 0) then some (bits r 11 0) else none

/-- Whether a die can take one more event of a context: its queue has room, or its share of the buffer
(R402). A unit that must raise an event while this is false stalls. -/
def State.evRoom (s : State) (ctx die : Nat) : Bool :=
  ((look s.evbuf (die * 16 + ctx)).getD []).length < 16

/-- Push an event, behind those that wait. -/
def State.pushEvent (s : State) (ctx die : Nat) (e : List Byte) : State :=
  let w := (look s.evbuf (die * 16 + ctx)).getD []
  match w, s.evQueue ctx with
  | [], some q => s.pushEntry q 0 e
  | _, _ => { s with evbuf := put s.evbuf (die * 16 + ctx) (w ++ [e]) }

/-- A 24-bit ticket number that no waiting event has (R402): numbers are given in rising order, so that an
answer that comes too late names no waiting ticket (R327, R403). DESIGN CHOICE, unsafe (log 31). -/
def State.freeTicket (s : State) : Nat :=
  ((List.range (s.tickets.length + 1)).map fun i => (s.nextTicket + i) % 2 ^ 24).find? (fun t => (look s.tickets t).isNone) |>.getD 0

/-- A waiting ticket under the next free number. DESIGN CHOICE, unsafe (log 31). -/
def State.newTicket (s : State) (k : Ticket) : Nat × State :=
  let t := s.freeTicket
  (t, { s with tickets := put s.tickets t k, nextTicket := (t + 1) % 2 ^ 24 })

/-! ### Launch-level traps (R391, R410, R411) -/

/-- Halt a beam at its instruction boundary (R39, R134): it keeps its lane (R20). -/
def Beam.halt (b : Beam) : Beam :=
  if b.st = .exited ∨ b.st = .halted then b
  else { b with st := .halted, held := b.st, latch := none, buf := [], passed := 0 }

/-- The beams of a launch. -/
def State.beamsOf (s : State) (p : Wg → Bool) : List Nat :=
  (s.beams.filter fun x => p (s.wg x.2.wg)).map (·.1)

/-- The next channel boundary: the multiple of 512 bytes of progress that comes next, in the example of R331 too. -/
def CopyCmd.halt (c : CopyCmd) : CopyCmd := if c.stop.isSome then c else { c with stop := some ((c.done / 512 + 1) * 512) }

/-- Running commands of gangs that halt go on to their channel boundaries (R331, R410). -/
def State.haltCopies (s : State) (p : CopyCmd → Bool) : State :=
  { s with cores := s.cores.map fun (c : Nat × Core) => (c.1, { c.2 with chans := List.map (fun (x : Nat × Chan) =>
      (x.1, { x.2 with running := x.2.running.map fun r => if p r then r.halt else r })) c.2.chans }) }

/-- Raise a launch-level trap: the launch's gangs halt; the step LAUNCH_LEVEL_TRAP ends the launch once
they have drained. The first trap of a launch stands. -/
def State.launchTrap (s : State) (l code feature : Nat) : State :=
  let detail := code + (if code = Code.featureDisabled then 256 * feature else 0)
  let s := s.modLaunch l fun x => if x.trapped.isNone then { x with trapped := some detail } else x
  State.haltCopies { s with beams := s.beams.map fun x => if (s.wg x.2.wg).launch = l then (x.1, x.2.halt) else x }
    fun c => c.launch == l

/-! ### Handler entry (R394 to R397) -/

/-- Where a byte of a core's SRAM stands in the table of scratchpad bytes. Programs never see where an allocation
begins (R255), and the model numbers places without regard to the size of the SRAM, which bounds what is
allocated (R129). DESIGN CHOICE, safe (log 109). -/
def sramSpan : Nat := 2 ^ 24
def sramKey (core off : Nat) : Nat := core * sramSpan + off
def sramCore (key : Nat) : Nat := key / sramSpan
def sramOff (key : Nat) : Nat := key % sramSpan

/-- The place of a beam's frame in its core's SRAM (R394). -/
def frameAt (g : Wg) (b : Nat) : Nat := sramKey g.core (g.spadBase + g.spadSize + 256 * b)

def p7 (p : BitVec 7) : Byte := p.zeroExtend 8

/-- Bytes [127:0] of the frame (R395). DEDUCED, unsafe (log 90). -/
def frameBytes (s : State) (bk : Nat) (t : TrapInfo) (hdr : W64) (pos : Nat) : List Byte :=
  let b := s.beam bk
  bytesOfNat 4 t.code ++ [t.mask] ++ bytesOfNat 1 t.reg
    ++ bytesOfNat 1 (b2n t.deferred + 2 * b2n t.ovf) ++ bytesOfNat 1 t.ctr
    ++ bytesOfNat 8 hdr.toNat ++ bytesOfNat 1 pos
    ++ bytesOfNat 1 (ownCount (s.wg b.wg).stack b.b) ++ [b.active, b.live] ++ bytesOfNat 4 0
    ++ bytesOfNat 8 t.addr ++ bytesOfNat 4 t.d0 ++ bytesOfNat 4 t.d1 ++ bytesOfNat 4 t.d2 ++ bytesOfNat 4 0
    ++ ((List.range 16).map fun i => bytesOfNat 4 (b.getK (48 + i)).toNat).flatten
    ++ bytesOfNat 1 b.kp.toNat ++ bytesOfNat 7 0
    ++ (List.range 8).map fun i => p7 (s.thread (tkeyOf bk b i)).p

/-- Deliver a precise or deferred trap to a beam (R391, R396, R397): into the handler at TRAP_BASE when
the workgroup has a save region and TRAP_BASE is set; DOUBLE_TRAP from inside a handler; otherwise the
trap is launch-level. -/
def State.takeTrap (s : State) (bk : Nat) (t : TrapInfo) (hdr : W64) (pos : Nat) : State :=
  let b := s.beam bk
  let g := s.wg b.wg
  let base := s.ctxReg64 (s.launch g.launch).ctx 0x100
  if launchLevel t.code then s.launchTrap g.launch t.code t.feature
  else if b.hmode then s.launchTrap g.launch Code.doubleTrap 0
  else if !g.region || base == 0 then s.launchTrap g.launch t.code 0
  else
    let at_ := frameAt g b.b
    let s := { s with mem := { s.mem with
      scratch := setBs s.mem.scratch at_ (frameBytes s bk t hdr pos),
      struck := s.mem.struck.filter fun w => w % 2 == 1 || w / 2 < at_ / 32 || (at_ + 128) / 32 ≤ w / 2 } }
    s.modBeam bk fun b =>
      { b with active := b.live, hmode := true, pc := BitVec.ofNat 64 base, pos := 0, mid := false, buf := [],
               wait := .none, pend := none, partway := none,
               st := if b.st = .issuing then .issuing else .ready }

/-- The record a counter kept becomes a deferred trap, and is cleared (R36). -/
def State.takeRec (s : State) (bk : Nat) (c : Nat) (r : FaultRec) (hdr : W64) (pos : Nat) : State :=
  let s := s.modBeam bk fun b => b.setRec c none
  s.takeTrap bk { code := r.code, mask := r.mask, addr := r.addr, deferred := true, ovf := r.ovf, ctr := c } hdr pos

/-- The lowest-numbered counter of a mask that reads zero and holds a record (R36).
DEDUCED, unsafe (log 81). -/
def Beam.raisable (b : Beam) (mask : BitVec 12) : Option (Nat × FaultRec) :=
  ((List.range 12).find? fun i => mask.getLsbD i && b.getCtr i == 0 && (b.getRec i).isSome).bind fun i =>
    (b.getRec i).map fun r => (i, r)

/-- A word that first waits until w0 to w11 all read zero, with deferred faults raised under R36. -/
def State.drained (s : State) : R Unit :=
  if s.cb.allZero then
    match s.cb.raisable (-1) with
    | some (c, r) => .error (.deferred c r)
    | none => .ok ()
  else .error (.wait .waiting .zero)

/-- A reply over a link is awaited. -/
def OpCond.far : OpCond → Bool
  | .remote _ => true
  | .bank _ _ _ _ rs => rs ≠ []
  | _ => false
/-- The replies it awaits. -/
def OpCond.remotes : OpCond → List Remote
  | .remote rs => rs
  | .bank _ _ _ _ rs => rs
  | _ => []
/-- The same with other replies to await. -/
def OpCond.withRemotes (c : OpCond) (rs : List Remote) : OpCond :=
  match c with
  | .remote _ => .remote rs
  | .bank core n va first _ => .bank core n va first rs
  | c => c

/-- A write still in flight that a release at a scope waits for (R293): at .beam issue order is enough, and
only .sys waits for a host or a peer. -/
def Op.before (o : Op) (c : Scope) : Bool := c != .beam && (c == .sys || !o.cond.far)

/-- A fence waits for an earlier operation (R292, R293): its acquire side for reads; its release side, past the beam, for
the beam's own accesses, those over a link only at .sys. -/
def Order.waitsFor (o : Order) (x : Op) : Bool :=
  (o.acqAt.isSome && x.kind.reads)
    || (o.relAt.any fun c => c ≠ .beam && x.kind.own && (x.kind == .load || x.before c))

/-- The accesses that a fence orders before it have been performed. -/
def State.fenceDone (s : State) (o : Op) (ord : Order) : Bool :=
  (s.ops.takeWhile fun x => x.id ≠ o.id).all fun x => x.beam ≠ o.beam || x.uid ≠ o.uid || !Order.waitsFor ord x

/-- Operations of a beam that a release at a scope waits for: untracked ones that may still bring an error to its
record (R253, R212), and stores on their way to their home slice, which a codebook load that the release is paired with
must find there (R213). -/
def State.untracked (s : State) (bk : Nat) (c : Scope) : Bool :=
  (s.opsOf bk).any fun o => (o.kind.held && o.ctr.isNone && o.before c) || (o.old ≠ [] && c != .beam)

/-- Raise the untracked-error record (R253). -/
def State.raised (s : State) : R Unit :=
  match s.cb.untracked with
  | some r => .error (.untracked r)
  | none => .ok ()

/-- Before a release or a fence of a scope takes effect (R253, R293): the untracked stores it waits for are
performed, and the untracked-error record is raised. DEDUCED, unsafe (log 71). -/
def State.released (s : State) (c : Scope) : R Unit := do
  ready (!s.untracked s.sched.cur c)
  s.raised

/-- The beams of a workgroup that have not exited. -/
def State.alive (s : State) (g : Wg) : List Nat := g.beams.filter fun bk => (s.beam bk).st ≠ .exited

/-- R20: the lowest-numbered lane among those with the fewest bound beams. -/
def State.pickLane (s : State) (core : Nat) : Nat :=
  let n := fun l => (s.beams.filter fun x => coreOf x.1 == core && x.2.lane == some l).length
  (List.range 16).foldl (fun best l => if n l < n best then l else best) 0

/-- Bind a beam to a lane by R20. -/
def State.bind (s : State) (bk : Nat) : State :=
  let s := s.modBeam bk fun b => { b with lane := none }
  let l := s.pickLane (coreOf bk)
  s.modBeam bk fun b => { b with lane := some l }

/-- The lowest active thread's value, and the threads that differ from it (R229). -/
def State.agree (s : State) (f : Nat → Nat) : R Nat :=
  let r := f (lowest s.cb.active)
  let bad := mask8 fun t => s.active t && f t != r
  if bad = 0 then .ok r else trap Code.uniformViolation bad

/-- A k register, or an s register that must hold one value over the active threads (R229), as 32
bits. -/
def State.uni32 (s : State) (f : RF) : R Nat :=
  match f with
  | .k n => .ok (s.cb.getK n.toNat).toNat
  | .t n => s.agree fun t => ((s.th t).getS n.toNat).toNat

/-- The same for a pair. -/
def State.uni64 (s : State) (f : RF) : R Nat :=
  match f with
  | .k n => .ok (s.cb.kPair n.toNat)
  | .t n => s.agree fun t => (s.th t).sPair n.toNat

/-- R130: a register field that names an s or v register outside the budget. -/
def State.sIn (s : State) (f : RF) : R Unit :=
  match f with
  | .k _ => .ok ()
  | .t n => if n.toNat < s.cwg.ns then .ok () else illegal
def State.vIn (s : State) (f : RF) : R Unit :=
  match f with
  | .k _ => .ok ()
  | .t n => if n.toNat < s.cwg.nv then .ok () else illegal
/-- The same for the last of n registers that start at f; k registers end at k63. -/
def State.sSpan (s : State) (f : RF) (n : Nat) : R Unit :=
  match f with
  | .k i => if i.toNat + n ≤ 64 then .ok () else illegal
  | .t i => if i.toNat + n ≤ s.cwg.ns then .ok () else illegal
def State.vSpan (s : State) (f : RF) (n : Nat) : R Unit :=
  match f with
  | .k i => if i.toNat + n ≤ 64 then .ok () else illegal
  | .t i => if i.toNat + n ≤ s.cwg.nv then .ok () else illegal

/-- Write one 32-bit value to an s field in every taking-part thread with a tag, or to a k field once. -/
def State.putD (s : State) (m : BitVec 8) (d : RF) (val : Nat → W32) (tag : BitVec 4) : State :=
  match d with
  | .k n => s.modCb fun b => b.setK n.toNat (val (lowest m))
  | .t n => eachT m s fun s t => s.modTh t fun x => x.setS n.toNat (val t) tag

/-- The same as writes of an operation in flight. -/
def State.wrD (s : State) (m : BitVec 8) (d : RF) (val : Nat → W32) (tag : BitVec 4) : List RegWrite :=
  match d with
  | .k n => [.k n.toNat (val (lowest m))]
  | .t n => (bitsOf m).map fun t => .s (s.tkey t) n.toNat (val t) tag

/-! ### Issuing a word -/

/-- Park the beam on a translation fault, with a ticket and an event of kind 1 (R271, R402). With no
room for the event the unit stalls. DEDUCED, unsafe (log 19). -/
def State.pageFault (s : State) (bk addr cause : Nat) (mask : BitVec 8) : State :=
  let b := s.beam bk
  let g := s.wg b.wg
  let l := s.launch g.launch
  let die := coreOf bk % 32 / 16
  if s.evRoom l.ctx die then
    let (t, s) := s.newTicket { kind := 1, ctx := l.ctx, launch := g.launch, addr := addr, who := bk, uid := b.uid }
    let s := s.pushEvent l.ctx die (eventRecord 1 cause t addr (coreOf bk) (bk % 64) mask.toNat l.lrec.done)
    let (n, s) := s.fresh
    s.modBeam bk fun b => { b with st := .parked, wait := .ticket t, lane := none, latch := none, parkedAt := n }
  else s.stall bk

/-- An engine stalls on a translation fault (R271): its command stands in flight until the host answers the
ticket of an event of kind 3 (R402), and the beam goes on. The Prism unit serves a pair of cores (R17), which
the ticket names by the lower one; the event names the core of the beam. -/
def State.stallEngine (s : State) (unit : Nat) (o : Op) (ctr : Option Nat) (addr cause : Nat) : R State := do
  let l := s.cl
  let die := s.cc % 32 / 16
  ready (s.evRoom l.ctx die)
  let (t, s) := s.newTicket { kind := 3, ctx := l.ctx, launch := s.cwg.launch, addr := addr, who := s.cc / 2 * 2, uid := s.sched.fresh, engine := true }
  let s := s.startOp s.sched.cur ctr { o with cond := .held }
  .ok (s.pushEvent l.ctx die (eventRecord 3 cause t addr s.cc unit 0 l.lrec.done))

/-- A word as an engine keeps it: the issuing beam and its threads as they stand. -/
def State.asEngine (s : State) (i : Instr) : Engine :=
  { instr := i, beam := s.cb, threads := (List.range 8).filterMap fun t => (s.cb.list.getD t none).map fun _ => (s.tkey t, s.th t) }

/-- An engine word whose translation faults leaves its command stalled. -/
def State.orStall (s : State) (unit : Nat) (i : Instr) (kind : OpKind) (ctr : R (Option Nat)) (r : R State) : R State :=
  match r with
  | .error (.page a c _) => do
    let ctr ← ctr
    s.stallEngine unit { id := 0, beam := 0, uid := 0, ctr := none, kind := kind, eng := some (s.asEngine i) } ctr a c
  | r => r

/-- The issuing beam waits at its word, which issues again when it wakes. A PARKED beam leaves its lane and
releases its operand latch. -/
def State.waitAs (s : State) (st : BeamSt) (w : Wait) : State :=
  let (n, s) := s.fresh
  s.modCb fun b =>
    { b with st := st, wait := w, parkedAt := n,
             lane := if st = .parked then none else b.lane,
             latch := if st = .parked then none else b.latch }

/-- The event that the word of a beam waited for has come (MODEL). -/
def Beam.met (b : Beam) : Bool := b.wait == .met

/-- The word a beam stands at. -/
def Beam.word (b : Beam) : W64 := b.buf.getD (b.pos + 1) 0

/-- The details of ILLEGAL_INSTRUCTION and ILLEGAL_PAIR are the bits of the word (R395). -/
def TrapInfo.withWord (t : TrapInfo) (w : W64) : TrapInfo :=
  if t.code = Code.illegalInstruction ∨ t.code = Code.illegalPair then { t with d0 := w.toNat % 2 ^ 32, d1 := w.toNat / 2 ^ 32 } else t

/-- What becomes of the machine when the word of the current beam stops short. -/
def State.stop (s : State) (e : Stop) : Host.Outcome State Fault Refusal :=
  match e with
  | .trap t => .next (s.takeTrap s.sched.cur (t.withWord s.cb.word) s.cb.pc s.cb.pos)
  | .stall => .next (s.stall s.sched.cur)
  | .wait st w => .next (s.waitAs st w)
  | .deferred c r => .next (s.takeRec s.sched.cur c r s.cb.pc s.cb.pos)
  | .untracked r =>
    let s := s.modCb fun b => { b with untracked := none }
    .next (s.takeTrap s.sched.cur { code := r.code, mask := r.mask, addr := r.addr, ovf := r.ovf } s.cb.pc s.cb.pos)
  | .page a c m => .next (s.pageFault s.sched.cur a c m)
  | .fault f => .fault f

/-- One of the machine's own steps: it changes nothing where it is not enabled.
DESIGN CHOICE, safe (log 20). -/
def event (s : State) (f : State → Option State) : Host.Outcome State Fault Refusal := .next ((f s).getD s)

end Sys2Proof.Machine
end

