-- ==== Sys2Proof/Machine/Recode.lean ====
section
/-! DEFINITION. How a base die stores a block of 256 bytes whose page has RCD set: the recoded layout of R456, which
blocks fit it (R457), and reading it back. -/

namespace Sys2Proof.Machine

/-- The BF16 value of element i of a block. -/
def bf16At (bs : List Byte) (i : Nat) : Nat := (bs.getD (2 * i) 0).toNat + 256 * (bs.getD (2 * i + 1) 0).toNat

/-- E_j: the largest exponent field among the elements of a sub-block that are not zero (R456). -/
def recodeTop (bs : List Byte) (j : Nat) : Nat :=
  (List.range 32).foldl (fun e i =>
    let v := bf16At bs (32 * j + i)
    if v % 2 ^ 15 = 0 then e else max e (bits v 14 7)) 0

/-- An element fits a sub-block with this largest exponent: ±0, or normal, finite and of delta at most 6 (R457). -/
def recodes (e v : Nat) : Bool :=
  let x := bits v 14 7
  v % 2 ^ 15 == 0 || (x ≠ 0 && x ≠ 255 && e - x ≤ 6)

/-- The field of an element: sign, delta, mantissa (R456). -/
def recodeField (e v : Nat) : Nat :=
  if v % 2 ^ 15 = 0 then bits v 15 15 * 2 ^ 10 + 7 * 2 ^ 7
  else bits v 15 15 * 2 ^ 10 + (e - bits v 14 7) * 2 ^ 7 + bits v 6 0

/-- The element of a field. -/
def recodedValue (e x : Nat) : Nat :=
  if bits x 9 7 = 7 then bits x 10 10 * 2 ^ 15
  else bits x 10 10 * 2 ^ 15 + (e - bits x 9 7) * 2 ^ 7 + bits x 6 0

/-- The recoded layout of a block: four exponents, four strings of 32 fields of 11 bits, zeros; none where an element
does not fit (R456, R457). -/
def encodeBlock (bs : List Byte) : Option (List Byte) :=
  if (List.range 128).all fun i => recodes (recodeTop bs (i / 32)) (bf16At bs i) then
    some ((List.range 4).map (fun j => BitVec.ofNat 8 (recodeTop bs j))
      ++ (List.range 4).flatMap (fun j => bytesOfNat 44
          (ofElems 11 ((List.range 32).map fun i => recodeField (recodeTop bs j) (bf16At bs (32 * j + i)))))
      ++ List.replicate 12 0)
  else none

/-- The block of a recoded layout. -/
def decodeBlock (st : List Byte) : List Byte :=
  (List.range 4).flatMap fun j =>
    let fields := natOfBytes ((st.drop (4 + 44 * j)).take 44)
    (List.range 32).flatMap fun i => bytesOfNat 2 (recodedValue (st.getD j 0).toNat (elem fields 11 i))

end Sys2Proof.Machine
end

