-- ==== Sys2Proof/Machine/Memory.lean ====
section
/-! DEFINITION. Memory: the physical map (R448, R449), translation (R268 to R273), errors of the array
(R253, R454), the copies that caches keep (R243, R279, R363), Apertures and surfaces (R263 to R265),
scratchpad, gang window and stack scratch (R255 to R258), and the checks every access makes in the order of
R252. -/

namespace Sys2Proof.Machine

/-! ### The physical map -/

/-- Locations: P of HBM and host, and a peer's PA above them, one block of 2^52 for each package. -/
def isHbm (loc : Nat) : Bool := loc < 2 ^ 39
def isHost (loc : Nat) : Bool := 2 ^ 51 ≤ loc && loc < 2 ^ 52
def isPeer (loc : Nat) : Bool := 2 ^ 52 ≤ loc
/-- P lies in a region of R448. -/
def inRegion (p : Nat) : Bool := isHbm p || isHost p
/-- The stack of an HBM address (R449). -/
def stackOf (p : Nat) : Nat := xorFields p 3 16 5
/-- The home slice of a physical address on its die (R245). -/
def sliceOf (p : Nat) : Nat := xorFields p 5 7 5
/-- The home die (R245, R448). -/
def homeDie (p : Nat) : Nat := if isHbm p then stackOf p / 4 else 0

/-! ### Page tables -/

/-- What an access does to a page. -/
inductive Acc where
  | read | write | fetch
  deriving DecidableEq, Repr

/-- A TLBINV of a context is on its way. -/
def State.tlbinvOut (s : State) (ctx : Nat) : Bool :=
  s.ops.any fun o => match o.cond with
    | .pages c _ => c == ctx
    | _ => false

/-- A byte of a table as the walkers see it (R273): a context's own stores are seen from its next TLBINV on, and
while that is on its way either way (R405). DEDUCED, unsafe (log 93). -/
def State.tableByte (s : State) (p : Nat) : Byte :=
  match look s.mem.unseen p with
  | some (old, c) => if s.tlbinvOut c && !Config.holds s.sched.clk c p then getB s.mem.bytes p else old
  | none => getB s.mem.bytes p
/-- A 64-bit entry of a table: one that cannot be read for an error reads as it stands. DESIGN CHOICE, unsafe (log 122). -/
def State.tableWord (s : State) (p : Nat) : Nat := natOfBytes ((List.range 8).map fun i => s.tableByte (p + i))

/-- A bad leaf (R270), with sz the size exponent of its page. -/
def badLeaf (e sz : Nat) : Bool :=
  bits e 15 11 ≠ 0 || bits e 63 62 ≠ 0
    || bits e 51 16 % 2 ^ (sz - 16) ≠ 0
    || (bit e 9 && (bit e 2 || bit e 3 || bit e 4 || bit e 5 || bit e 10 || bits e 51 16 ≠ 0))
    || (bit e 4 && (bit e 7 || bit e 10))
    || (bits e 61 52 ≠ 0 && !bit e 10)

/-- The physical address of a leaf and a page offset, and whether it lies in a region (R448). -/
def leafLoc (e sz va : Nat) : Nat :=
  (if bit e 10 then 2 ^ 52 * (bits e 61 52 + 1) else 0) + bits e 51 16 * 2 ^ 16 + va % 2 ^ sz

/-- Index of a level (R268). -/
def levelIdx (va : Nat) : Nat → Nat
  | 3 => bits va 56 39
  | 2 => bits va 38 30
  | 1 => bits va 29 21
  | _ => bits va 20 16

/-- The size exponent of the page a leaf maps at a level. -/
def levelSize : Nat → Nat
  | 2 => 30
  | 1 => 21
  | _ => 16

/-- A leaf found at a level: its entry and page size, or cause 3 (R270, R448). -/
def leafAt (e lvl va : Nat) : Except Nat (Nat × Nat) :=
  if lvl = 3 || badLeaf e (levelSize lvl) || (!bit e 10 && !bit e 9 && !inRegion (leafLoc e (levelSize lvl) va)) then .error 3
  else .ok (e, levelSize lvl)

/-- Walk from a table at a level down to a leaf, with a reader of entries: the entry and its page size, or a
cause (R271). -/
def walk (rd : Nat → Nat) (va : Nat) : Nat → Nat → Except Nat (Nat × Nat)
  | 0, tab =>
    let e := rd (tab + 8 * levelIdx va 0)
    if !bit e 0 then .error 0 else if bit e 1 then leafAt e 0 va else .error 3
  | l + 1, tab =>
    let e := rd (tab + 8 * levelIdx va (l + 1))
    if !bit e 0 then .error 0
    else if bit e 1 then leafAt e (l + 1) va
    else if bits e 11 2 ≠ 0 || bits e 63 52 ≠ 0 then .error 3
    else walk rd va l (bits e 51 12 * 2 ^ 12)

/-- Bits [63:57] equal bit 56 (R268). -/
def canonical (va : Nat) : Bool := bits va 63 56 == 0 || bits va 63 56 == 255

/-- A cached translation of the page that holds va (R404). DEDUCED, unsafe (log 76). -/
def tlbFind (m : Mem) (ctx va : Nat) : Option TlbEntry :=
  m.tlb.find? fun e => e.ctx == ctx && va / 2 ^ e.size == e.vpn

/-- The leaf for an address: by a walk, or from a TLB, which may hold an entry that a walk no longer finds
(R404). DESIGN CHOICE, safe (log 111). -/
def State.leaf (s : State) (ctx va : Nat) : Except Nat (Nat × Nat) :=
  if !canonical va then .error 4
  else match tlbFind s.mem ctx va with
    | some e =>
      match walk s.tableWord va 3 (s.ctxReg64 ctx 0x106) with
      | .ok w => if w = (e.pte, e.size) ∨ Config.holds s.sched.clk ctx e.vpn then .ok (e.pte, e.size) else .ok w
      | .error c => if Config.holds s.sched.clk ctx e.vpn then .ok (e.pte, e.size) else .error c
    | none => walk s.tableWord va 3 (s.ctxReg64 ctx 0x106)

/-- Hold the translation a walk found (R404). DEDUCED, unsafe (log 76). -/
def State.fillTlb (s : State) (ctx va : Nat) : State :=
  match tlbFind s.mem ctx va, s.leaf ctx va with
  | none, .ok (e, sz) =>
    { s with mem := { s.mem with tlb := s.mem.tlb ++ [{ ctx := ctx, vpn := va / 2 ^ sz, size := sz, pte := e }] } }
  | _, _ => s

/-! ### Surface records (R263, R264) -/

structure Surf where
  base : Nat
  meta_ : Nat
  width : Nat
  height : Nat
  depth : Nat
  efmt : Nat
  ze : Bool
  spec : Bool
  pitch : Nat
  spitch : Nat
  lam0 : Nat
  dlam : Nat
  lcnt : Nat
  levels : Nat
  deriving DecidableEq, Repr

def byteAt (l : List Byte) (i : Nat) : Nat := (l.getD i 0).toNat
def field (l : List Byte) (i n : Nat) : Nat := natOfBytes ((l.drop i).take n)

def surfOf (l : List Byte) : Surf :=
  { base := field l 0 8, meta_ := field l 8 8, width := field l 16 4, height := field l 20 4, depth := field l 24 2,
    efmt := byteAt l 26, ze := bit (byteAt l 27) 0, spec := bit (byteAt l 27) 1, pitch := field l 28 4,
    spitch := field l 32 8, lam0 := field l 40 4, dlam := field l 44 4, lcnt := field l 48 2, levels := byteAt l 50 }

/-- The fields of R263 that every reader checks; its reserved bits hold nothing back (R5). -/
def surfOk (l : List Byte) : Bool :=
  let f := surfOf l
  (if f.ze then f.base % 512 == 0 else f.base % 64 == 0 && f.meta_ == 0)
    && 1 ≤ f.width && f.width ≤ 16777216 && 1 ≤ f.height && f.height ≤ 16777216 && 1 ≤ f.depth
    && f.efmt ≤ 23 && f.efmt ≠ 15
    && f.pitch % 64 == 0 && f.spitch % 64 == 0 && f.pitch * f.height ≤ f.spitch
    && (!f.ze || f.spitch * f.depth % 512 == 0)

/-- The fields past byte 39 that the copy channels and the Prism unit also read. -/
def surfFull (l : List Byte) : Bool :=
  let f := surfOf l
  surfOk l && (f.spec || f.lcnt == 0) && 1 ≤ f.levels && f.levels ≤ 16

/-! ### Translating an access -/

/-- A translated access: where its first byte lies, the leaf, and for a page with AP set the bound
surface and the logical byte. -/
structure Xl where
  loc : Nat
  pte : Nat
  ap : Option (Surf × Nat) := none
  /-- the descriptors or the surface record of an Aperture lie on a PEER page (R471) -/
  via : Bool := false
  deriving DecidableEq, Repr

def Xl.det (x : Xl) : Bool := bit x.pte 4
def Xl.rcd (x : Xl) : Bool := bit x.pte 5
def Xl.nc (x : Xl) : Bool := bit x.pte 7
def Xl.isAp (x : Xl) : Bool := bit x.pte 9
def Xl.isPeer (x : Xl) : Bool := bit x.pte 10

/-- Translation of one address (R271), but for Apertures. -/
def State.xlPlain (s : State) (ctx va : Nat) (k : Acc) : Except Nat Xl :=
  match s.leaf ctx va with
  | .error c => .error c
  | .ok (e, sz) =>
    if k = .write && !bit e 2 && !bit e 9 then .error 1
    else if k = .fetch && !bit e 3 then .error 2
    else .ok { loc := leafLoc e sz va, pte := e }

/-- Virtual bytes, read one by one through plain pages; the failing address and cause otherwise. Bytes that cannot be
read for an error read as they stand. DESIGN CHOICE, unsafe (log 122). -/
def State.vread (s : State) (ctx va : Nat) (k : Acc := .read) : Nat → Except (Nat × Nat) (List Byte)
  | 0 => .ok []
  | n + 1 =>
    match s.xlPlain ctx va k with
    | .error c => .error (va, c)
    | .ok x =>
      if x.isAp then .error (va, 5)
      else match s.vread ctx (va + 1) k n with
        | .error e => .error e
        | .ok bs => .ok (getB s.mem.bytes x.loc :: bs)

/-- The descriptors of the context's Aperture table that cover va (R265): one whose bytes do not translate is passed
over. DEDUCED, unsafe (log 70). -/
def State.apertureDescs (s : State) (ctx va : Nat) : List (List Byte) :=
  let tab := s.ctxReg64 ctx 0x104
  (List.range 16).filterMap fun n =>
    match s.vread ctx (tab + 32 * n) .read 32 with
    | .ok l => if bit (byteAt l 24) 0 && field l 0 8 ≤ va && va < field l 0 8 + field l 8 8 then some l else none
    | .error _ => none

/-- An address lies on a PEER page. -/
def State.onPeer (s : State) (ctx va : Nat) (k : Acc) : Bool :=
  match s.xlPlain ctx va k with
  | .ok x => x.isPeer
  | .error _ => false

/-- What an Aperture reads to find its surface lies on a PEER page. -/
def State.apertureFar (s : State) (ctx va : Nat) : Bool :=
  let tab := s.ctxReg64 ctx 0x104
  s.onPeer ctx tab .read || s.onPeer ctx (tab + 511) .read
    || (s.apertureDescs ctx va).head?.any fun l => s.onPeer ctx (field l 16 8) .read

/-- The surface that the first descriptor names (R265): one whose bytes do not translate is passed over; where the
record does not translate, the cause is that of the record. DEDUCED, unsafe (log 70). -/
def State.aperture (s : State) (ctx va : Nat) : Except Nat (Surf × Nat) :=
  match s.apertureDescs ctx va with
  | [] => .error 5
  | l :: _ =>
    let rec_ := field l 16 8
    if rec_ % 64 ≠ 0 then .error 5
    else match s.vread ctx rec_ .read 64 with
      | .error e => .error e.2
      | .ok r => if surfOk r then .ok (surfOf r, va - field l 0 8) else .error 5

/-- Translation of one access (R271, R265). -/
def State.xl (s : State) (ctx va : Nat) (k : Acc) : Except Nat Xl :=
  match s.xlPlain ctx va k with
  | .error c => .error c
  | .ok x =>
    if x.isAp && k = .read then
      match s.aperture ctx va with
      | .ok a => .ok { x with ap := some a, via := s.apertureFar ctx va }
      | .error c => .error c
    else .ok x

/-! ### Uncorrectable sectors and links -/

/-- Whether the warm resets so far left a sector uncorrectable (R474): the latest left it as it was, zero, or
uncorrectable, and a write of all of it since replaces the codeword. DEDUCED, unsafe (log 61). -/
def lostSector (sec : Nat) : List (Nat × List Nat) → Bool
  | [] => false
  | r :: rs => !r.2.contains sec && match Config.free (r.1 + sec) % 3 with
    | 0 => lostSector sec rs
    | 1 => false
    | _ => true

/-- A sector whose codeword is uncorrectable: one known to be, or one that a warm reset left so (R474).
DEDUCED, unsafe (log 61). -/
def Mem.bad (m : Mem) (sec : Nat) : Bool := m.poison.contains sec || (sec < 2 ^ 34 && lostSector sec m.lost)

/-- Sectors written whole have new codewords (R454). -/
def Mem.heal (m : Mem) (secs : List Nat) : Mem :=
  { m with poison := m.poison.filter fun p => !secs.contains p,
           renewed := m.renewed.filter fun p => !secs.contains p,
           lost := match m.lost with
             | [] => []
             | r :: rs => (r.1, r.2 ++ secs.filter fun x => !r.2.contains x) :: rs }

/-- The uncorrectable codeword of a recoded block, one of its six (R454). -/
def Mem.badOfBlock (m : Mem) (blk : Nat) : Option Nat := (List.range 6).find? fun i => m.bad (8 * blk + i)

/-- The codeword because of which a byte of memory cannot be read, by its sector: that of the sector, or one of the
six of a recoded block (R454). PRESUMED, unsafe (log 6). -/
def Mem.badCodeword (m : Mem) (loc : Nat) : Option Nat :=
  if m.recoded.contains (loc / 256) then (m.badOfBlock (loc / 256)).map (8 * (loc / 256) + ·)
  else if m.bad (loc / 32) then some (loc / 32) else none

/-- Sectors have been written whole past L2: each replaces its codeword; those of a recoded block that cannot be read are
kept in mind until writes have covered all 256 bytes, since no request carries more than 128 (R451, R454).
DESIGN CHOICE, unsafe (log 120). -/
def Mem.renew (m : Mem) (secs : List Nat) : Mem :=
  secs.foldl (fun m x =>
    let block := (List.range 8).map (8 * (x / 8) + ·)
    let done := x :: m.renewed.filter (· ≠ x)
    if !m.recoded.contains (x / 8) then (if m.bad x then m.heal [x] else m)
    else if (m.badOfBlock (x / 8)).isNone then m
    else if block.all done.contains then m.heal block
    else { m with renewed := done }) m

/-- L2 holds the sector of a byte (R253): it has a byte of it that HBM lacks. A sector without one is taken as absent.
DESIGN CHOICE, unsafe (log 120). -/
def Mem.inL2 (m : Mem) (loc : Nat) : Bool := isHbm loc && m.unflushed.any fun u => u.1 / 32 == loc / 32

/-- The stack link or the Vetik Link to the home of a byte is down (R450, R467). -/
def State.linkDown (s : State) (loc : Nat) : Bool :=
  (isHbm loc && (s.reg (0x407 + 16 * stackOf loc)).getLsbD 1) || (isHost loc && (s.reg 0x543).getLsbD 3)

/-- Whether the sector that holds a byte cannot be read: L2 does not hold it, and its codeword, or one of those of its
recoded block, is uncorrectable (R454), or a link is down (R450, R467). PRESUMED, unsafe (log 6). -/
def State.badByte (s : State) (loc : Nat) : Bool :=
  !s.mem.inL2 loc && ((s.mem.badCodeword loc).isSome || s.linkDown loc)
def State.badBytes (s : State) (loc n : Nat) : Bool := (List.range n).any fun i => s.badByte (loc + i)
/-- The first byte of a range that cannot be read. -/
def State.firstBad (s : State) (loc n : Nat) : Nat := (((List.range n).map (loc + ·)).find? s.badByte).getD loc

/-- An uncorrectable codeword has been read: ARRAY_UE counts the event, and UE_ADDR holds its P (R454). -/
def State.logUe (s : State) (sec : Nat) : State :=
  let p := 32 * sec
  let k := 0x400 + 16 * stackOf p
  ((s.bump (k + 4)).setReg (k + 8) (BitVec.ofNat 32 p)).setReg (k + 9) (BitVec.ofNat 32 (p / 2 ^ 32))

/-- A read met a byte that cannot be read. A link that is down is not counted (R453). -/
def State.countUe (s : State) (loc : Nat) : State :=
  if isHbm loc && !s.linkDown loc then s.logUe ((s.mem.badCodeword loc).getD (loc / 32)) else s
/-- A word met such bytes: each codeword is one event. -/
def State.countUes (s : State) (locs : List Nat) : State :=
  ((locs.map fun l => 32 * (s.mem.badCodeword l).getD (l / 32)).eraseDups).foldl (fun s l => s.countUe l) s

/-- A counter that rises by several (R463). -/
def State.bumpBy (s : State) (r n : Nat) : State := s.setReg r (BitVec.ofNat 32 (min ((s.reg r).toNat + n) (2 ^ 32 - 1)))

/-- Reads of a range of HBM that found a symbol to correct: the counter of its stack counts them (R454). Which reads
do is open. PRESUMED, safe (log 58). -/
def State.corrected (s : State) (reg loc n : Nat) : State :=
  if isHbm loc then
    s.bumpBy (0x400 + 16 * stackOf loc + reg)
      ((List.range ((loc + n + 31) / 32 - loc / 32)).filter fun i => Config.corrects s.sched.clk (loc / 32 + i)).length
  else s

/-! ### What base dies hold (R454, R456, R457) -/

/-- A byte of HBM: L2 may hold a newer one. -/
def Mem.hbmByte (m : Mem) (a : Nat) : Byte := (look m.unflushed a).getD (getB m.bytes a)

/-- A write that reaches HBM: under a byte that L2 holds dirty, only what HBM holds changes.
DEDUCED, safe (log 77). -/
def Mem.hbmPut (m : Mem) (a : Nat) (b : Byte) : Mem :=
  match look m.unflushed a with
  | some _ => if b = getB m.bytes a then { m with unflushed := del m.unflushed a } else { m with unflushed := put m.unflushed a b }
  | none => { m with bytes := setB m.bytes a b }

/-- The 256 bytes of a block, as HBM has them. -/
def Mem.block (m : Mem) (blk : Nat) : List Byte := (List.range 256).map fun i => m.hbmByte (256 * blk + i)

/-- What a base die stores of a block: the recoded layout, or the bytes as they are (R457). PRESUMED, unsafe (log 6). -/
def Mem.stored (m : Mem) (blk : Nat) : List Byte :=
  if m.recoded.contains blk then (encodeBlock (m.block blk)).getD (m.block blk) else m.block blk

/-- A byte as a base die reads it: by the fallback bit of its block, whatever the request (R457). -/
def Mem.dieByte (m : Mem) (a : Nat) : Byte :=
  if m.recoded.contains (a / 256) then (decodeBlock (m.stored (a / 256))).getD (a % 256) 0 else m.hbmByte a

/-- A block has been written and is stored anew, recoded where RCD asks for it, the feature is enabled and it fits
(R457, R471); its codewords are then new. One that cannot be read stays as it is. PRESUMED, unsafe (log 6). -/
def State.recode (s : State) (rcd : Bool) (blk : Nat) : State :=
  let ws := (List.range 8).map (8 * blk + ·)
  if (s.mem.badCodeword (256 * blk)).isSome || (!s.mem.recoded.contains blk && ws.any s.mem.bad) then s
  else
    let rest := s.mem.recoded.filter (· ≠ blk)
    let m := if s.mem.recoded.contains blk then s.mem.heal ws else s.mem
    { s with mem := { m with recoded := if rcd && s.enabled 10 && (encodeBlock (s.mem.block blk)).isSome then rest ++ [blk] else rest } }

/-- Sectors of L2 are written back, each whole (R415, R454, R457): their blocks go with the RCD bit of the page they were
written through. -/
def State.writeBack (s : State) (secs : List Nat) : State :=
  (((secs.map (· / 8)).eraseDups).filter fun b => isHbm (256 * b)).foldl (fun s b => s.recode ((look s.mem.rcd b).getD false) b)
    { s with mem := s.mem.renew secs }

/-! ### DET partials that a read must not touch (R307) -/

/-- The bytes of a partial: a film bin has eight, a bf16 half two. -/
def Partial.size (p : Partial) : Nat := if p.op = 4 then 8 else if p.op = 3 then 2 else 4

/-- Whether bytes touch a word with a partial of the launch not yet applied. -/
def State.hazard (s : State) (launch loc n : Nat) : Bool :=
  s.mem.partials.any fun p => p.launch == launch && p.loc < loc + n && loc < p.loc + p.size

/-! ### Reading through an Aperture or a surface (R264, R265) -/

/-- Why a byte cannot be read. -/
inductive Fail where
  /-- a translation fault: address and cause -/
  | page (a c : Nat)
  /-- uncorrectable data (R253): the location, where it is an error of the array, or none -/
  | data (loc : Option Nat)
  /-- a page that needs a feature which is not enabled (R471) -/
  | feature (n : Nat)
  deriving DecidableEq, Repr

/-- A byte of memory behind a plain page. -/
def State.plainByte (s : State) (ctx va : Nat) : Except Fail Byte :=
  match s.xlPlain ctx va .read with
  | .error c => .error (.page va c)
  | .ok x =>
    if x.isAp then .error (.page va 5)
    else if x.isPeer && !s.enabled 7 then .error (.feature 7)
    else if s.badByte x.loc then .error (.data (some x.loc))
    else .ok (getB s.mem.bytes x.loc)
/-- Several in a row. -/
def State.plainBytes (s : State) (ctx va : Nat) : Nat → Except Fail (List Byte)
  | 0 => .ok []
  | n + 1 => do .ok ((← s.plainByte ctx va) :: (← s.plainBytes ctx (va + 1) n))

/-- The bits set in a number, below n. -/
def popBelow (x n : Nat) : Nat := ((List.range n).filter fun i => bit x i).length

/-- The length nibble of a block of a surface with zero elision (R264). -/
def State.nibble (s : State) (ctx : Nat) (f : Surf) (k : Nat) : Except Fail Nat := do
  let nb ← s.plainByte ctx (f.meta_ + k / 2)
  .ok (if k % 2 = 0 then nb.toNat % 16 else nb.toNat / 16)

/-- A nibble that does not fit its mask (R264). -/
def misfit (lam mask : Nat) : Bool := 0 < lam && 32 * lam < 16 + 4 * popBelow mask 128

/-- One logical byte of a surface with zero elision: the stored form of its block. -/
def State.zeByte (s : State) (ctx : Nat) (f : Surf) (L : Nat) : Except Fail Byte := do
  let k := L / 512
  let lam ← s.nibble ctx f k
  let slot := f.base + 512 * k
  if lam = 0 then s.plainByte ctx (slot + L % 512)
  else
    let m := natOfBytes (← s.plainBytes ctx slot 16)
    let j := L % 512 / 4
    if misfit lam m then .error (.data none)
    else if bit m j then s.plainByte ctx (slot + 16 + 4 * popBelow m j + L % 4)
    else .ok 0

/-- The addresses that a read of one logical byte takes in: of a plain surface the byte; of a block with zeros elided
its length nibble, and its raw byte or its mask and the byte of its element (R264). -/
def State.surfReads (s : State) (ctx : Nat) (f : Surf) (L : Nat) : List Nat :=
  let k := L / 512
  let slot := f.base + 512 * k
  let j := L % 512 / 4
  if f.spitch * f.depth ≤ L then []
  else if !f.ze then [f.base + L]
  else (f.meta_ + k / 2) :: match s.nibble ctx f k with
    | .error _ => []
    | .ok 0 => [slot + L % 512]
    | .ok _ => (List.range 16).map (slot + ·) ++ match s.plainBytes ctx slot 16 with
      | .error _ => []
      | .ok bs => if bit (natOfBytes bs) j then [slot + 16 + 4 * popBelow (natOfBytes bs) j + L % 4] else []
/-- Their locations. -/
def State.surfLocs (s : State) (ctx : Nat) (f : Surf) (L : Nat) : List Nat :=
  (s.surfReads ctx f L).filterMap fun va => match s.xlPlain ctx va .read with
    | .ok x => some x.loc
    | .error _ => none

/-- One logical byte of a surface; bytes beyond its size read zero. -/
def State.surfByte (s : State) (ctx : Nat) (f : Surf) (L : Nat) : Except Fail Byte :=
  if f.spitch * f.depth ≤ L then .ok 0
  else if f.ze then s.zeByte ctx f L
  else s.plainByte ctx (f.base + L)

/-- The key of a decompressed byte. -/
def apKey (ctx va : Nat) : Nat := ctx * 2 ^ 64 + va

/-- A byte read through an Aperture: from a decompressed line that a cache still holds, or from the surface
(R265). DESIGN CHOICE, safe (log 92). -/
def State.apByte (s : State) (ctx va : Nat) (f : Surf) (L : Nat) : Except Fail Byte :=
  match look s.mem.expanded (apKey ctx va) with
  | some b => if Config.stale s.sched.clk (2048 + ctx) (va / 128) then .ok b else s.surfByte ctx f L
  | none => s.surfByte ctx f L

/-- After the read the byte is held, as it was returned. -/
def State.holdAp (s : State) (ctx va : Nat) (f : Surf) (L : Nat) : State :=
  match s.apByte ctx va f L with
  | .ok b => { s with mem := { s.mem with expanded := put s.mem.expanded (apKey ctx va) b } }
  | .error _ => s

/-- A read of a logical byte touches memory with an unapplied partial of the launch (R307). -/
def State.surfHazard (s : State) (ctx launch : Nat) (f : Surf) (L : Nat) : Bool :=
  (s.surfLocs ctx f L).any fun l => s.hazard launch l 1

/-! ### Words that parked beams watch (R350, R352) -/

/-- The condition of a watched word. -/
def watchMet (v mode cmp : Nat) : Bool :=
  match mode with
  | 0 => v == 0
  | 1 => v == cmp
  | 2 => v != cmp
  | _ => cmp ≤ v

/-- A word that a context sees through an Aperture, where it can be read. -/
def State.apertureWord (s : State) (ctx va : Nat) : Option Nat :=
  match s.xl ctx va .read with
  | .ok x => match x.ap with
    | some (f, L) => match (List.range 4).mapM fun i => s.surfByte ctx f (L + i) with
      | .ok bs => some (natOfBytes bs)
      | .error _ => none
    | none => none
  | .error _ => none

/-- A watched word meets its condition. -/
def State.watched (s : State) (w : Wait) : Bool :=
  match w with
  | .mword loc mode cmp => watchMet (natOfBytes (s.mem.read loc 4)) mode cmp
  | .sword c off mode cmp => watchMet (natOfBytes (getBs s.mem.scratch (sramKey c off) 4)) mode cmp
  | .aword ctx va mode cmp => (s.apertureWord ctx va).any fun v => watchMet v mode cmp
  | _ => false

/-- Every parked beam whose watched word now meets its condition is to wake (BEAM_WAKE, PARK_RELOAD): each
value of the word is tested as it is written. -/
def State.notify (s : State) : State :=
  { s with beams := s.beams.map fun x =>
      if (x.2.st == .parked || x.2.st == .evicted) && s.watched x.2.wait then (x.1, { x.2 with wait := .met }) else x }

/-- An access to bytes that a write still awaiting its reply has put at a host or a peer: the write has been
performed there, so a timeout no longer takes it back (R277, R462). -/
def Op.touch (o : Op) (loc n : Nat) : Op :=
  let keep := fun (r : Remote) => { r with undo := r.undo.filter fun u => u.1 < loc || loc + n ≤ u.1 }
  { o with cond := o.cond.withRemotes (o.cond.remotes.map keep) }
def State.touch (s : State) (loc n : Nat) : State :=
  if isHost loc || isPeer loc then { s with ops := s.ops.map fun o => o.touch loc n } else s

/-- The blocks that a range touches. -/
def blocksOf (loc n : Nat) : List Nat := (List.range ((loc + n + 255) / 256 - loc / 256)).map (loc / 256 + ·)

/-- Bytes written at a location, performed at the point of coherence: the caches follow as R243 says, and blocks that
go to the base die at once, from an NC page, are stored anew (R457). -/
def State.poke (s : State) (a : Agent) (loc : Nat) (bs : List Byte) : State :=
  let s := s.touch loc bs.length
  let s := { s with mem := (s.mem.write a loc bs).follow a loc bs.length }
  (if a.nc && isHbm loc then (blocksOf loc bs.length).foldl (fun s b => s.recode a.rcd b) s else s).notify
/-- Bytes written in a core's SRAM. -/
def State.pokeS (s : State) (key : Nat) (bs : List Byte) : State :=
  ({ s with mem := { s.mem with scratch := setBs s.mem.scratch key bs } }).notify

/-- 32-byte words that a list of byte keys covers whole. -/
def wholeWords (ks : List Nat) : List Nat :=
  ks.filterMap fun k => if k % 32 = 0 ∧ (List.range 32).all (fun i => ks.contains (k + i)) then some (k / 32) else none
/-- A word of a core's SRAM, or of a stack die, that a soft error has struck (R253). -/
def State.struckS (s : State) (key : Nat) : Bool := s.mem.struck.contains (2 * (key / 32))
def State.struckK (s : State) (key : Nat) : Bool := s.mem.struck.contains (2 * (key / 32) + 1)
/-- Bytes stored in a core's SRAM: a word written whole is sound again. DESIGN CHOICE, unsafe (log 94). -/
def State.storeS (s : State) (ks : List Nat) (bs : List Byte) : State :=
  let ws := (wholeWords ks).map (2 * ·)
  let s := { s with mem := { s.mem with struck := s.mem.struck.filter fun w => !ws.contains w } }
  (ks.zip bs).foldl (fun s kb => s.pokeS kb.1 [kb.2]) s
/-- Bytes stored in a stack die. -/
def State.storeK (s : State) (key : Nat) (bs : List Byte) : State :=
  let ws := (wholeWords ((List.range bs.length).map (key + ·))).map (2 * · + 1)
  { s with mem := { s.mem with stack := setBs s.mem.stack key bs, struck := s.mem.struck.filter fun w => !ws.contains w } }

/-- The bytes that a word writes: first location and length of each run. -/
def covered (rs : List (Nat × Nat)) (loc : Nat) : Bool := rs.any fun r => r.1 ≤ loc && loc < r.1 + r.2

/-- A byte of a write is kept (R253, R454): its sector can be read, or all that the word writes covers the sector. A
link that is down takes nothing (R450). DESIGN CHOICE, unsafe (log 120). -/
def State.keeps (s : State) (rs : List (Nat × Nat)) (loc : Nat) : Bool :=
  !s.badByte loc || (!s.linkDown loc && (List.range 32).all fun i => covered rs (loc / 32 * 32 + i))

/-- The sectors that cannot be read of these bytes, which a write past L2 renews. -/
def State.renewed (s : State) (locs : List Nat) : List Nat := ((locs.filter s.badByte).map (· / 32)).eraseDups

/-- A write of a range, a part of what a word writes (R253, R454): answers the locations of the bytes it drops. -/
def State.storePart (s : State) (a : Agent) (rs : List (Nat × Nat)) (loc : Nat) (bs : List Byte) : State × List Nat :=
  let n := bs.length
  let keep := (List.range n).filter fun i => s.keeps rs (loc + i)
  let lost := (List.range n).filter fun i => !s.keeps rs (loc + i)
  let s := if a.nc then { s with mem := s.mem.renew (s.renewed (keep.map (loc + ·))) } else s
  (if lost = [] then s.poke a loc bs else keep.foldl (fun s i => s.poke a (loc + i) [bs.getD i 0]) s, lost.map (loc + ·))

/-- A write of one range: ARRAY_UE counts what it dropped, and the answer says whether it dropped something. -/
def State.storeRange (s : State) (a : Agent) (loc : Nat) (bs : List Byte) : State × Bool :=
  let (s, lost) := s.storePart a [(loc, bs.length)] loc bs
  (s.countUes lost, lost ≠ [])

/-! ### What caches keep (R243, R279, R363) -/

/-- A line that a cache holds. -/
def Mem.cached (m : Mem) (cache line : Nat) : Option (List Byte) :=
  (m.caches.find? fun x => x.cache == cache && x.line == line).map (·.bytes)

/-- A byte as a read through a cache returns it: from a line the cache still holds, or from memory (R279, R291).
DESIGN CHOICE, safe (log 91). -/
def State.seen (s : State) (cache loc : Nat) : Byte :=
  match s.mem.cached cache (loc / 128) with
  | some bs => if Config.stale s.sched.clk cache (loc / 128) then bs.getD (loc % 128) 0 else getB s.mem.bytes loc
  | none => getB s.mem.bytes loc

/-- After such a read the cache holds the line: as it stood, or filled anew. DESIGN CHOICE, safe (log 91). -/
def State.holdLine (s : State) (cache loc : Nat) : State :=
  let line := loc / 128
  if (s.mem.cached cache line).isSome && Config.stale s.sched.clk cache line then s
  else { s with mem := { s.mem with
    caches := (s.mem.caches.filter fun x => !(x.cache == cache && x.line == line)) ++ [{ cache := cache, line := line, bytes := getBs s.mem.bytes (128 * line) 128 }] } }

/-- The acquire side of a scope (R293): at .gang and wider the core's L1 loses its lines; within the core those that
an engine has left behind, which alone could be older than a write it has to find (R284, R287, R288). -/
def State.acquire (s : State) (core : Nat) (c : Option Scope) : State :=
  match c with
  | none => s
  | some .beam | some .wg => { s with mem := s.mem.dropBehind core }
  | some _ => { s with mem := s.mem.dropCache core }

/-! ### Scratchpad, gang window, stack scratch -/

/-- The physical offset of a logical one under a layout mode (R256). -/
def layout (lay o : Nat) : Nat :=
  let row := o / 1024 * 1024
  match lay with
  | 1 => row + (bits o 9 5 ^^^ bits o 14 10) * 32 + bits o 4 0
  | 2 => row + bits o 9 8 * 256 + bits o 4 2 * 32 + bits o 7 5 * 4 + bits o 1 0
  | 3 => row + bits o 7 3 * 32 + bits o 9 8 * 8 + bits o 2 0
  | _ => o

/-- The save region of a workgroup, rounded to 4 KiB (R394). DEDUCED, unsafe (log 78). -/
def Wg.regionSize (g : Wg) : Nat := if g.region then roundUp (256 * g.beams.length) 4096 else 0

/-- The bytes of its allocation a beam may reach (R255, R394). -/
def State.spadLimit (s : State) : Nat := s.cwg.spadSize + if s.cb.hmode then s.cwg.regionSize else 0

/-- The places of n logical bytes of the workgroup's allocation. -/
def State.spadKeys (s : State) (lay o n : Nat) : List Nat :=
  (List.range n).map fun i => sramKey s.cc (s.cwg.spadBase + layout lay (o + i))

/-- The core at a gang position (R118). -/
def Gang.coreAt (g : Gang) (c : Nat) : Nat := 32 * (g.y + c / g.w) + (g.x + c % g.w)
/-- The position of a core in its gang. -/
def Gang.posOf (g : Gang) (core : Nat) : Nat := (core / 32 - g.y) * g.w + (core % 32 - g.x)

/-- The workgroups whose allocations make up a core's gang region, in ascending W (R257): those that
have retired keep their place, and those of spawn groups, which have no W, stand behind the launched ones in
the order they were placed. DEDUCED, unsafe (log 78). -/
def State.regionWgs (s : State) (gang core : Nat) : List (Nat × Wg) :=
  let gs := s.wgs.filter fun g => g.2.gang == gang && g.2.core == core
  let launched := fun (g : Nat × Wg) => match g.2.kind with
    | .launch _ => true
    | _ => false
  ((List.range 256).flatMap fun w => gs.filter fun g => launched g && g.2.w == w) ++ gs.filter fun g => !launched g
def State.regionSize (s : State) (gang core : Nat) : Nat :=
  ((s.regionWgs gang core).map fun g => g.2.spadSize).foldl (· + ·) 0

/-- Bytes r to r + n - 1 of a gang region, whose first place is at `lo`, meet no place of a retired workgroup. -/
def regionLive : List (Nat × Wg) → Nat → Nat → Nat → Bool
  | [], _, _, _ => true
  | g :: gs, lo, r, n =>
    let hi := lo + g.2.spadSize
    !(g.2.retired && lo < hi && r < hi && lo < r + n) && regionLive gs hi r n

/-- Where byte r of a gang region lies in its core's SRAM: none past the region or in the place of a
retired workgroup. -/
def regionByte : List (Nat × Wg) → Nat → Option Nat
  | [], _ => none
  | g :: gs, r =>
    if r < g.2.spadSize then (if g.2.retired then none else some (sramKey g.2.core (g.2.spadBase + r)))
    else regionByte gs (r - g.2.spadSize)
/-- The place of a workgroup in its core's gang region (R261). -/
def regionOffset : List (Nat × Wg) → Nat → Nat
  | [], _ => 0
  | g :: gs, id => if g.1 = id then 0 else g.2.spadSize + regionOffset gs id

/-- The places of n logical bytes of the gang window (R257). DEDUCED, unsafe (log 78). -/
def State.windowKeys (s : State) (gangId lay ea n : Nat) : Option (List Nat) :=
  let g := s.gang gangId
  let c := bits ea 23 20
  let r := ea % 2 ^ 20
  if 2 ^ 24 ≤ ea ∨ g.w * g.h ≤ c then none
  else
    let core := g.coreAt c
    if s.regionSize gangId core < r + n then none
    else (List.range n).mapM fun i => regionByte (s.regionWgs gangId core) (layout lay (r + i))

/-- Addressable stack scratch of a context (R258). -/
def State.stackLimit (s : State) (ctx : Nat) : Nat :=
  let r := (s.ctxReg ctx 0x103).toNat
  32 * 2 ^ 20 * bits r 3 0 - 4 * 2 ^ 20 * bits r 7 4
def stackKey (die ctx off : Nat) : Nat := (die * 16 + ctx) * 2 ^ 28 + off

/-! ### Checks over the threads of a word (R252) -/

/-- The threads that fail a step raise its trap together, with the address of the lowest.
DEDUCED, unsafe (log 70). -/
def stepCheck (m : BitVec 8) (ok : Nat → Bool) (code : Nat) (addr : Nat → Nat) : R Unit :=
  let bad := mask8 fun t => m.getLsbD t && !ok t
  if bad = 0 then .ok () else .error (.trap { code := code, mask := bad, addr := addr (lowest bad) })

/-- A part of an access that one translation serves (R262, R272): its first address, where it lies, and its
bytes. -/
structure Piece where
  va : Nat
  x : Xl
  n : Nat
  deriving DecidableEq, Repr

/-- An access of n bytes is split at the first boundary of a unit that it crosses. -/
def partsOf (unit ea n : Nat) : List (Nat × Nat) :=
  let e := (ea / unit + 1) * unit
  if ea + n ≤ e then [(ea, n)] else [(ea, e - ea), (e % 2 ^ 64, ea + n - e)]

/-- The first bytes and lengths of the parts of a range that lie in one 64 KiB page each.
DEDUCED, unsafe (log 66). -/
def pageParts (va n : Nat) : List (Nat × Nat) :=
  (List.range (n / 65536 + 2)).filterMap fun i =>
    let lo := max va ((va / 65536 + i) * 65536)
    let hi := min (va + n) ((va / 65536 + i + 1) * 65536)
    if lo < hi then some (lo, hi - lo) else none

/-- Translation of every thread's parts (step 5): the first faulting part of the lowest faulting thread, its
cause, and the mask of all that fault (R272). DEDUCED, unsafe (log 70). -/
def State.xlPieces (s : State) (ctx : Nat) (m : BitVec 8) (k : Acc) (ps : Nat → List (Nat × Nat)) :
    R (Nat → List Piece) :=
  let fault := fun t => (ps t).findSome? fun p => match s.xl ctx p.1 k with
    | .error c => some (p.1, c)
    | .ok _ => none
  let bad := mask8 fun t => m.getLsbD t && (fault t).isSome
  match (if bad = 0 then none else fault (lowest bad)) with
  | some (a, c) => .error (.page a c bad)
  | none => .ok fun t => (ps t).filterMap fun p => match s.xl ctx p.1 k with
    | .ok x => some { va := p.1, x := x, n := p.2 }
    | .error _ => none

/-- One address a thread. -/
def State.xlAll (s : State) (ctx : Nat) (m : BitVec 8) (k : Acc) (va : Nat → Nat) : R (Nat → Xl) := do
  let p ← s.xlPieces ctx m k fun t => [(va t, 1)]
  .ok fun t => match p t with
    | [] => { loc := 0, pte := 0 }
    | x :: _ => x.x

/-- The feature checks of R471 on the pages an access reached. DEDUCED, unsafe (log 82). -/
def State.xlFeatures (s : State) (m : BitVec 8) (x : Nat → List Xl) : R Unit := do
  if (bitsOf m).any fun t => (x t).any fun y => y.isPeer || y.via then s.needs 7 else .ok ()
  if (bitsOf m).any fun t => (x t).any (·.isAp) then s.needs 9 else .ok ()

/-- A step of R252 over parts: the trap names the first failing part of the lowest failing thread.
DEDUCED, unsafe (log 70). -/
def pieceCheck (m : BitVec 8) (ps : Nat → List Piece) (ok : Piece → Bool) (code : Nat) : R Unit :=
  stepCheck m (fun t => (ps t).all ok) code fun t => match (ps t).find? fun p => !ok p with
    | some p => p.va
    | none => 0

/-- A read of a part touches memory with an unapplied partial of the launch (R307); through an Aperture, the
bytes of the surface that it reads. -/
def State.pieceHazard (s : State) (ctx launch : Nat) (p : Piece) : Bool :=
  match p.x.ap with
  | some (f, L) => (List.range p.n).any fun i => s.surfHazard ctx launch f (L + i)
  | none => s.hazard launch p.x.loc p.n

/-- Steps 5 to 7 of R252 for the parts of every thread's access. -/
def State.checkPieces (s : State) (ctx launch : Nat) (m : BitVec 8) (k : Acc) (ps : Nat → List (Nat × Nat)) :
    R (Nat → List Piece) := do
  let p ← s.xlPieces ctx m k ps
  s.xlFeatures m fun t => (p t).map (·.x)
  pieceCheck m p (fun q => k ≠ .write || !q.x.isAp) Code.apertureWrite
  pieceCheck m p (fun q => k ≠ .read || !s.pieceHazard ctx launch q) Code.detReadHazard
  .ok p

/-- The bytes of a part, through an L1 where one is named and may hold the page (R243, R291). -/
def State.readPiece (s : State) (ctx : Nat) (l1 : Option Nat) (p : Piece) : Except Fail (List Byte) :=
  (List.range p.n).mapM fun i => match p.x.ap with
    | some (f, L) => s.apByte ctx (p.va + i) f (L + i)
    | none =>
      let a := p.x.loc + i
      if s.badByte a then .error (.data (some a))
      else match l1 with
        | some c => if p.x.nc || p.x.isPeer then .ok (getB s.mem.bytes a) else .ok (s.seen c a)
        | none => .ok (getB s.mem.bytes a)
def State.readPieces (s : State) (ctx : Nat) (l1 : Option Nat) (ps : List Piece) : Except Fail (List Byte) := do
  .ok (← ps.mapM (s.readPiece ctx l1)).flatten

/-- The decompressed bytes that a read through an Aperture leaves, and writes of a link known to have been performed. -/
def State.afterAp (s : State) (ctx : Nat) (p : Piece) (f : Surf) (L : Nat) : State :=
  (List.range p.n).foldl (fun s i =>
    ((s.surfLocs ctx f (L + i)).foldl (fun s l => s.touch l 1) s).holdAp ctx (p.va + i) f (L + i)) s

/-- What a read leaves in the caches: the lines of an L1, or the decompressed bytes of an Aperture; a read at
the point of coherence brings the core's lines up to date, each whole (R277, R278). -/
def State.afterRead (s : State) (ctx core : Nat) (l1 : Bool) (p : Piece) : State :=
  match p.x.ap with
  | some (f, L) => s.afterAp ctx p f L
  | none =>
    let s := (s.touch p.x.loc p.n).corrected 3 p.x.loc p.n
    if p.x.nc || p.x.isPeer then s
    else if l1 then
      let s := s.holdLine core p.x.loc
      if (p.x.loc + p.n - 1) / 128 = p.x.loc / 128 then s else s.holdLine core (p.x.loc + p.n - 1)
    else { s with mem := s.mem.refresh (· == core) (p.x.loc / 128 * 128) ((p.x.loc % 128 + p.n + 127) / 128 * 128) }

/-- What the read of an engine that passes the L1 leaves: decompressed bytes of an Aperture. -/
def State.afterEngine (s : State) (ctx : Nat) (p : Piece) : State :=
  match p.x.ap with
  | some (f, L) => s.afterAp ctx p f L
  | none => (s.touch p.x.loc p.n).corrected 3 p.x.loc p.n

/-- Hold the translations the word used. -/
def State.fillAll (s : State) (ctx : Nat) (m : BitVec 8) (va : Nat → Nat) : State :=
  eachT m s fun s t => s.fillTlb ctx (va t)

/-- The context of the issuing beam. -/
def State.cctx (s : State) : Nat := s.cl.ctx
/-- The issuing beam as a writer of a page. -/
def State.agentOf (s : State) (x : Xl) : Agent := { core := some s.cc, ctx := some s.cctx, nc := x.nc || x.isPeer, rcd := x.rcd }
/-- An engine of the issuing core as a writer of a page (R287). -/
def State.engineOf (s : State) (x : Xl) : Agent := { engine := some s.cc, ctx := some s.cctx, nc := x.nc || x.isPeer, rcd := x.rcd }
/-- The die of the issuing core. -/
def State.cdie (s : State) : Nat := s.cc % 32 / 16

/-- An arbitrary order of a list, chosen by free values: which of racing writers comes last is open
(R251, R275). DESIGN CHOICE, safe (log 11). -/
def State.shuffle {α : Type} (s : State) (l : List α) : Nat → List α × State
  | 0 => (l, s)
  | n + 1 =>
    match l with
    | [] => ([], s)
    | _ =>
      let (r, s) := s.draw
      let i := r % l.length
      match l[i]? with
      | none => (l, s)
      | some x =>
        let (rest, s) := s.shuffle (l.eraseIdx i) n
        (x :: rest, s)

end Sys2Proof.Machine
end

