-- ==== Sys2Proof/Machine/Clause.lean ====
section
/-! DEFINITION. Fetching clauses (R59 to R61), checking and starting them (R28 to R33, R36), choosing
a beam on a lane (R142), and where a beam goes after a word. -/

namespace Sys2Proof.Machine

/-! ### What a clause header says (R28, R29) -/

/-- The header fields are legal: kind 0 to 2, flags 0 to 11 or 15, reserved bits 0; prs 0 in a
uniform-only clause; a padding clause names nothing. -/
def headerOk (h : Nat) : Bool :=
  let fl := fun x => x ≤ 11 || x == 15
  bits h 63 60 ≤ 2 && bits h 29 0 == 0 && fl (bits h 39 36) && fl (bits h 35 32)
    && (bits h 63 60 ≠ 1 || !bit h 30)
    && (bits h 63 60 ≠ 2 || (bits h 59 56 == 0 && bits h 51 40 == 0 && bits h 39 36 == 15 && bits h 35 32 == 15 && bits h 31 30 == 0))

/-- The engine class of a major opcode, as a bit of the mask: V, M, X, T (R24, R30). -/
def engOf (op : Nat) : Nat :=
  if op < 0x90 then 0 else if op < 0xA0 then 2 else if op < 0xC8 then 1 else 3

/-- The clause-ending opcodes (R32). -/
def clauseEnding (op : Nat) : Bool :=
  (0x02 ≤ op && op ≤ 0x0E) || [0xC9, 0xCB, 0xCA, 0xD2, 0xD4, 0xBA, 0xE8, 0xE9, 0xEC].contains op

/-- Opcodes that carry the uniform mark (R62). -/
def uniformOp (op : Nat) : Bool :=
  op == 0x01 || (0x06 ≤ op && op ≤ 0x0A) || (0x0C ≤ op && op ≤ 0x0E) || (0x10 ≤ op && op ≤ 0x18)
    || (0x20 ≤ op && op ≤ 0x4B) || (0x50 ≤ op && op ≤ 0x63) || op == 0x70 || op == 0x71
    || (0x74 ≤ op && op ≤ 0x76) || op == 0x80

/-- The register that an unguarded control word reads is a k register: that of JMPI, CALLI, RET and the counting LOOP
(R150); that a pair begins at an even one is tested at issue. -/
def uniformCtl (op w : Nat) : Bool :=
  if op = 0x07 ∨ op = 0x09 ∨ op = 0x0A then bit w 25
  else if op = 0x0C then !bit w 0 || bit w 25
  else true

/-- The destination field is in a predicate position: PSET to PNOT, PMOV in mode 0, a VOTE that answers true or false,
ELECT without its register kind (R161 to R164). -/
def predField (op w : Nat) : Bool :=
  (0x10 ≤ op && op ≤ 0x14) || (op == 0x15 && bits w 1 0 == 0) || (op == 0x16 && bits w 5 3 ≤ 2) || (op == 0x17 && !bit w 0)

/-- A word that is uniform-eligible (R63): a control word is unguarded and reads no thread register; another names a
k register as its destination, or in a predicate position kp0 to kp3 (R65). -/
def uniformWord (w : Nat) : Bool :=
  let op := bits w 62 55
  uniformOp op &&
    if op ≤ 0x0E then bits w 54 51 == 7 && uniformCtl op w
    else if predField op w then bits w 49 45 == 16
    else bit w 49

/-- A word passed over by the checks: its major or compact opcode is unallocated (R31). -/
def passedOver (w : W64) : Bool :=
  if w.getLsbD 63 then (parseHalf (w.extractLsb' 32 31)).isNone || (parseHalf (w.extractLsb' 0 31)).isNone
  else unallocated (w.extractLsb' 55 8).toNat

/-- Whether a word breaks R29, R30 or R32 at its position. -/
def badWord (h : Nat) (w : W64) (last : Bool) : Bool :=
  !passedOver w &&
    if w.getLsbD 63 then !bit h 56 || !bit h 30 || bits h 63 60 == 1
    else
      let op := (w.extractLsb' 55 8).toNat
      !bit h (56 + engOf op) || (bits h 63 60 == 1 && !uniformWord w.toNat) || (clauseEnding op && !last)

/-- The position of the first failure of a clause's words (R31): 1 + i for the word at index i. -/
def badPos (h : Nat) (ws : List W64) : Option Nat :=
  (((List.range ws.length).find? fun i => badWord h (ws.getD i 0) (i + 1 == ws.length)).map fun i => i + 1)

/-! ### Fetch -/

/-- The cores that the fetch agent of a core's die writes a line into (R60): those of its die with a workgroup,
not yet retired, of a context and one of the code objects that the core runs for it. -/
def State.fetchGroup (s : State) (core ctx : Nat) : List Nat :=
  let runs := fun (c : Nat) => s.wgs.filterMap fun g =>
    if g.2.core = c ∧ !g.2.retired ∧ (s.launch g.2.launch).ctx = ctx then some (s.launch g.2.launch).lrec.code else none
  let mine := runs core
  (((s.wgs.map fun g => g.2.core).eraseDups).filter fun c =>
    c ≠ core && c % 32 / 16 == core % 32 / 16 && (runs c).any mine.contains) ++ [core]

/-- A line comes into a core's instruction cache, in place of a copy it had; the least recently used line goes
when 512 are held (R59, R60). DEDUCED, unsafe (log 18). -/
def Mem.putLine (m : Mem) (core ctx line : Nat) (bs : List Byte) : Mem :=
  let l := m.icache.filter fun x => !(x.1 == core * 16 + ctx && x.2.1 == line)
  let l := if 512 ≤ (l.filter fun x => x.1 / 16 == core).length then l.eraseP fun x => x.1 / 16 == core else l
  { m with icache := l ++ [(core * 16 + ctx, line, bs)] }

/-- In place of a cause: the fetch reached a PEER page while the feature is disabled. -/
def noPeer : Nat := 256

/-- A line of instructions is fetched once and written into the cache of every core of the group (R60). On a PEER page
it needs the feature (R471), which ends the launch. DEDUCED, unsafe (log 18). DEDUCED, unsafe (log 19). -/
def State.fetchLine (s : State) (core ctx line : Nat) : Except (Nat × Nat) State :=
  match s.vread ctx (128 * line) .fetch 128 with
  | .error (_, c) => .error (128 * line, c)
  | .ok bs =>
    if s.onPeer ctx (128 * line) .fetch && !s.enabled 7 then .error (128 * line, noPeer)
    else
    let s := s.fillTlb ctx (128 * line)
    .ok { s with mem := (s.fetchGroup core ctx).foldl (fun m c => m.putLine c ctx line bs) s.mem }

/-- A core needs an instruction line: one that it holds is used as it stands (R61), and becomes the most
recently used. -/
def State.fillLine (s : State) (core ctx line : Nat) : Except (Nat × Nat) State :=
  match s.mem.icache.find? fun x => x.1 == core * 16 + ctx && x.2.1 == line with
  | some x => .ok { s with mem := { s.mem with icache := (s.mem.icache.erase x) ++ [x] } }
  | none => s.fetchLine core ctx line

/-- The word at an address of a line that is held. -/
def State.lineWord (s : State) (core ctx a : Nat) : W64 :=
  match s.mem.icache.find? fun x => x.1 == core * 16 + ctx && x.2.1 == a / 128 with
  | some (_, _, bs) => wordOfBytes ((bs.drop (a % 128)).take 8)
  | none => 0

/-- Fetch n consecutive words from an address, a multiple of 8. One that fails reports the first byte
needed of its line, since R59 names only the header. DESIGN CHOICE, unsafe (log 122). -/
def State.fetchWords (s : State) (core ctx : Nat) : Nat → Nat → Except (Nat × Nat) (List W64 × State)
  | _, 0 => .ok ([], s)
  | a, n + 1 =>
    match s.fillLine core ctx (a / 128) with
    | .error (l, c) => .error (max l a, c)
    | .ok s =>
      match s.fetchWords core ctx (a + 8) n with
      | .error e => .error e
      | .ok (ws, s) => .ok (s.lineWord core ctx a :: ws, s)

/-- The context a beam runs in. -/
def State.bctx (s : State) (bk : Nat) : Nat := (s.launch (s.wg (s.beam bk).wg).launch).ctx

/-- A beam's clause: header and words; of a padding clause every line is fetched, and the header alone is
used. A header that is not legal says nothing of later words, so its own line is all that is needed.
DEDUCED, unsafe (log 99). -/
def State.fetchClause (s : State) (bk : Nat) : Except (Nat × Nat) (List W64 × State) :=
  let b := s.beam bk
  match s.fetchWords (coreOf bk) (s.bctx bk) b.pc.toNat 1 with
  | .error e => .error e
  | .ok (hs, s) =>
    let h := (hs.headD 0).toNat
    if headerOk h then
      match s.fetchWords (coreOf bk) (s.bctx bk) (b.pc.toNat + 8) (bits h 55 52 + 1) with
      | .error e => .error e
      | .ok (ws, s) => .ok (if bits h 63 60 = 2 then hs else hs ++ ws, s)
    else .ok (hs, s)

/-! ### Starting a clause (R31, R33, R36) -/

/-- Whether the accumulator memory is free for a beam's gang (R30, R224). -/
def State.accFree (s : State) (bk : Nat) : Bool :=
  match (s.core (coreOf bk)).accHold with
  | none => true
  | some g => g == (s.wg (s.beam bk).wg).gang

/-- The counters of a wait field read zero, and the accumulator memory is free if the X bit asks for it. -/
def State.mayStart (s : State) (bk h : Nat) : Bool :=
  ((List.range 12).all fun i => !bit h (40 + i) || (s.beam bk).getCtr i == 0) && (!bit h 58 || s.accFree bk)

/-- The header of a beam's next clause, where it can be read. -/
def State.peekHeader (s : State) (bk : Nat) : Option Nat :=
  let a := (s.beam bk).pc.toNat
  if (s.mem.icache.any fun x => x.1 == coreOf bk * 16 + s.bctx bk && x.2.1 == a / 128) then
    some (s.lineWord (coreOf bk) (s.bctx bk) a).toNat
  else match s.vread (s.bctx bk) a .fetch 8 with
    | .ok bs => some (natOfBytes bs)
    | .error _ => none

/-- The beam may issue on its lane: its next clause may start, or the clause it is inside may have the accumulator
memory that it asks for. A header that cannot be read, or is not legal, holds nothing back: it faults or traps
when the clause starts. DEDUCED, unsafe (log 81). -/
def State.clauseReady (s : State) (bk : Nat) : Bool :=
  let b := s.beam bk
  if b.mid then b.buf = [] || !bit (b.buf.headD 0).toNat 58 || s.accFree bk
  else match s.peekHeader bk with
    | none => true
    | some h => !headerOk h || s.mayStart bk h

/-- A beam that is to go on at its position is READY, or WAITING for its next clause (R134). One that runs its
trap handler stays ISSUING while its next clause may start, until its lane chooses another beam.
DEDUCED, unsafe (log 106). -/
def State.gate (s : State) (bk : Nat) : State :=
  let ok := s.clauseReady bk
  s.modBeam bk fun b =>
    if b.hmode && b.st = .issuing && ok then { b with wait := .none }
    else if ok then { b with st := .ready, wait := .none }
    else { b with st := .waiting, wait := .clause }

/-! ### After a word -/

/-- Where the beam goes after a word. -/
inductive Flow where
  /-- the next word, or the fall-through clause after the last -/
  | next
  | goto (a : W64)
  /-- the word stays: the beam's state has been set by the word -/
  | stay
  deriving DecidableEq, Repr

/-- A beam at the header of a clause it has yet to start. -/
def Beam.goTo (b : Beam) (a : W64) : Beam := { b with pc := a, pos := 0, mid := false, buf := [], wait := .none, passed := 0 }

/-- The clause ends and the beam continues at a clause address, READY or WAITING (R134). A clause with swh set
asks its lane for another beam (R37). -/
def State.endClause (s : State) (bk : Nat) (a : W64) : State :=
  let b := s.beam bk
  let swh := bit (b.buf.headD 0).toNat 31
  let s := match b.lane with
    | some l => if swh then s.modCore (coreOf bk) fun c =>
        let x := (look c.lanes l).getD {}
        { c with lanes := put c.lanes l { x with switch := true } } else s
    | none => s
  let s := s.modBeam bk fun b => b.goTo a
  if (s.beam bk).st = .issuing then s.gate bk else s

/-- Move on after a word. -/
def State.flow (s : State) (f : Flow) : State :=
  let b := s.cb
  match f with
  | .next =>
    if b.pos + 1 < b.count then s.modCb fun b => { b with pos := b.pos + 1, wait := .none }
    else s.endClause s.sched.cur b.fall
  | .goto a => s.endClause s.sched.cur a
  | .stay => s

/-- Take the accumulator hold for the beam's gang: every tile word, status field and dcnt becomes
zero (R224). -/
def State.takeAcc (s : State) (bk : Nat) : State :=
  if (s.core (coreOf bk)).accHold.isNone then
    s.modCore (coreOf bk) fun c => { c with accHold := some (s.wg (s.beam bk).wg).gang, acc := [], tiles := [] }
  else s

/-- ILLEGAL_CLAUSE at the clause header, with the position of the failure (R31). -/
def illegalClause (pos : Nat) : TrapInfo := { code := Code.illegalClause, d0 := pos }

/-- A fetch that failed: a translation fault (R149), or a disabled feature (R393). -/
def State.fetchFailed (s : State) (bk a c : Nat) : State :=
  if c = noPeer then s.launchTrap (s.wg (s.beam bk).wg).launch Code.featureDisabled 7
  else s.pageFault bk a c (s.beam bk).active

/-- A selected beam starts its next clause: fetch, the header's checks, the deferred records of the waited
counters, the checks of the words, the accumulator hold. A padding clause is skipped. A beam whose clause may
not start after all is WAITING (R33, R134, R224). DEDUCED, unsafe (log 98). -/
def State.startClause (s : State) (bk : Nat) : State :=
  match s.fetchClause bk with
  | .error (a, c) => s.fetchFailed bk a c
  | .ok (cl, s) =>
    let b := s.beam bk
    let h := (cl.headD 0).toNat
    if b.pc.toNat % 8 ≠ 0 || !headerOk h then s.takeTrap bk (illegalClause 0) b.pc 0
    else if !s.mayStart bk h then s.modBeam bk fun b => { b with st := .waiting, wait := .clause }
    else match b.raisable (BitVec.ofNat 12 (bits h 51 40)) with
      | some (c, r) => s.takeRec bk c r b.pc 0
      | none =>
        match badPos h (cl.drop 1) with
        | some p => s.takeTrap bk (illegalClause p) b.pc 0
        | none =>
          let s := s.modBeam bk fun b => { b with st := .issuing, wait := .none, mid := true, pos := 0, buf := cl }
          if bits h 63 60 = 2 then s.endClause bk (s.beam bk).fall
          else if bit h 58 then s.takeAcc bk else s

/-- Refetch the clause of a beam that resumes inside it (R39): the wait field is not tested again, and the checks of
R31 are. DEDUCED, unsafe (log 100). -/
def State.refetch (s : State) (bk : Nat) : State :=
  match s.fetchClause bk with
  | .error (a, c) => s.fetchFailed bk a c
  | .ok (cl, s) =>
    let b := s.beam bk
    let h := (cl.headD 0).toNat
    if b.pc.toNat % 8 ≠ 0 || !headerOk h then s.takeTrap bk (illegalClause 0) b.pc 0
    else match badPos h (cl.drop 1) with
      | some p => s.takeTrap bk (illegalClause p) b.pc 0
      | none =>
        let s := s.modBeam bk fun b => { b with buf := cl, mid := true }
        if bits h 63 60 = 2 || (s.beam bk).count ≤ b.pos then s.endClause bk (s.beam bk).fall
        else if bit h 58 && !s.accFree bk then s.modBeam bk fun b => { b with st := .waiting, wait := .clause }
        else if bit h 58 then s.takeAcc bk else s

/-! ### Issuing a word -/

/-- Issue a word of the current beam: nothing happens when no beam is issuing; otherwise the word's
effect and where the beam goes, or what stopped it. -/
def issueTo (s : State) (f : State → R (State × Flow)) : Host.Outcome State Fault Refusal :=
  match look s.beams s.sched.cur with
  | none => .next s
  | some b =>
    if b.st = .issuing then
      match f s with
      | .ok (s', fl) => .next (s'.flow fl)
      | .error e => s.stop e
    else .next s

/-- A word that goes on to the next one. -/
def issue (s : State) (f : State → R State) : Host.Outcome State Fault Refusal :=
  issueTo s fun s => (f s).map fun s' => (s', .next)

/-! ### The lane scheduler (R142) -/

/-- An ISSUING beam between its clauses, as in its handler: its lane may choose another one (R142).
DEDUCED, unsafe (log 106). -/
def Beam.between (b : Beam) : Bool := b.st == .issuing && !b.mid
/-- The beams of a lane that may issue: READY ones, and one between its clauses. -/
def State.readyOn (s : State) (core lane : Nat) : List (Nat × Beam) :=
  s.beams.filter fun x => coreOf x.1 == core && x.2.lane == some lane && (x.2.st == .ready || x.2.between) && s.clauseReady x.1

/-- The older of two beams: by age, then by slot. -/
def older (x y : Nat × Beam) : Bool := x.2.age < y.2.age || (x.2.age == y.2.age && x.1 < y.1)
def oldest (l : List (Nat × Beam)) : Option (Nat × Beam) :=
  l.foldl (fun m x => match m with
    | none => some x
    | some y => if older x y then some x else some y) none

/-- Why the scheduler chose a beam. -/
inductive Pick where
  | plain | forced | overdue
  deriving DecidableEq, Repr

/-- The choice of R142 on a lane with no beam inside a clause. -/
def State.pick (s : State) (core lane : Nat) : Option (Nat × Pick) :=
  let rs := s.readyOn core lane
  let ln := (look (s.core core).lanes lane).getD {}
  if s.beams.any fun x => coreOf x.1 == core && x.2.lane == some lane && x.2.st == .issuing && !x.2.between then none
  else
    let od := rs.filter fun x => 64 ≤ x.2.passed
    let most := od.foldl (fun n x => max n x.2.passed) 0
    match oldest (od.filter fun x => x.2.passed == most) with
    | some x => some (x.1, .overdue)
    | none =>
      let cur := rs.find? fun x => ln.cur == some x.2.uid
      let other := oldest (rs.filter fun x => ln.cur ≠ some x.2.uid)
      match cur, other with
      | some c, some o => if 64 ≤ ln.row then some (o.1, .forced) else if ln.switch then some (o.1, .plain) else some (c.1, .plain)
      | some c, none => some (c.1, .plain)
      | none, some o => some (o.1, .plain)
      | none, none => none

/-- Start a clause of a beam on its lane: the counts of R142 move, and the beam issues from here on. A word that
waited inside its clause issues again in the same way. DEDUCED, unsafe (log 103). -/
def State.startOn (s : State) (core lane bk : Nat) : State :=
  let others := (s.readyOn core lane).any fun x => x.1 ≠ bk
  let yielded := fun (x : Nat × Beam) =>
    if coreOf x.1 == core && x.2.lane == some lane && x.2.between && x.1 ≠ bk then (x.1, { x.2 with st := .ready }) else x
  let s := { s with beams := s.beams.map yielded }
  let count := fun (x : Nat × Beam) =>
    if coreOf x.1 == core && x.2.lane == some lane && x.2.st == .ready && x.1 ≠ bk then (x.1, { x.2 with passed := x.2.passed + 1 })
    else x
  let s := { s with beams := s.beams.map count }
  let id := (s.beam bk).uid
  let s := s.modCore core fun c =>
    let ln := (look c.lanes lane).getD {}
    let row := (if ln.cur = some id then ln.row else 0) + (if others then 1 else 0)
    { c with lanes := put c.lanes lane { cur := some id, row := row, switch := false, last := s.sched.turns } }
  let b : Beam := s.beam bk
  let s := s.modBeam bk fun b => { b with st := .issuing, passed := 0 }
  let s := { s with sched := { s.sched with cur := bk } }
  if !b.mid then s.startClause bk
  else if b.buf = [] then s.refetch bk
  else if bit (b.buf.headD 0).toNat 58 then s.takeAcc bk else s

/-- A beam that is ISSUING between its clauses, as inside its handler (R134), goes on: the lane makes its choice as at the
end of every clause (R142), and another beam may come first. -/
def State.startNext (s : State) : State :=
  let s := s.gate s.sched.cur
  match s.cb.lane with
  | some l => match s.pick s.cc l with
    | some (bk, _) => s.startOn s.cc l bk
    | none => s
  | none => s.startClause s.sched.cur

/-- A turn of a lane whose choice is of this kind (any kind, when none is named). -/
def laneTurn (kind : Option Pick) (s : State) : Option State :=
  let core := s.sched.arg.a
  let lane := s.sched.arg.b
  match s.pick core lane with
  | some (bk, k) => if kind = none || kind = some k then some (s.startOn core lane bk) else none
  | none => none

/-- CLAUSE_START (R33, R142): the lane's choice starts its next clause. -/
def execClauseStart (s : State) : Host.Outcome State Fault Refusal := event s (laneTurn none)
/-- FORCED_SWITCH (R142). -/
def execForcedSwitch (s : State) : Host.Outcome State Fault Refusal := event s (laneTurn (some .forced))
/-- OVERDUE_BEAM (R142). -/
def execOverdueBeam (s : State) : Host.Outcome State Fault Refusal := event s (laneTurn (some .overdue))

/-- HANDLER_ENTRY (R396): a beam with a rendezvous trap enters its handler. -/
def handlerEntry (s : State) : Option State :=
  let bk := s.sched.arg.a
  match (look s.beams bk).bind (·.pend) with
  | some t =>
    let b := s.beam bk
    if b.st = .halted then none
    else
      let s := s.modBeam bk fun b => { b with pend := none }
      let s := s.takeTrap bk t b.pc b.pos
      some (if (s.beam bk).st = .ready then s.gate bk else s)
  | none => none
def execHandlerEntry (s : State) : Host.Outcome State Fault Refusal := event s handlerEntry

/-- INSTRUCTION_LINE_FILL (R59, R60): a line reaches the instruction caches of a core and its group; a fetch that
is not for a starting clause raises no fault (R149). DEDUCED, unsafe (log 18). -/
def lineFill (s : State) : Option State :=
  match s.fetchLine s.sched.arg.a s.sched.arg.b s.sched.arg.c with
  | .ok s => some s
  | .error _ => none
def execInstructionLineFill (s : State) : Host.Outcome State Fault Refusal := event s lineFill

end Sys2Proof.Machine
end

