-- ==== Sys2Proof/Machine/Access.lean ====
section
/-! DEFINITION. The loads and stores of chapter 11 (R249 to R262). An access is performed when its word
issues; a load's registers are written when its counter falls. -/

namespace Sys2Proof

open Machine

/-- The tag of a result of type ty (R111), as 32-bit or packed elements. -/
def Ty.tag : Ty → BitVec 4
  | .f32 => 8
  | .s32 | .n32 => 9
  | .bf16 => 10
  | .f16 => 11
  | .nq4 | .cbi => 12
  | .s16 | .n16 => 13
  | .s8 | .n8 => 14
  | _ => 15

/-- The bytes a thread moves (R250). -/
def MF.bytes (f : MF) : Nat :=
  if f.V then (if f.ty = .b128 then 16 else 32)
  else if f.ty = .nq4 || f.ty = .cbi then 4 else f.ty.width / 8

/-- The tag a load writes (R250): scalar 8-bit and 16-bit integers load as 32-bit integers. -/
def MF.loadTag (f : MF) : BitVec 4 :=
  if f.V then Ty.tag f.ty
  else match f.ty with
    | .s8 | .n8 | .s16 | .n16 => 9
    | t => Ty.tag t

/-- A pair register form (R250). -/
def MF.isPair (f : MF) : Bool := !f.V && f.ty.width == 64

/-- The value a load puts into its register: sign- or zero-extended (R250). Loads keep source bits (R87), those above an
FP6 element too, of which R89 has other writers make zeros. DEDUCED, unsafe (log 117). -/
def MF.fill (f : MF) (bs : List Byte) : Nat :=
  let x := natOfBytes bs
  if !f.V && (f.ty = .s8 || f.ty = .s16) then wrap 32 (sext f.ty.width x) else x

/-- Groups of LDP6 and STP6 that a thread moves (R262). -/
def MF.groups (f : MF) : Nat := if f.V then 8 else 1

end Sys2Proof

namespace Sys2Proof.Machine

/-- The alignment of an access (R252 step 3). -/
def alignOf (n : Nat) : Nat := if n = 32 then 16 else n

/-- The address spaces of chapter 11. -/
inductive Space where
  | mem | spad | window | stack | const
  deriving DecidableEq, Repr

/-- Where a thread's access lies. -/
inductive Spot where
  | mem (ps : List Piece)
  | sram (keys : List Nat)
  | stack (key : Nat)
  deriving DecidableEq, Repr

/-- The value of an address register field, pair or single, of thread t. -/
def State.addrOf (s : State) (a : RF) (pair : Bool) (t : Nat) : Nat :=
  match a with
  | .k n => if pair then s.cb.kPair n.toNat else (s.cb.getK n.toNat).toNat
  | .t n => if pair then (s.th t).sPair n.toNat else ((s.th t).getS n.toNat).toNat

/-- EA(t): the pair plus the signed offset modulo 2^64, or the offset register plus it modulo 2^32. -/
def State.ea (s : State) (f : MF) (sp : Space) (t : Nat) : Nat :=
  match sp with
  | .mem => wrap 64 ((s.addrOf f.a true t : Nat) + f.off.toInt)
  | _ => wrap 32 ((s.addrOf f.a false t : Nat) + f.off.toInt)

/-- The virtual address of an access: LDC adds the constant section (R259). -/
def State.vaOf (s : State) (f : MF) (sp : Space) (t : Nat) : Nat :=
  match sp with
  | .const => s.cl.lrec.code + s.cl.obj.cstoff + s.ea f .const t
  | _ => s.ea f sp t

/-- Step 4 of R252. -/
def State.inBounds (s : State) (f : MF) (sp : Space) (n t : Nat) : Bool :=
  let ea := s.ea f sp t
  match sp with
  | .mem => true
  | .spad => ea + n ≤ s.spadLimit
  | .window => (s.windowKeys s.cwg.gang f.lay ea n).isSome
  | .stack => ea + n ≤ s.stackLimit s.cctx
  | .const => ea + n ≤ s.cl.obj.cstsz

/-- Register budget of the address and data fields (step 2). -/
def State.budgetM (s : State) (f : MF) (sp : Space) : R Unit := do
  s.sSpan f.a (if sp = .mem then 2 else 1)
  if f.V then s.vIn f.d else s.sSpan f.d (if f.isPair then 2 else 1)

/-- Steps 3 to 7 of R252 for the threads of a mask: where each access lies. An access that runs past its 64 KiB
page is translated for each of its pages. DEDUCED, unsafe (log 70). -/
def State.resolve (s : State) (f : MF) (sp : Space) (k : Acc) (m : BitVec 8) (n : Nat) : R (Nat → Spot) := do
  stepCheck m (fun t => s.ea f sp t % alignOf n == 0) Code.misaligned (s.ea f sp)
  stepCheck m (s.inBounds f sp n) (if sp = .const then Code.constBounds else Code.scratchBounds) (s.ea f sp)
  match sp with
  | .spad => .ok fun t => .sram (s.spadKeys f.lay (s.ea f sp t) n)
  | .window => .ok fun t => .sram ((s.windowKeys s.cwg.gang f.lay (s.ea f sp t) n).getD [])
  | .stack => .ok fun t => .stack (stackKey s.cdie s.cctx (s.ea f sp t))
  | _ => do
    let p ← s.checkPieces s.cctx s.cwg.launch m k fun t => partsOf 65536 (s.vaOf f sp t) n
    .ok fun t => .mem (p t)

/-- What is known of an access before any thread takes part: the budget, step 2 of R252 (R130), and the feature it
needs (R393). -/
def State.mayAccess (s : State) (f : MF) (sp : Space) : R Unit := do
  if sp = .stack then s.needs 8 else .ok ()
  s.budgetM f sp

/-- The L1 a load may be served from: none with .nol1, or an acquire at .gang or wider (R283, R291). -/
def State.l1For (s : State) (o : Order) (ch : BitVec 2) : Option Nat :=
  match o.acqAt with
  | none | some .beam | some .wg => if ch = 3 then none else some s.cc
  | some _ => none

/-- The bytes a thread reads, or why it cannot (R253, R271). -/
def State.readPlace (s : State) (l1 : Option Nat) (p : Spot) (n : Nat) : Except Fail (List Byte) :=
  match p with
  | .sram ks => if ks.any s.struckS then .error (.data none) else .ok (ks.map (getB s.mem.scratch))
  | .stack k => if (List.range n).any fun i => s.struckK (k + i) then .error (.data none) else .ok (getBs s.mem.stack k n)
  | .mem ps => s.readPieces s.cctx l1 ps

/-- The threads of a mask whose reads have no answer, because a translation inside the stored form of a surface
faults (R271): the fault of the lowest. A page there that needs a disabled feature ends the launch (R393, R471). -/
def pagesOk {α : Type} (m : BitVec 8) (d : Nat → Except Fail α) : R Unit :=
  let off := (bitsOf m).findSome? fun t => match d t with
    | .error (.feature n) => some n
    | _ => none
  let bad := mask8 fun t => m.getLsbD t && (match d t with
    | .error (.page _ _) => true
    | _ => false)
  if bad = 0 then (match off with
    | some n => .error (.trap { code := Code.featureDisabled, feature := n })
    | none => .ok ())
  else match d (lowest bad) with
    | .error (.page a c) => .error (.page a c bad)
    | _ => .error .stall

/-- The threads of a mask that met uncorrectable data (R253). -/
def dataLost {α : Type} (m : BitVec 8) (d : Nat → Except Fail α) : List Nat :=
  (bitsOf m).filter fun t => match d t with
    | .error (.data _) => true
    | _ => false

/-- The record of an access whose threads met errors (R253, R303): the address of the lowest thread's access, not of
the bad sector. DESIGN CHOICE, unsafe (log 120). -/
def lostFault (bad : List Nat) (va : Nat → Nat) : Option FaultRec :=
  match bad with
  | [] => none
  | t :: _ => some { code := Code.memoryDataError, addr := va t, mask := mask8 fun t => bad.contains t }

/-- Errors of the array are counted, a codeword once (R454). -/
def State.countLost {α : Type} (s : State) (bad : List Nat) (d : Nat → Except Fail α) : State :=
  s.countUes (bad.filterMap fun t => match d t with
    | .error (.data l) => l
    | _ => none)

/-- The address that MEMORY_DATA_ERROR names for a read: EA(t), or the first byte of the part that met the error
(R262); not that of the bad sector. DESIGN CHOICE, unsafe (log 120). -/
def State.lostVa (s : State) (l1 : Option Nat) (p : Spot) (ea : Nat) : Nat :=
  match p with
  | .mem ps => ((ps.find? fun q => match s.readPiece s.cctx l1 q with
    | .ok _ => false
    | .error _ => true).map (·.va)).getD ea
  | _ => ea

/-- What the reads of a mask leave in the caches. -/
def State.cacheReads (s : State) (l1 : Bool) (m : BitVec 8) (p : Nat → Spot) : State :=
  eachT m s fun s t => match p t with
    | .mem ps => ps.foldl (fun s q => s.afterRead s.cctx s.cc l1 q) s
    | _ => s

/-- A place in memory as locations and lengths. -/
def Spot.ranges (p : Spot) : List (Nat × Nat) :=
  match p with
  | .mem ps => ps.map fun q => (q.x.loc, q.n)
  | _ => []
/-- Bytes that an access reads or writes, with the address an error of theirs names. -/
structure Run where
  va : Nat
  loc : Nat
  n : Nat
  deriving DecidableEq, Repr
/-- What a part takes in: its bytes, or through an Aperture those of the stored form (R264). -/
def State.runsOf (s : State) (ctx : Nat) (q : Piece) : List Run :=
  match q.x.ap with
  | some (f, L) => (((List.range q.n).flatMap fun i => s.surfLocs ctx f (L + i)).eraseDups).map fun l => { va := q.va, loc := l, n := 1 }
  | none => [{ va := q.va, loc := q.x.loc, n := q.n }]
def State.spotRuns (s : State) (p : Spot) : List Run :=
  match p with
  | .mem ps => ps.flatMap (s.runsOf s.cctx)
  | _ => []
/-- The addresses of its parts. -/
def Spot.addrs (p : Spot) : List Nat :=
  match p with
  | .mem ps => ps.map (·.va)
  | _ => []
/-- What stands at the places of a mask in memory, by location. -/
def State.found (s : State) (m : BitVec 8) (p : Nat → Spot) : List (Nat × Byte) :=
  (bitsOf m).flatMap fun t => (p t).ranges.flatMap fun r =>
    (List.range r.2).map fun i => (r.1 + i, getB s.mem.bytes (r.1 + i))
/-- Hold the translations of every part. -/
def State.fillSpots (s : State) (m : BitVec 8) (p : Nat → Spot) : State :=
  eachT m s fun s t => (p t).addrs.foldl (fun s a => s.fillTlb s.cctx a) s

/-- A parked beam watches the word of a byte: it sees a write there at once, so the write has been performed (R277).
DESIGN CHOICE, unsafe (log 57). -/
def State.watchedByte (s : State) (loc : Nat) : Bool := s.beams.any fun x => match x.2.wait with
  | .mword l _ _ => l / 4 == loc / 4
  | .aword _ _ _ _ => true
  | _ => false

/-- When an operation whose bytes lie on a peer or on the host may complete: a request for each range of each thread, on
the state before its writes. -/
def State.condOf (s : State) (writes : Bool) (m : BitVec 8) (runs : Nat → List Run) : OpCond :=
  let rs := (bitsOf m).flatMap fun t => ((runs t).filter fun p => isPeer p.loc || isHost p.loc).map fun p =>
    ({ peer := isPeer p.loc, va := p.va, mask := setBit 0 t true,
       undo := if writes then ((List.range p.n).filter fun i => !s.watchedByte (p.loc + i)).map fun i => (p.loc + i, getB s.mem.bytes (p.loc + i)) else [] } : Remote)
  if rs = [] then .now else .remote rs

/-- The same for a mask of threads that an error names together. -/
def OpCond.masked (c : OpCond) (m : BitVec 8) : OpCond :=
  c.withRemotes (c.remotes.map fun r => { r with mask := m })

/-- The reads of a record that decide at once what its word does: a request over a link may get an error or no
completion, which a free value says, and the link counts it (R462, R467). Answers whether one did.
DESIGN CHOICE, safe (log 121). -/
def State.farRead (s : State) (runs : List Run) : State × Bool :=
  runs.foldl (fun (r : State × Bool) x =>
    if isHost x.loc || isPeer x.loc then
      let (v, s) := r.1.draw
      if v % 2 = 1 then (s.bump (if isHost x.loc then 0x546 else 0x482 + 4 * (v / 2 % 8)), true) else (s, r.2)
    else r) (s, false)
/-- While the Vetik Link retrains, an access to the host waits (R467). -/
def State.farReady (s : State) (runs : List Run) : Bool := !((s.reg 0x543).getLsbD 4 && runs.any fun x => isHost x.loc)

/-- An operation that no thread performs: with an ordering it acts as a fence of its kind and scope, and the
acquire side acts on the L1 (R286, R293). -/
def State.fenceOp (s : State) (o : Order) (ctr : Option Nat) : State :=
  (s.acquire s.cc o.acqAt).later ctr .other [] none (if o.isNone then .now else .fence o)

/-- Raise the untracked error before a release takes effect (R253). -/
def State.ordered (s : State) (o : Order) : R Unit :=
  match o.relAt with
  | some c => s.released c
  | none => .ok ()

/-- Before a fence of any kind takes effect: it raises the untracked error, and its release side waits for the
stores that may still bring one (R253, R292). -/
def State.fenced (s : State) (o : Order) : R Unit := do
  s.ordered o
  if o.isNone then .ok () else s.raised

/-- A carrying word that no thread performs (R253, R286). -/
def State.offFence (s : State) (o : Order) (ctr : Option Nat) : R State := do
  s.fenced o
  .ok (s.fenceOp o ctr)

/-- The registers a load writes from a thread's bytes. -/
def State.loadWrites (s : State) (f : MF) (t : Nat) (bs : List Byte) : List RegWrite :=
  let x := f.fill bs
  match f.d with
  | .k n => if f.isPair then [.k n.toNat (BitVec.ofNat 32 x), .k (n.toNat + 1) (BitVec.ofNat 32 (x / 2 ^ 32))]
            else [.k n.toNat (BitVec.ofNat 32 x)]
  | .t n =>
    if f.V then [.v (s.tkey t) n.toNat (BitVec.ofNat 256 x) (-1) f.loadTag f.ty.width]
    else if f.isPair then [.s (s.tkey t) n.toNat (BitVec.ofNat 32 x) f.loadTag,
                           .s (s.tkey t) (n.toNat + 1) (BitVec.ofNat 32 (x / 2 ^ 32)) f.loadTag]
    else [.s (s.tkey t) n.toNat (BitVec.ofNat 32 x) f.loadTag]

/-- A load of any space (R251). A uniform load is performed once. DESIGN CHOICE, unsafe (log 9). -/
def loadEffect (sp : Space) (h : Hd) (f : MF) (s : State) : R State := do
  let c ← s.flagOf h true
  s.mayAccess f sp
  s.ordered f.ord
  let m := s.part h
  if m = 0 then s.offFence f.ord c
  else do
    let n := f.bytes
    let p ← s.resolve f sp .read m n
    let l1 := s.l1For f.ord f.ch
    let d := fun t => s.readPlace l1 (p t) n
    pagesOk m d
    let m' : BitVec 8 := if f.d.isK then BitVec.ofNat 8 (2 ^ lowest m) else m
    let ws := (bitsOf m').flatMap fun t => match d t with
      | .ok bs => s.loadWrites f t bs
      | .error _ => []
    let bad := dataLost m' d
    let cond := s.condOf false m' fun t => s.spotRuns (p t)
    let flt := lostFault bad fun t => s.lostVa l1 (p t) (s.vaOf f sp t)
    let s := (s.fillSpots m p).cacheReads l1.isSome m' p
    let s := (s.countLost bad d).acquire s.cc f.ord.acqAt
    .ok (s.later c .load ws flt cond)

/-- The bytes a store takes from the data field of thread t (R250). -/
def State.storeData (s : State) (f : MF) (t : Nat) : List Byte :=
  match f.d with
  | .k n => bytesOfNat f.bytes (if f.isPair then s.cb.kPair n.toNat else (s.cb.getK n.toNat).toNat)
  | .t n => bytesOfNat f.bytes
      (if f.V then ((s.th t).getV n.toNat).toNat
       else if f.isPair then (s.th t).sPair n.toNat else ((s.th t).getS n.toNat).toNat)

/-- Write a thread's bytes at its place, beside all that its word writes (`rs`); answers the locations dropped
(R253). -/
def State.writePlace (s : State) (rs : List (Nat × Nat)) (p : Spot) (bs : List Byte) : State × List Nat :=
  match p with
  | .sram ks => (s.storeS ks bs, [])
  | .stack k => (s.storeK k bs, [])
  | .mem ps =>
    let r := ps.foldl (fun (q : State × List Nat × List Byte) x =>
      let (s, b) := q.1.storePart (q.1.agentOf x.x) rs x.x.loc (q.2.2.take x.n)
      (s, q.2.1 ++ b, q.2.2.drop x.n)) (s, [], bs)
    (r.1, r.2.1)

/-- The address that MEMORY_DATA_ERROR names for a store that dropped bytes: the first byte of the first part that
did. DESIGN CHOICE, unsafe (log 120). -/
def Spot.dropVa (p : Spot) (lost : List Nat) : Nat :=
  match p with
  | .mem ps => ((ps.find? fun q => lost.any fun l => q.x.loc ≤ l && l < q.x.loc + q.n).map (·.va)).getD 0
  | _ => 0

/-- The byte keys of a place, each with whether its page has DET set. -/
def Spot.keys (p : Spot) (n : Nat) : List (Nat × Bool) :=
  match p with
  | .sram ks => ks.map fun k => (k, false)
  | .stack k => (List.range n).map fun i => (k + i, false)
  | .mem ps => ps.flatMap fun q => (List.range q.n).map fun i => (q.x.loc + i, q.x.det)

/-- What one thread writes to one byte. -/
structure ByteWrite where
  key : Nat
  det : Bool
  val : Byte
  deriving DecidableEq, Repr

/-- The bytes that the threads of a word write, thread after thread. -/
def byteWrites (m : BitVec 8) (keys : Nat → List (Nat × Bool)) (data : Nat → List Byte) : List ByteWrite :=
  (bitsOf m).flatMap fun t => ((keys t).zip (data t)).map fun x => { key := x.1.1, det := x.1.2, val := x.2 }

/-- The bytes that several threads write. -/
def raced : List ByteWrite → List Nat
  | [] => []
  | w :: ws => if (ws.any fun x => x.key == w.key) && !(raced ws).contains w.key then w.key :: raced ws else raced ws

/-- Which value a raced byte takes (R275): that of the highest thread on a page with DET set, and of any of the
threads elsewhere, byte by byte. DESIGN CHOICE, safe (log 11). -/
def State.settleRaces (s : State) (ws : List ByteWrite) : NMap Byte × State :=
  (raced ws).foldl (fun (r : NMap Byte × State) k =>
    let mine := ws.filter fun w => w.key == k
    if mine.any (·.det) then (put r.1 k (mine.getLast?.elim 0 (·.val)), r.2)
    else
      let (v, s) := r.2.draw
      (put r.1 k ((mine[v % mine.length]?).elim 0 (·.val)), s)) ([], s)

/-- A thread's bytes with the raced ones settled. -/
def settled (win : NMap Byte) (keys : List (Nat × Bool)) (data : List Byte) : List Byte :=
  (keys.zip data).map fun x => (look win x.1.1).getD x.2

/-- The threads of a store write their bytes: the state, with what was dropped counted, and the record of the threads
whose bytes were (R251, R253, R275). -/
def State.storeAll (s : State) (m : BitVec 8) (p : Nat → Spot) (n : Nat) (data : Nat → List Byte) : State × Option FaultRec :=
  let (win, s) := s.settleRaces (byteWrites m (fun t => (p t).keys n) data)
  let rs := (bitsOf m).flatMap fun t => (p t).ranges
  let r := (bitsOf m).foldl (fun (r : State × List (Nat × List Nat)) t =>
    let (s, lost) := r.1.writePlace rs (p t) (settled win ((p t).keys n) (data t))
    (s, if lost = [] then r.2 else r.2 ++ [(t, lost)])) (s, [])
  (r.1.countUes (r.2.flatMap (·.2)), lostFault (r.2.map (·.1)) fun t => (p t).dropVa ((look r.2 t).getD []))

/-- A store of any space (R251). A broadcast store is performed once; one that carries an acquire acts on the L1 after it
(R283). DESIGN CHOICE, unsafe (log 9). -/
def storeEffect (sp : Space) (h : Hd) (f : MF) (s : State) : R State := do
  let c ← s.flagOf h false
  s.mayAccess f sp
  s.ordered f.ord
  let m := s.part h
  if m = 0 then s.offFence f.ord c
  else do
    let n := f.bytes
    let p ← s.resolve f sp .write m n
    let m' : BitVec 8 := if f.d.isK && f.a.isK then BitVec.ofNat 8 (2 ^ lowest m) else m
    let data := fun t => s.storeData f t
    let cond := s.condOf true m' fun t => s.spotRuns (p t)
    let old := s.found m' p
    let (s, flt) := (s.fillSpots m p).storeAll m' p n data
    .ok ((s.acquire s.cc f.ord.acqAt).later c .store [] flt cond old)

/-- LD (R249, R251). -/
def execLd (h : Hd) (f : MF) (s : State) : Host.Outcome State Fault Refusal := issue s (loadEffect .mem h f)
/-- ST. -/
def execSt (h : Hd) (f : MF) (s : State) : Host.Outcome State Fault Refusal := issue s (storeEffect .mem h f)
/-- LDS (R255). -/
def execLds (h : Hd) (f : MF) (s : State) : Host.Outcome State Fault Refusal := issue s (loadEffect .spad h f)
/-- STS. -/
def execSts (h : Hd) (f : MF) (s : State) : Host.Outcome State Fault Refusal := issue s (storeEffect .spad h f)
/-- LDG (R257). -/
def execLdg (h : Hd) (f : MF) (s : State) : Host.Outcome State Fault Refusal := issue s (loadEffect .window h f)
/-- STG. -/
def execStg (h : Hd) (f : MF) (s : State) : Host.Outcome State Fault Refusal := issue s (storeEffect .window h f)
/-- LDK (R258). -/
def execLdk (h : Hd) (f : MF) (s : State) : Host.Outcome State Fault Refusal := issue s (loadEffect .stack h f)
/-- STK. -/
def execStk (h : Hd) (f : MF) (s : State) : Host.Outcome State Fault Refusal := issue s (storeEffect .stack h f)
/-- LDC (R259). -/
def execLdc (h : Hd) (f : MF) (s : State) : Host.Outcome State Fault Refusal := issue s (loadEffect .const h f)

/-! ### Packed 6-bit groups (R90, R262) -/


/-- Packed bytes as elements in bytes: four 6-bit fields from three bytes. -/
def unpack6 (x groups : Nat) : Nat :=
  ofElems 8 ((List.range (4 * groups)).map fun i => x / 2 ^ (6 * i) % 64)
/-- Elements in bytes as packed bytes; bits [8i+7:8i+6] are ignored. -/
def pack6 (x groups : Nat) : Nat :=
  ofElems 6 ((List.range (4 * groups)).map fun i => elem x 8 i % 64)

/-- Steps 5 to 7 of R252 for LDP6 and STP6: every part of every thread, split at the line boundary it crosses;
a failure names the first byte of the failing part (R262). -/
def State.p6Check (s : State) (f : MF) (k : Acc) (m : BitVec 8) : R (Nat → Spot) := do
  let p ← s.checkPieces s.cctx s.cwg.launch m k fun t => partsOf 128 (s.ea f .mem t) (3 * f.groups)
  .ok fun t => .mem (p t)

/-- The budget of LDP6 and STP6 (R130). -/
def State.p6Budget (s : State) (f : MF) : R Unit := do
  s.sSpan f.a 2
  if f.V then s.vIn f.d else s.sIn f.d

/-- LDP6: bits [8i+7:8i+6] are zero, tag 15. -/
def ldp6Effect (h : Hd) (f : MF) (s : State) : R State := do
  let c ← s.flagOf h true
  s.p6Budget f
  s.ordered f.ord
  let m := s.part h
  if m = 0 then s.offFence f.ord c
  else do
    let p ← s.p6Check f .read m
    let l1 := s.l1For f.ord f.ch
    let d := fun t => s.readPlace l1 (p t) 0
    pagesOk m d
    let ws := (bitsOf m).flatMap fun t => match d t with
      | .ok bs =>
        let x := unpack6 (natOfBytes bs) f.groups
        if f.V then [RegWrite.v (s.tkey t) f.d.num (BitVec.ofNat 256 x) (-1) 15 8]
        else [RegWrite.s (s.tkey t) f.d.num (BitVec.ofNat 32 x) 15]
      | .error _ => []
    let bad := dataLost m d
    let cond := s.condOf false m fun t => s.spotRuns (p t)
    let flt := lostFault bad fun t => s.lostVa l1 (p t) (s.ea f .mem t)
    let s := (s.fillSpots m p).cacheReads l1.isSome m p
    let s := (s.countLost bad d).acquire s.cc f.ord.acqAt
    .ok (s.later c .load ws flt cond)

/-- STP6. -/
def stp6Effect (h : Hd) (f : MF) (s : State) : R State := do
  let c ← s.flagOf h false
  s.p6Budget f
  s.ordered f.ord
  let m := s.part h
  if m = 0 then s.offFence f.ord c
  else do
    let p ← s.p6Check f .write m
    let n := 3 * f.groups
    let data := fun t => bytesOfNat n (pack6
      (if f.V then ((s.th t).getV f.d.num).toNat else ((s.th t).getS f.d.num).toNat) f.groups)
    let cond := s.condOf true m fun t => s.spotRuns (p t)
    let old := s.found m p
    let (s, flt) := (s.fillSpots m p).storeAll m p n data
    .ok ((s.acquire s.cc f.ord.acqAt).later c .store [] flt cond old)

/-- LDP6 (R262). -/
def execLdp6 (h : Hd) (f : MF) (s : State) : Host.Outcome State Fault Refusal := issue s (ldp6Effect h f)
/-- STP6 (R262). -/
def execStp6 (h : Hd) (f : MF) (s : State) : Host.Outcome State Fault Refusal := issue s (stp6Effect h f)

/-- PREF (R260): it writes nothing and raises no trap after step 2. With hint 0 the lines of plain pages come into
the core's L1; a line with a byte that cannot be read is dropped. -/
def prefEffect (h : Hd) (f : MF) (s : State) : R State := do
  let c ← s.flagOf h false
  s.sSpan f.a 2
  let s := if f.ch = 0 then eachT (s.part h) s fun s t => match s.xl s.cctx (s.ea f .mem t) .read with
      | .ok x => if x.nc || x.isPeer || x.isAp || s.badBytes (x.loc / 128 * 128) 128 then s else s.holdLine s.cc x.loc
      | .error _ => s
    else s
  .ok (s.later c .other [])
def execPref (h : Hd) (f : MF) (s : State) : Host.Outcome State Fault Refusal := issue s (prefEffect h f)

/-- The value of a selector of SPINFO (R261). -/
def State.spinfo (s : State) (sel : Nat) : Nat :=
  let g := s.cwg
  match sel with
  | 0 => g.spadSize
  | 1 => regionOffset (s.regionWgs g.gang s.cc) s.cb.wg
  | 2 => s.regionSize g.gang s.cc
  | 3 => s.stackLimit s.cctx
  | 4 => let r := (s.reg 0x302).toNat; b2n (bit r s.cdie) + 2 * b2n (bit r (1 - s.cdie))
  | _ => (s.core s.cc).split * 65536

/-- SPINFO (R261). -/
def execSpinfo (h : Hd) (f : MF) (s : State) : Host.Outcome State Fault Refusal :=
  issue s fun s => do
    s.sIn f.d
    if f.d.isK && !s.acts h then .ok s
    else .ok (s.putD (s.part h) f.d (fun _ => BitVec.ofNat 32 (s.spinfo f.off.toNat)) 9)

end Sys2Proof.Machine
end

