-- ==== Sys2Proof/Machine/Fp.lean ====
section
/-! DEFINITION. Numbers: floating-point formats (R85 to R87), exact values and their arithmetic (R184),
rounding to a format or to an integer type with its flags (R95 to R99), comparison (R162), and the
random blocks of a beam's generator (R200). -/

namespace Sys2Proof.Machine

/-! ### Flags of fx (R100) -/

namespace Fx
def iv : Nat := 1
def dz : Nat := 2
def of : Nat := 4
def uf : Nat := 8
def ix : Nat := 16
def sat : Nat := 32
end Fx

/-- A value with the flags that making it raises. -/
abbrev WithFx (α : Type) := α × Nat

/-! ### Formats (R85, R86) -/

inductive Specials where
  /-- infinities and NaNs -/
  | ieee
  /-- one NaN magnitude, no infinities -/
  | e4m3
  /-- every code is a finite number -/
  | none
  deriving DecidableEq, Repr

structure Fmt where
  eb : Nat
  mb : Nat
  bias : Nat
  special : Specials
  /-- the launch flag FTZ acts on it (R99) -/
  flush : Bool
  /-- the canonical NaN (R87) -/
  nan : Nat
  deriving DecidableEq, Repr

def Fmt.f32 : Fmt := ⟨8, 23, 127, .ieee, true, 0x7FC00000⟩
def Fmt.f16 : Fmt := ⟨5, 10, 15, .ieee, true, 0x7E00⟩
def Fmt.bf16 : Fmt := ⟨8, 7, 127, .ieee, true, 0x7FC0⟩
def Fmt.e4m3 : Fmt := ⟨4, 3, 7, .e4m3, false, 0x7F⟩
def Fmt.e5m2 : Fmt := ⟨5, 2, 15, .ieee, false, 0x7E⟩
def Fmt.e3m2 : Fmt := ⟨3, 2, 3, .none, false, 0⟩
def Fmt.e2m3 : Fmt := ⟨2, 3, 1, .none, false, 0⟩

/-- The format of a floating-point type. -/
def fmtOf : Ty → Option Fmt
  | .f32 => some .f32
  | .f16 => some .f16
  | .bf16 => some .bf16
  | .e4m3 => some .e4m3
  | .e5m2 => some .e5m2
  | .e3m2 => some .e3m2
  | .e2m3 => some .e2m3
  | _ => none

/-- The bit that holds the sign. -/
def Fmt.signBit (f : Fmt) : Nat := f.eb + f.mb
/-- Largest finite magnitude, as bits. -/
def Fmt.maxBits (f : Fmt) : Nat :=
  match f.special with
  | .ieee => (2 ^ f.eb - 1) * 2 ^ f.mb - 1
  | .e4m3 => 0x7E
  | .none => 2 ^ (f.eb + f.mb) - 1
/-- The bits of infinity. -/
def Fmt.infBits (f : Fmt) : Nat := (2 ^ f.eb - 1) * 2 ^ f.mb
def Fmt.sign (f : Fmt) (neg : Bool) (x : Nat) : Nat := if neg then x + 2 ^ f.signBit else x

/-! ### Exact values -/

/-- An exact value: a NaN, with whether it sets IV; an infinity; or (-1)^neg · n/d · 2^e, with n = 0 a
signed zero. -/
inductive XV where
  | nan (iv : Bool)
  | inf (neg : Bool)
  | num (neg : Bool) (n d : Nat) (e : Int)
  deriving DecidableEq, Repr

namespace XV

def zero (neg : Bool) : XV := .num neg 0 1 0
def ofInt (i : Int) : XV := .num (i < 0) i.natAbs 1 0

def isZero : XV → Bool
  | .num _ n _ _ => n == 0
  | _ => false
def isNan : XV → Bool
  | .nan _ => true
  | _ => false
/-- A signalling NaN. -/
def isSig : XV → Bool
  | .nan i => i
  | _ => false
def negative : XV → Bool
  | .inf s => s
  | .num s _ _ _ => s
  | .nan _ => false
def neg : XV → XV
  | .nan i => .nan i
  | .inf s => .inf (!s)
  | .num s n d e => .num (!s) n d e
def abs : XV → XV
  | .nan i => .nan i
  | .inf _ => .inf false
  | .num _ n d e => .num false n d e

/-- A signed count of units of 2^lo. -/
def units (s : Bool) (n : Nat) (e lo : Int) : Int :=
  let m : Int := (n * 2 ^ (e - lo).toNat : Nat)
  if s then -m else m

/-- a + b: ∞ - ∞ is a NaN that sets IV; an exact zero sum of opposite signs is -0 under RD and +0
otherwise (R184). -/
def add (rd : Bool) : XV → XV → XV
  | .nan i, .nan j => .nan (i || j)
  | .nan i, _ => .nan i
  | _, .nan j => .nan j
  | .inf s, .inf r => if s = r then .inf s else .nan true
  | .inf s, _ => .inf s
  | _, .inf r => .inf r
  | .num s n d e, .num r m c g =>
    let lo := min e g
    let x := units s (n * c) e lo + units r (m * d) g lo
    if x = 0 then zero (if s = r then s else rd) else .num (x < 0) x.natAbs (d * c) lo

/-- a × b: 0 × ∞ is a NaN that sets IV. -/
def mul : XV → XV → XV
  | .nan i, .nan j => .nan (i || j)
  | .nan i, _ => .nan i
  | _, .nan j => .nan j
  | .inf s, b => if b.isZero then .nan true else .inf (s != b.negative)
  | a, .inf r => if a.isZero then .nan true else .inf (a.negative != r)
  | .num s n d e, .num r m c g => .num (s != r) (n * m) (d * c) (e + g)

/-- a / b with DZ (R184). -/
def div : XV → XV → WithFx XV
  | .nan i, .nan j => (.nan (i || j), 0)
  | .nan i, _ => (.nan i, 0)
  | _, .nan j => (.nan j, 0)
  | .inf _, .inf _ => (.nan true, 0)
  | .inf s, b => (.inf (s != b.negative), 0)
  | a, .inf r => (zero (a.negative != r), 0)
  | .num s n d e, .num r m c g =>
    if m = 0 then (if n = 0 then (.nan true, 0) else (.inf (s != r), Fx.dz))
    else (.num (s != r) (n * c) (d * m) (e - g), 0)

/-- The order of two values that are no NaNs, zeros being equal: less, equal, greater. -/
def cmp : XV → XV → Ordering
  | .inf s, .inf r => if s = r then .eq else if s then .lt else .gt
  | .inf s, _ => if s then .lt else .gt
  | _, .inf r => if r then .gt else .lt
  | .num s n d e, .num r m c g =>
    let lo := min e g
    compare (units s (n * c) e lo) (units r (m * d) g lo)
  | _, _ => .eq

end XV

/-- Decode an element (R85, R86); under FTZ a subnormal reads as zero of its sign (R99). -/
def decodeF (f : Fmt) (ftz : Bool) (x : Nat) : XV :=
  let s := bit x f.signBit
  let ex := x / 2 ^ f.mb % 2 ^ f.eb
  let fr := x % 2 ^ f.mb
  if f.special = .ieee && ex = 2 ^ f.eb - 1 then (if fr = 0 then .inf s else .nan (!bit fr (f.mb - 1)))
  else if f.special = .e4m3 && ex = 15 && fr = 7 then .nan false
  else if ex = 0 then .num s (if ftz && f.flush then 0 else fr) 1 (1 - (f.bias : Int) - f.mb)
  else .num s (fr + 2 ^ f.mb) 1 ((ex : Int) - f.bias - f.mb)

/-! ### Rounding (R95, R96) -/

/-- Choose between the neighbours q and q + 1 of q + r/d, for a value of the given sign. -/
def roundUp? (rm : Rm) (w rnd : Nat) (neg : Bool) (q r d : Nat) : Bool :=
  r ≠ 0 && match rm with
  | .rn => 2 * r > d || (2 * r == d && q % 2 == 1)
  | .rz => false
  | .ru => !neg
  | .rd => neg
  | .rna => 2 * r ≥ d
  | .sr => r * 2 ^ w / d + rnd ≥ 2 ^ w

/-- n/d·2^e in units of 2^k: quotient, remainder and divisor. -/
def quant (n d : Nat) (e k : Int) : Nat × Nat × Nat :=
  let n' := n * 2 ^ (e - k).toNat
  let d' := d * 2 ^ (k - e).toNat
  (n' / d', n' % d', d')

/-- Rounded to a multiple of 2^k: the multiple, and whether it is inexact. -/
def roundTo (rm : Rm) (w rnd : Nat) (neg : Bool) (n d : Nat) (e k : Int) : Nat × Bool :=
  let (q, r, d') := quant n d e k
  (if roundUp? rm w rnd neg q r d' then q + 1 else q, r ≠ 0)

/-- ⌊log2 (n/d·2^e)⌋ of a positive value. -/
def ilog (n d : Nat) (e : Int) : Int :=
  let g : Int := (Nat.log2 n : Int) - Nat.log2 d
  if d * 2 ^ g.toNat ≤ n * 2 ^ (-g).toNat then g + e else g - 1 + e

/-- What an overflow delivers (R98): the approximate forms give infinity (R191). -/
def overflow (f : Fmt) (rm : Rm) (approx neg : Bool) : Nat :=
  match f.special with
  | .ieee =>
    let big := match rm with
      | .rz => approx
      | .ru => !neg
      | .rd => neg
      | _ => true
    f.sign neg (if big then f.infBits else f.maxBits)
  | _ => f.sign neg f.maxBits

/-- Round an exact value to a format (R98, R99): its bits and its flags. -/
def roundX (f : Fmt) (rm : Rm) (approx ftz : Bool) (w rnd : Nat) (x : XV) : WithFx Nat :=
  match x with
  | .nan i => if f.special = .none then (0, Fx.iv) else (f.nan, if i then Fx.iv else 0)
  | .inf s => if f.special = .ieee then (f.sign s f.infBits, 0) else (f.sign s f.maxBits, Fx.of)
  | .num s n d e =>
    if n = 0 then (f.sign s 0, 0)
    else
      let emin : Int := 1 - (f.bias : Int)
      let ex := ilog n d e
      let (m, ix) := roundTo rm w rnd s n d e (ex - f.mb)
      let (m, ex) := if m = 2 ^ (f.mb + 1) then (2 ^ f.mb, ex + 1) else (m, ex)
      if ex < emin then
        if ftz && f.flush then (f.sign s 0, Fx.uf + Fx.ix)
        else
          let (q, ix) := roundTo rm w rnd s n d e (emin - f.mb)
          (f.sign s q, if ix then Fx.uf + Fx.ix else 0)
      else
        let bits := (ex + f.bias).toNat * 2 ^ f.mb + (m - 2 ^ f.mb)
        if bits > f.maxBits then (overflow f rm approx s, Fx.of + Fx.ix)
        else (f.sign s bits, if ix then Fx.ix else 0)

/-- The usual rounding. -/
def roundF (f : Fmt) (rm : Rm) (ftz : Bool) (w rnd : Nat) (x : XV) : WithFx Nat := roundX f rm false ftz w rnd x
/-- FP32, round to nearest, subnormals honoured. -/
def rn32 (x : XV) : WithFx Nat := roundF .f32 .rn false 16 0 x

/-! ### Integers (R88, R98) -/

/-- Signed integer types of the arithmetic set and .s64. -/
def Ty.isSigned : Ty → Bool
  | .s8 | .s16 | .s32 | .s64 => true
  | _ => false
def Ty.isNat : Ty → Bool
  | .n8 | .n16 | .n32 | .n64 | .nq4 | .cbi => true
  | _ => false
def Ty.isInt (t : Ty) : Bool := Ty.isSigned t || Ty.isNat t
def maxOf (t : Ty) : Int := if Ty.isSigned t then 2 ^ (t.width - 1) - 1 else 2 ^ t.width - 1
def minOf (t : Ty) : Int := if Ty.isSigned t then -(2 ^ (t.width - 1)) else 0
/-- An element read as a value of its type. -/
def intOf (t : Ty) (x : Nat) : Int := if Ty.isSigned t then sext t.width x else (x % 2 ^ t.width : Nat)

/-- Clamp to a type's range: the value, and whether it was out of range. -/
def clampI (t : Ty) (i : Int) : Int × Bool :=
  if i > maxOf t then (maxOf t, true) else if i < minOf t then (minOf t, true) else (i, false)

/-- An exact value rounded to an integer, with IX. -/
def roundInt (rm : Rm) (w rnd : Nat) (neg : Bool) (n d : Nat) (e : Int) : Int × Bool :=
  let (q, ix) := roundTo rm w rnd neg n d e 0
  (if neg then -(q : Int) else q, ix)

/-- Round an exact value to an integer type (R98): IV for a NaN or out of range. -/
def roundI (t : Ty) (rm : Rm) (w rnd : Nat) (x : XV) : WithFx Nat :=
  match x with
  | .nan _ => (0, Fx.iv)
  | .inf s => (wrap t.width (if s then minOf t else maxOf t), Fx.iv)
  | .num s n d e =>
    let (i, ix) := roundInt rm w rnd s n d e
    let (j, out) := clampI t i
    (wrap t.width j, if out then Fx.iv else if ix then Fx.ix else 0)

/-- The exact value of an element of a type; indices read as natural numbers. -/
def decodeX (t : Ty) (ftz : Bool) (x : Nat) : XV :=
  match fmtOf t with
  | some f => decodeF f ftz x
  | none => .ofInt (intOf t x)

/-- Round an exact value to a type. From an integer type, whose width is given, a narrowing to an integer
saturates with SAT and not IV (R114, R216); a conversion to a width no smaller wraps (R88). -/
def roundT (t : Ty) (rm : Rm) (ftz : Bool) (w rnd : Nat) (fromInt : Option Nat) (x : XV) : WithFx Nat :=
  match fmtOf t with
  | some f => roundF f rm ftz w rnd x
  | none =>
    let (v, fl) := roundI t rm w rnd x
    match fromInt with
    | some sw =>
      if t.width < sw then (v, if fl = Fx.iv then Fx.sat else fl)
      else match x with
        | .num s n _ _ => (wrap t.width (if s then -(n : Int) else n), 0)
        | _ => (v, fl)
    | none => (v, fl)

/-! ### Comparison (R68, R162) -/

/-- A condition of R68 on an order: codes 6 to 9 compare as 2 to 5 do. -/
def condOrd (c : Nat) (o : Ordering) : Bool :=
  match c with
  | 0 => o == .eq
  | 1 => o != .eq
  | 2 | 6 => o == .lt
  | 3 | 7 => o != .gt
  | 4 | 8 => o == .gt
  | _ => o != .lt

/-- A condition on two FP values: with a NaN only .ne holds; .eq and .ne set IV for a signalling NaN,
the others for any NaN. -/
def condF (c : Nat) (a b : XV) : WithFx Bool :=
  if a.isNan || b.isNan then (c == 1, if c ≥ 2 || a.isSig || b.isSig then Fx.iv else 0)
  else (condOrd c (a.cmp b), 0)

/-- A condition on two w-bit elements: 0 and 1 compare bits, 2 to 5 as signed, 6 to 9 as natural. -/
def condI (c w a b : Nat) : Bool :=
  if 2 ≤ c ∧ c ≤ 5 then condOrd c (compare (sext w a) (sext w b)) else condOrd c (compare (a % 2 ^ w) (b % 2 ^ w))

/-! ### Minimum and maximum (R185) -/

/-- Whether a comes before b, with -0 less than +0. -/
def below (a b : XV) : Bool :=
  match a.cmp b with
  | .lt => true
  | .gt => false
  | .eq => a.negative && !b.negative

/-- FMIN and FMAX of two values. -/
def minmax (mx : Bool) (a b : XV) : XV :=
  if a.isNan then (if b.isNan then .nan false else b)
  else if b.isNan then a
  else if below b a != mx then b else a

/-- The flag of FMIN and FMAX. -/
def minmaxFx (a b : XV) : Nat := if a.isSig || b.isSig then Fx.iv else 0

/-- A value of a format put back in it without rounding: NaNs are canonical. -/
def encodeF (f : Fmt) (x : XV) : Nat := (roundF f .rz false 16 0 (match x with | .nan _ => .nan false | v => v)).1

/-! ### The generator (R200) -/

def rotl64 (x n : Nat) : Nat := (x * 2 ^ n + x / 2 ^ (64 - n)) % 2 ^ 64

/-- Eight rounds of a word. -/
def genRounds : Nat → Nat → Nat → Nat
  | 0, x, _ => x
  | n + 1, x, y =>
    let x := (x + y) % 2 ^ 64
    let x := x ^^^ (x / 2 ^ 31)
    let x := x * 0xD1B54A32D192ED03 % 2 ^ 64
    genRounds n x (rotl64 y 23 ^^^ x)

/-- The random block G(K, C), 256 bits. -/
def genBlock (k c : Nat) : Nat :=
  ofElems 64 ((List.range 4).map fun j =>
    genRounds 8 ((c + j * 0x6A09E667F3BCC909) % 2 ^ 64) (k ^^^ 0xBB67AE8584CAA73B))

end Sys2Proof.Machine
end

