-- ==== Sys2Proof/Machine/Flags.lean ====
section
/-! DEFINITION. The sticky flags fx of threads (R100, R101) and the draws of a beam's generator (R97,
R202). -/

namespace Sys2Proof.Machine

/-- Set flags; none is ever cleared here. -/
def Thread.orFx (x : Thread) (fl : Nat) : Thread := { x with fx := x.fx ||| BitVec.ofNat 8 fl }

/-- Set each taking-part thread's own flags. -/
def State.orFx (s : State) (m : BitVec 8) (fl : Nat → Nat) : State :=
  eachT m s fun s t => s.modTh t fun x => x.orFx (fl t)

/-- Bits one value of flags or another. -/
def orAll (l : List Nat) : Nat := l.foldl (· ||| ·) 0

/-- The largest counter value no draw may use (R202). -/
def rngEnd : Nat := 2 ^ 61 - 1

/-- A drawing word at the end of the counter (R202). -/
def State.canDraw (s : State) (draw : Bool) : R Unit :=
  need (!draw || s.cb.genCtr ≠ rngEnd) Code.rngExhausted

/-- The block of thread t at the beam's present counter (R97, R200). -/
def State.block (s : State) (t : Nat) : Nat := genBlock s.cb.genKey.toNat (t * 2 ^ 61 + s.cb.genCtr)

/-- The counter advances by one when a drawing word retires (R97, R202). -/
def State.drew (s : State) (draw : Bool) : State :=
  if draw then s.modCb fun b => { b with genCtr := b.genCtr + 1 } else s

/-- The width of the random field of an element, from the number of result elements (R97).
DEDUCED, safe (log 23). -/
def srWidth (n : Nat) : Nat := if n ≤ 16 then 16 else 8

end Sys2Proof.Machine
end

