-- ==== Sys2Proof/Machine/Operands.lean ====
section
/-! DEFINITION. Register operands of the lanes: what a source supplies (R42, R89), tag checks and CONVERT
(R110 to R115), codebook expansion (R205 to R211), and the writing of results with their flags. -/

namespace Sys2Proof.Machine

/-! ### Codebook banks (R205 to R207, R211) -/

/-- The NQ4 values of cb0 (R91). -/
def nq4 : List Nat :=
  [0xBC00, 0xB9A9, 0xB856, 0xB6AB, 0xB4F9, 0xB2E9, 0xB013, 0xA964,
   0x2964, 0x3013, 0x32E9, 0x34F9, 0x36AB, 0x3856, 0x39A9, 0x3C00]

/-- A bank of a core; cb0 is fixed (R206). -/
def State.bank (s : State) (core n : Nat) : Bank :=
  if n = 0 then { valid := 0xFFFF, entries := (List.range 16).zip nq4 }
  else (look (s.core core).banks n).getD {}

/-- The FP16 values of an entry, none where it may not be expanded (R207, R210).
DESIGN CHOICE, unsafe (log 4). -/
def State.cbEntry (s : State) (core launch n i : Nat) : Option (List Nat) :=
  let b := s.bank core n
  if (n = 0 || b.owner == some launch) && b.valid.getLsbD i then
    some (elems ((look b.entries i).getD 0) 16 (2 ^ b.ew))
  else none

/-- A CBLD is filling the bank (R211). -/
def State.cbBusy (s : State) (core n : Nat) : Bool := (s.bank core n).loading ≠ 0

/-- Index element k of a register at a bank's index width. -/
def Bank.index (b : Bank) (data k : Nat) : Nat := elem data (if b.iw = 0 then 4 else 8) k

/-- The indices an operand of n elements reads (R208). -/
def Bank.indices (b : Bank) (data n : Nat) (hi : Bool) : List Nat :=
  let q := (n + 2 ^ b.ew - 1) / 2 ^ b.ew
  (List.range q).map fun k => b.index data ((if hi then q else 0) + k)

/-- The n FP16 values of an expanded operand. -/
def State.expand (s : State) (n data cnt : Nat) (hi : Bool) : List Nat :=
  let b := s.bank s.cc n
  (((b.indices data cnt hi).map fun i => (s.cbEntry s.cc s.cwg.launch n i).getD []).flatten).take cnt

/-! ### Sources -/

/-- What an instruction expects in a source: bits at some element width, a type, or the data of a format
slot. -/
inductive Want where
  | bits (w : Nat)
  | ty (t : Ty)
  | slot (n : Nat)
  deriving DecidableEq, Repr

/-- A source field: its class, what is expected, its hi bit where it acts under R114, the bank it is expanded
through with the hi bit of R208, whether the launch's FTZ acts on it (R99), and whether the instruction only moves
its bits or changes their signs, so that an expanded value comes as bits (R188, R194). -/
structure Src where
  f : RF
  v : Bool
  want : Want
  hi : Bool := false
  cb : Option Nat := none
  cbHi : Bool := false
  ftz : Bool := false
  raw : Bool := false
  deriving DecidableEq, Repr

def State.fslot (s : State) (n : Nat) : Fs := s.cl.lrec.fs.getD n {}
/-- The element type of a slot. -/
def Fs.ty (f : Fs) : Ty := (Ty.ofCode f.efmt).getD .f32
/-- The element width of a slot's data: 8-bit indices take a byte. -/
def Fs.width (f : Fs) : Nat := if f.efmt = 8 && f.cbw = 1 then 8 else f.ty.width

/-- The type that a value is rounded to on its way into a source: an 8-bit index takes 0 to 255 (R94, R114). -/
def State.wantTy (s : State) : Want → Ty
  | .bits _ => .b32
  | .ty t => t
  | .slot n => if (s.fslot n).width = 8 then (if (s.fslot n).efmt = 8 then .n8 else (s.fslot n).ty) else (s.fslot n).ty
def State.wantW (s : State) : Want → Nat
  | .bits w => w
  | .ty t => t.width
  | .slot n => (s.fslot n).width

/-- The register bits of a source as thread t holds them, and its tag. -/
def State.regOf (s : State) (x : Src) (t : Nat) : Nat × BitVec 4 :=
  match x.f with
  | .k n => ((s.cb.getK n.toNat).toNat, 15)
  | .t n =>
    let th := s.th t
    if x.v then ((th.getV n.toNat).toNat, th.getVt n.toNat) else ((th.getS n.toNat).toNat, th.getSt n.toNat)

def Src.regW (x : Src) : Nat := if x.v then 256 else 32
/-- How many elements are expected. -/
def State.cnt (s : State) (x : Src) : Nat := x.regW / s.wantW x.want

/-- FTZ of the launch (R99). -/
def State.ftz (s : State) : Bool := bit s.cl.lrec.flags 3
/-- FTZ on a source: the V-class words that treat it as a number (R99). -/
def State.ftzOf (s : State) (x : Src) : Bool := x.ftz && s.ftz

def Ty.isFp86 (t : Ty) : Bool := match t with
  | .e4m3 | .e5m2 | .e3m2 | .e2m3 => true
  | _ => false
def Ty.isB (t : Ty) : Bool := 18 ≤ t.code

/-- Whether a tag matches (R112). -/
def State.tagOk (s : State) (w : Want) (tag : BitVec 4) : Bool :=
  let slotIs := fun (c : Nat) => tag.toNat < 8 && (s.fslot tag.toNat).efmt == c
  tag == 15 || match w with
  | .bits _ => true
  | .ty t => Ty.isB t || (Sys2Proof.Ty.tag t == tag) || (Ty.isFp86 t && slotIs t.code)
  | .slot n => tag.toNat == n || slotIs (s.fslot n).efmt

/-- A source that a tag check may fail or convert: k registers carry no tag. -/
def Src.tagged (x : Src) : Bool := !x.f.isK
/-- Index registers match tags 12 and 15 (R209). -/
def State.srcOk (s : State) (x : Src) (t : Nat) : Bool :=
  let tag := (s.regOf x t).2
  !x.tagged || (if x.cb.isSome then tag == 12 || tag == 15 else s.tagOk x.want tag)

/-- The type and width a tag's data is read at (R110, R114): slot data by its efmt, tag 12 as 4-bit
natural elements; the integer tags are read as signed (DEDUCED). DEDUCED, unsafe (log 16). -/
def State.tagTy (s : State) (tag : BitVec 4) : Ty × Nat :=
  match tag.toNat with
  | 8 => (.f32, 32)
  | 9 => (.s32, 32)
  | 10 => (.bf16, 16)
  | 11 => (.f16, 16)
  | 12 => (.nq4, 4)
  | 13 => (.s16, 16)
  | 14 => (.s8, 8)
  | 15 => (.b32, 32)
  | n => ((s.fslot n).ty, (s.fslot n).width)

/-- The bank of slot data that is read through a codebook: efmt 7 or 8. DEDUCED, unsafe (log 21). -/
def State.tagBank (s : State) (tag : BitVec 4) : Option Nat :=
  if tag.toNat < 8 then
    let f := s.fslot tag.toNat
    if f.efmt = 7 ∨ f.efmt = 8 then some f.cbank else none
  else none

/-- The element numbers of the tag's form that a conversion reads. -/
def State.picked (s : State) (x : Src) (tag : BitVec 4) : List Nat :=
  let n := s.cnt x
  let m := x.regW / (s.tagTy tag).2
  if n < m then (List.range n).map fun i => i + if x.hi then n else 0 else List.range m

/-- Convert a source under R114. DEDUCED, unsafe (log 16). DEDUCED, unsafe (log 21). -/
def State.convert (s : State) (x : Src) (data : Nat) (tag : BitVec 4) : WithFx (List Nat) :=
  let (sty, sw) := s.tagTy tag
  let fromInt := if Ty.isInt sty && (s.tagBank tag).isNone then some sw else none
  let z := s.ftzOf x
  let val := fun i => match s.tagBank tag with
    | some n => decodeF .f16 z (((s.cbEntry s.cc s.cwg.launch n (elem data sw i)).getD []).headD 0)
    | none => decodeX sty z (elem data sw i)
  let rs := (s.picked x tag).map fun i => roundT (s.wantTy x.want) .rn z 16 0 fromInt (val i)
  let vs := rs.map (·.1)
  (vs ++ List.replicate (s.cnt x - vs.length) 0, orAll (rs.map (·.2)))

/-- An FP16 entry as the bits of a type, for a word that reads bits: numbers are converted, a NaN keeps its sign and
leading payload bits, and a type that is no floating-point one takes the pattern. DESIGN CHOICE, unsafe (log 107). -/
def rawEntry (t : Ty) (e : Nat) : Nat :=
  let sgn := e / 2 ^ 15 % 2
  let pay := e % 2 ^ 10
  let nan := e / 2 ^ 10 % 32 == 31 && pay ≠ 0
  match t with
  | .f32 => if nan then sgn * 2 ^ 31 + 0x7F800000 + pay * 2 ^ 13 else (roundF .f32 .rn false 16 0 (decodeF .f16 false e)).1
  | .bf16 => if nan then sgn * 2 ^ 15 + 0x7F80 + (if pay < 8 then 0x40 else pay / 8)
             else (roundF .bf16 .rn false 16 0 (decodeF .f16 false e)).1
  | _ => e

/-- The elements a source supplies in thread t, and the flags their conversion sets. -/
def State.srcElems (s : State) (x : Src) (t : Nat) : WithFx (List Nat) :=
  let w := s.wantW x.want
  let n := s.cnt x
  let (data, tag) := s.regOf x t
  match x.f with
  | .k _ => (List.replicate n (data % 2 ^ w), 0)
  | .t _ =>
    match x.cb with
    | some b =>
      let es := s.expand b data n x.cbHi
      if x.raw then (es.map (rawEntry (s.wantTy x.want)), 0)
      else
        let rs := es.map fun e => roundT (s.wantTy x.want) .rn (s.ftzOf x) 16 0 none (decodeF .f16 (s.ftzOf x) e)
        (rs.map (·.1), orAll (rs.map (·.2)))
    | none => if s.tagOk x.want tag then (elems data w n, 0) else s.convert x data tag

/-! ### Checks before issue (R130, R211, R113 to R115, R210) -/

/-- Budget of a register field of a class. -/
def State.regIn (s : State) (f : RF) (v : Bool) : R Unit := if v then s.vIn f else s.sIn f

/-- The banks a source reads through in the threads of a mask. -/
def State.srcBanks (s : State) (m : BitVec 8) (x : Src) : List Nat :=
  match x.cb with
  | some b => [b]
  | none => (bitsOf m).filterMap fun t =>
      let tag := (s.regOf x t).2
      if x.tagged && !s.tagOk x.want tag then s.tagBank tag else none

/-- The bank and indices a source expands in thread t. -/
def State.srcIdx (s : State) (x : Src) (t : Nat) : List (Nat × Nat) :=
  let (data, tag) := s.regOf x t
  match x.cb with
  | some b => ((s.bank s.cc b).indices data (s.cnt x) x.cbHi).map fun i => (b, i)
  | none =>
    if x.tagged && !s.tagOk x.want tag then
      match s.tagBank tag with
      | some b => (s.picked x tag).map fun i => (b, elem data (s.tagTy tag).2 i)
      | none => []
    else []

/-- TAG_MISMATCH under TRAP (R115): the threads whose tag failed, and the first failing source. -/
def State.tagCheck (s : State) (m : BitVec 8) (xs : List Src) : R Unit :=
  let bad := mask8 fun t => m.getLsbD t && xs.any fun x => !s.srcOk x t
  if s.cb.tagMode && bad ≠ 0 then
    let r := (xs.find? fun x => (bitsOf m).any fun t => !s.srcOk x t).map fun x => x.f.num
    .error (.trap { code := Code.tagMismatch, mask := bad, reg := r.getD 0xFF })
  else .ok ()

/-- INVALID_INDEX (R210): the bank, and the first failing index in ascending t. -/
def State.idxCheck (s : State) (m : BitVec 8) (idx : Nat → List (Nat × Nat)) : R Unit :=
  let inval := fun t => (idx t).find? fun p => (s.cbEntry s.cc s.cwg.launch p.1 p.2).isNone
  let bad := mask8 fun t => m.getLsbD t && (inval t).isSome
  match inval (lowest bad) with
  | some (b, i) => if bad ≠ 0 then .error (.trap { code := Code.invalidIndex, mask := bad, d0 := b, d1 := i }) else .ok ()
  | none => .ok ()

/-- Every check of the sources of a word, in the threads that take part. -/
def State.checkSrcs (s : State) (m : BitVec 8) (xs : List Src) : R Unit := do
  let _ ← xs.mapM fun x => s.regIn x.f x.v
  ready (!((xs.flatMap (s.srcBanks m)).any fun b => s.cbBusy s.cc b))
  s.tagCheck m xs
  s.idxCheck m fun t => xs.flatMap fun x => s.srcIdx x t

/-! ### Results -/

/-- A thread's result: the new bits of the destination, the flags, the tag. -/
structure Out where
  val : Nat
  fl : Nat := 0
  tag : BitVec 4
  deriving DecidableEq, Repr

/-- Write the results of a word: each taking-part thread its own, or a uniform word once, with its flags
in every taking-part thread (R101). Every source is read before anything is written. -/
def State.putOut (s : State) (h : Hd) (d : RF) (v : Bool) (f : Nat → Out) : State :=
  let m := s.part h
  match d with
  | .k n =>
    if s.acts h then
      let o := f 0
      (s.modCb fun b => b.setK n.toNat (BitVec.ofNat 32 o.val)).orFx m fun _ => o.fl
    else s
  | .t n => (bitsOf m).foldl (fun r t =>
      let o := f t
      r.modTh t fun x =>
        let x := x.orFx o.fl
        if v then x.setV n.toNat (BitVec.ofNat 256 o.val) o.tag else x.setS n.toNat (BitVec.ofNat 32 o.val) o.tag) s

/-- A Z-form source field, of a V-class word. -/
def srcA (z : ZF) (w : Want) : Src :=
  { f := z.a, v := z.V, want := w, hi := z.hiA && z.cbs ≠ 1, cb := if z.cbs = 1 then some z.cbk.toNat else none, cbHi := z.hiA, ftz := true }
def srcB (z : ZF) (w : Want) : Src :=
  { f := z.b, v := z.V, want := w, hi := z.hiB && z.cbs ≠ 2, cb := if z.cbs = 2 then some z.cbk.toNat else none, cbHi := z.hiB, ftz := true }
def srcC (z : ZF) (w : Want) : Src :=
  { f := z.c, v := z.V, want := w, hi := z.hiC && z.cbs ≠ 3, cb := if z.cbs = 3 then some z.cbk.toNat else none, cbHi := z.hiC, ftz := true }

/-- An elementwise word: check the sources, then the generator, compute each element from the elements of the sources
and its random field, write at width w. DEDUCED, unsafe (log 105). -/
def State.elementwise (s : State) (h : Hd) (d : RF) (v : Bool) (xs : List Src) (w : Nat) (tag : BitVec 4)
    (draw : Bool) (blk : Option (Nat → Nat)) (f : List Nat → Nat → Nat → WithFx Nat) : R State := do
  s.regIn d v
  s.checkSrcs (s.part h) xs
  s.canDraw draw
  let n := (if v then 256 else 32) / w
  let sw := srWidth n
  let out := fun t =>
    let es := xs.map fun x => s.srcElems x t
    let rnd := match blk with
      | some g => g t
      | none => if draw then s.block t else 0
    let rs := (List.range n).map fun i => f (es.map fun e => e.1.getD i 0) sw (elem rnd sw i)
    ({ val := ofElems w (rs.map (·.1)), fl := orAll (rs.map (·.2)) ||| orAll (es.map (·.2)), tag := tag } : Out)
  .ok ((s.putOut h d v out).drew draw)

/-- The first, second and third element of an operand list. -/
def e0 (l : List Nat) : Nat := l.getD 0 0
def e1 (l : List Nat) : Nat := l.getD 1 0
def e2 (l : List Nat) : Nat := l.getD 2 0

end Sys2Proof.Machine
end

