-- ==== Sys2Proof/Machine/Order.lean ====
section
/-! DEFINITION. The order log and Mirror mode (R309 to R313), and the spawn gatherer (R342 to R347). -/

namespace Sys2Proof.Machine

/-- LOG and MIR of a launch (R119). -/
def Launch.log? (l : Launch) : Bool := bit l.lrec.flags 1
/-- DEDUCED, unsafe (log 39). -/
def Launch.mir (l : Launch) : Bool := bit l.lrec.flags 2

/-- The party's name in a record: the creation identity of a thread, or for a uniform instruction that
of the lowest active thread (R310). -/
def State.srcOf (s : State) (t : Nat) : Nat := (s.th t).ident
def State.srcUni (s : State) : Nat := s.srcOf (lowest s.cb.active)

/-- Append a record (R311): one past the log's end ends the launch. -/
def State.logAppend (s : State) (l : Nat) (r : LogRec) : State :=
  let x := s.launch l
  if 64 + 16 * (x.log.length + 1) > x.lrec.olsz then s.launchTrap l Code.orderLogFull 0
  else s.modLaunch l fun x => { x with log := x.log ++ [r] }

/-- The next unconsumed record of a stream. -/
def Launch.nextRec (l : Launch) (kind key : Nat) : Option LogRec :=
  l.mirror.find? fun r => r.kind == kind && r.key == key

/-- Consume the next record of a stream. -/
def consume (m : List LogRec) (kind key : Nat) : List LogRec :=
  match m with
  | [] => []
  | r :: rs => if r.kind == kind && r.key == key then rs else r :: consume rs kind key

/-- A choice by a beam's party (R311, R312): appended under LOG; under MIR the beam waits for its turn,
and a record that the choice cannot honour diverges. DEDUCED, unsafe (log 39). -/
def State.choose (s : State) (kind key src chc : Nat) : R State :=
  let l := s.cl
  if l.mir then
    match l.nextRec kind key with
    | none => trap Code.mirrorDiverge
    | some r =>
      if r.src ≠ src then .error (.wait .waiting (.mirror [(kind, key, src)]))
      else if r.chc ≠ chc then trap Code.mirrorDiverge
      else .ok (s.modCl fun x => { x with mirror := consume x.mirror kind key })
  else if l.log? then .ok (s.logAppend s.cwg.launch { kind := kind, key := key, src := src, chc := chc })
  else .ok s

/-- A word whose threads take turns, each its own (R312): what the threads done so far have come to, and the
turns that the others wait for. -/
structure Turns where
  s : State
  done : BitVec 8 := 0
  ws : List RegWrite := []
  /-- threads whose word was uncorrectable -/
  bad : List Nat := []
  waits : List (Nat × Nat × Nat) := []

/-- Where the issuing word stands with its threads' turns. -/
def State.turns (s : State) : Turns :=
  match s.cb.partway with
  | some p => { s := s, done := p.done, ws := p.ws, bad := p.bad }
  | none => { s := s }

/-- One thread does its part, if it is its turn: register writes, and whether it met an error. Words whose
threads come in a fixed order (`inOrder`) stop at the first that waits. -/
def Turns.take (r : Turns) (inOrder : Bool) (t : Nat) (f : State → R (State × List RegWrite × Bool)) : R Turns :=
  if r.done.getLsbD t || (inOrder && r.waits ≠ []) then .ok r
  else match f r.s with
    | .ok (s, ws, bad) =>
      .ok { r with s := s, done := setBit r.done t true, ws := r.ws ++ ws, bad := if bad then r.bad ++ [t] else r.bad }
    | .error (.wait _ (.mirror ks)) => .ok { r with waits := r.waits ++ ks }
    | .error e => .error e

/-- Every thread of a mask in ascending t. -/
def Turns.all (r : Turns) (inOrder : Bool) (m : BitVec 8) (f : State → Nat → R (State × List RegWrite × Bool)) : R Turns :=
  (bitsOf m).foldlM (fun r t => r.take inOrder t fun s => f s t) r

/-- The word ends, or the beam waits for the turns that have not come. -/
def Turns.close (r : Turns) (k : State → State) : State × Flow :=
  if r.waits = [] then ((k r.s).modCb fun b => if b.partway.isSome then { b with partway := none } else b, .next)
  else
    let s := r.s.modCb fun b => { b with partway := some { done := r.done, ws := r.ws, bad := r.bad } }
    (s.waitAs .waiting (.mirror r.waits), .stay)

/-- Whether one of the turns that a beam waits for has come: its stream's next record names the party, or no record
is left. DEDUCED, unsafe (log 39). -/
def State.turnCome (s : State) (bk : Nat) (ts : List (Nat × Nat × Nat)) : Bool :=
  let l := s.launch (s.wg (s.beam bk).wg).launch
  ts.any fun p => match l.nextRec p.1 p.2.1 with
    | none => true
    | some r => r.src == p.2.2

/-- Whether the party the next record of a stream names has exited (R312): it has been created, no thread that lives or
waits to be placed carries its name, and no record of it waits for a bin. A bin's firing names none (R309). -/
def State.partyGone (s : State) (l kind key : Nat) : Bool :=
  let x := s.launch l
  match (if kind = 5 then none else x.nextRec kind key) with
  | none => false
  | some r =>
    if kind = 4 ∧ s.ops.any (fun o => o.emit.any fun e => e.launch == l && e.node == key % 256 && e.src == r.src) then false else
    let ours := fun (t : Thread) => t.alive && t.ident == r.src && (s.wg t.wg).launch == l
    let lives := (s.threads.any fun t => ours t.2) || s.beams.any fun b => b.2.evicted.any fun t => t.any ours
    if r.src < 2 ^ 36 then r.src % 2 ^ 20 < x.nextG && !lives
    else
      let num := r.src % 2 ^ 36
      let item := fun (i : SpawnItem) => i.launch == l && i.num == num
      let waits := (s.cores.any fun c => c.2.spawnQ.any item || c.2.groups.any fun g => g.items.any item)
        || s.queues.any fun q => q.2.spill.any fun i => item i.2
      decide (num % 2 ^ 31 < (look x.spawnCnt (num / 2 ^ 31)).getD 0) && !lives && !waits

/-- The next record of some stream of a launch under MIR names a party that has exited (R312): whoever waits there,
a beam, a queue engine or a gatherer, waits for nothing. -/
def State.mirrorLost (s : State) (l : Nat) : Bool :=
  let x := s.launch l
  x.mir && (x.st == .placing || x.st == .running) && ((x.mirror.map fun r => (r.kind, r.key)).eraseDups).any fun p => s.partyGone l p.1 p.2

/-! ### The spawn gatherer -/

/-- The spawned thread's name (R310, R343). -/
def spawnIdent (num : Nat) : Nat := 2 ^ 36 + num % 2 ^ 36

/-- Form one group of a launch's entry from the given items (R344, R345, R347). DEDUCED, unsafe (log 50). -/
def State.formGroup (s : State) (core launch e : Nat) (items : List SpawnItem) : State :=
  match items with
  | [] => s
  | it :: _ =>
    let l := s.launch launch
    let n := (look l.groupCnt e).getD 0
    let s := s.modLaunch launch fun x => { x with groupCnt := put x.groupCnt e ((n + 1) % 2 ^ 32) }
    let s := s.modCore core fun c =>
      { c with spawnQ := c.spawnQ.filter fun x => !items.any fun y => y.num == x.num && y.launch == x.launch,
               groups := c.groups ++ [{ launch := launch, gang := it.gang, e := e, num := n, items := items }] }
    if l.log? then
      (items.zip (List.range items.length)).foldl
        (fun s p => s.logAppend launch
          { kind := 6, key := e + 2 ^ 47, src := spawnIdent p.1.num, chc := p.2 + 256 * (n % 2 ^ 24) }) s
    else s

/-- Threads per group of an entry: 8·beams (R344). -/
def Launch.groupSize (l : Launch) (e : Nat) : Nat :=
  8 * match l.obj.spawns[e]? with
    | some x => x.beams
    | none => 1

/-- The items of one launch's entry waiting on a core, oldest first. -/
def State.waitingAt (s : State) (core launch e : Nat) : List SpawnItem :=
  (s.core core).spawnQ.filter fun x => x.launch == launch && x.e == e

/-- The core at whose gatherer a thread waits. -/
def State.gathererOf (s : State) (launch e src : Nat) : Option Nat :=
  (s.cores.find? fun c => c.2.spawnQ.any fun y => y.launch == launch && y.e == e && spawnIdent y.num == src).map (·.1)

/-- The records of a group name the entry's next group number and its threads' places in order, as many as fit (R309, R347). -/
def Launch.groupAsLogged (l : Launch) (e : Nat) (run : List LogRec) : Bool :=
  decide (run.length ≤ l.groupSize e) && run.zipIdx.all fun p => p.1.chc == p.2 + 256 * ((look l.groupCnt e).getD 0 % 2 ^ 24)

/-- Under MIR a group forms exactly when every thread of the stream's next run of equal workgroup numbers waits at
one gatherer; a run whose threads wait on two cores or whose records cannot be honoured diverges, and so does a thread
that waits when no record is left (R312, R347). DEDUCED, unsafe (log 39). -/
def State.gatherMir (s : State) (launch e : Nat) : Nat → State
  | 0 => s
  | fuel + 1 =>
    let l := s.launch launch
    let key := e + 2 ^ 47
    match l.nextRec 6 key with
    | none =>
      if s.cores.any fun c => c.2.spawnQ.any fun y => y.launch == launch && y.e == e then
        s.launchTrap launch Code.mirrorDiverge 0
      else s
    | some r =>
      let run := (l.mirror.filter fun x => x.kind == 6 && x.key == key).takeWhile fun x => x.chc / 256 == r.chc / 256
      let places := run.map fun x => s.gathererOf launch e x.src
      match places.filterMap id with
      | [] => s
      | core :: cs =>
        if cs.any (· ≠ core) || !l.groupAsLogged e run then s.launchTrap launch Code.mirrorDiverge 0
        else if places.all (·.isSome) then
          let w := s.waitingAt core launch e
          let items := run.filterMap fun x => w.find? fun y => spawnIdent y.num == x.src
          let s := s.modLaunch launch fun x => { x with mirror := run.foldl (fun m _ => consume m 6 key) x.mirror }
          (s.formGroup core launch e items).gatherMir launch e fuel
        else s

/-- Form groups of an entry while enough threads wait: full groups, or any with `all` (a flush). -/
def State.gather (s : State) (core launch e : Nat) (all : Bool) : Nat → State
  | 0 => s
  | fuel + 1 =>
    let l := s.launch launch
    let w := s.waitingAt core launch e
    if l.mir then s.gatherMir launch e (fuel + 1)
    else
      let n := l.groupSize e
      if n ≤ w.length ∨ (all ∧ w ≠ []) then
        (s.formGroup core launch e (w.take n)).gather core launch e all fuel
      else s

/-- The oldest thread waiting at an entry was accepted 256 clk ago, and MIR does not rule (R344, R347).
DESIGN CHOICE, unsafe (log 15). -/
def State.overdue (s : State) (core launch e : Nat) : Bool :=
  match s.waitingAt core launch e with
  | [] => false
  | it :: _ => !(s.launch launch).mir && it.at_ + 256 ≤ s.sched.clk

/-- Of a core's overdue entries the one whose oldest thread was accepted first. -/
def State.overdueFirst (s : State) (core : Nat) : Option (Nat × Nat) :=
  ((s.core core).spawnQ.map fun i => (i.launch, i.e)).find? fun p => s.overdue core p.1 p.2

/-- Every overdue entry of a core forms its group (R344): before a SPAWN of the core is accepted, whatever else the
core has to do (R442). -/
def State.gatherDue (s : State) (core : Nat) : State :=
  (((s.core core).spawnQ.map fun i => (i.launch, i.e)).eraseDups).foldl (fun s p =>
    if s.overdue core p.1 p.2 then s.formGroup core p.1 p.2 ((s.waitingAt core p.1 p.2).take ((s.launch p.1).groupSize p.2)) else s) s

/-- The flush of YIELD, AWAIT and JWAIT (R344): every entry that holds a thread the issuing workgroup
spawned forms groups from all its waiting threads. -/
def State.flushSpawn (s : State) : State :=
  let g := s.cb.wg
  let l := s.cwg.launch
  if s.cl.mir then s
  else
    let es := (List.range 32).filter fun e => (s.waitingAt s.cc l e).any fun x => x.wg == g
    es.foldl (fun s e => s.gather s.cc l e true 2049) s

end Sys2Proof.Machine
end

