-- ==== Sys2Proof/Machine/Bins.lean ====
section
/-! DEFINITION. The queue engines' bins of a work graph (R356, R357, R359) and the spawn queue with its
spill FIFO (R342, R343, R346). -/

namespace Sys2Proof.Machine

/-! ### Bins -/

/-- NOW in nanoseconds (R377). -/
def State.now (s : State) : Nat := s.time.sec * 1000000000 + s.time.ns

/-- Bytes of a bin slot (R356). DEDUCED, unsafe (log 33). -/
def Node.slotSize (n : Node) : Nat := roundUp (n.count * n.size * 16) 64

/-- The open bin of a node. -/
def Launch.openBin (l : Launch) (node : Nat) : Option Bin := l.bins.find? fun b => b.node == node && !b.fired

/-- The lowest free slot of a node. -/
def Launch.freeSlot (l : Launch) (node : Nat) : Option Nat :=
  (List.range ((l.obj.nodes[node]?).elim 0 (·.nslot))).find? fun i => !l.bins.any fun b => b.node == node && b.slot == i

def binKey (node num : Nat) : Nat := node + 256 * (num % 2 ^ 40)

/-- The same bin. -/
def Bin.same (x y : Bin) : Bool := x.node == y.node && x.num == y.num

/-- A bin fires (R357): it takes its place in the firing order, and its firing is logged. -/
def State.fireBin (s : State) (l : Nat) (b : Bin) (timer : Bool) : State :=
  let x := s.launch l
  let s := s.modLaunch l fun x =>
    { x with bins := x.bins.map fun y => if y.same b then { y with fired := true, byTimer := timer, order := x.fireCnt } else y,
             fireCnt := x.fireCnt + 1 }
  if x.log? then s.logAppend l { kind := 5, key := binKey b.node b.num, src := 0, chc := b2n timer + 2 * b.recs.length } else s

/-- Whether a bin that has just taken a record fires: at its count, or under MIR exactly as logged. -/
def State.binFull (s : State) (l : Nat) (b : Bin) : State :=
  let x := s.launch l
  let n := (x.obj.nodes[b.node]?).elim 1 (·.count)
  if x.mir then
    match x.nextRec 5 (binKey b.node b.num) with
    | none => s.launchTrap l Code.mirrorDiverge 0
    | some r =>
      if r.chc / 2 % 512 = b.recs.length % 512 then
        (s.modLaunch l fun x => { x with mirror := consume x.mirror 5 (binKey b.node b.num) }).fireBin l b (r.chc % 2 == 1)
      else if n ≤ b.recs.length then s.launchTrap l Code.mirrorDiverge 0
      else s
  else if n ≤ b.recs.length then s.fireBin l b false
  else s

/-- The bin that a record goes to: the open one of its node, or one that opens in a free slot. DEDUCED, unsafe (log 33). -/
def State.binFor (s : State) (e : Emit) : Option Bin :=
  let x := s.launch e.launch
  match x.openBin e.node with
  | some b => some b
  | none => (x.freeSlot e.node).map fun sl =>
      { node := e.node, num := (look x.binCnt e.node).getD 0, slot := sl, recs := [], opened := s.now, fired := false, byTimer := false,
        order := 0 : Bin }

/-- Where the next record of a bin lies in the ring of its node (R356). -/
def Node.place (n : Node) (b : Bin) : Nat := n.ring + b.slot * n.slotSize + b.recs.length * n.size * 16

/-- Put one record into its node's bin, opening one where none is open: none when it must wait, for a
slot or under MIR for its turn. DEDUCED, unsafe (log 33). -/
def State.emitOne (s : State) (e : Emit) : Option State :=
  let l := e.launch
  let x := s.launch l
  match s.binFor e, x.obj.nodes[e.node]? with
  | some b, some n =>
    let pos := b.recs.length
    let key := binKey b.node b.num
    let turn := if x.mir then
        match x.nextRec 4 key with
        | none => some false
        | some r => if r.src ≠ e.src then none else some (r.chc == pos)
      else some true
    match turn with
    | none => none
    | some false => some (s.launchTrap l Code.mirrorDiverge 0)
    | some true =>
      let s := if x.mir then s.modLaunch l fun x => { x with mirror := consume x.mirror 4 key }
        else if x.log? then s.logAppend l { kind := 4, key := key, src := e.src, chc := pos } else s
      let b' := { b with recs := b.recs ++ [e.bytes] }
      let s := s.modLaunch l fun x =>
        if (x.openBin e.node).isSome then { x with bins := x.bins.map fun y => if y.same b then b' else y }
        else { x with bins := x.bins ++ [b'], binCnt := put x.binCnt e.node (b.num + 1) }
      let s := s.poke {} (n.place b) e.bytes
      some (s.binFull l b')
  | _, _ => none

/-- An earlier NEMIT has records left for the same node, which come first: the records of one NEMIT to one node are
consecutive (R357). Under MIR the log gives the order. -/
def State.emitAhead (s : State) (before : Nat) (e : Emit) : Bool :=
  !(s.launch e.launch).mir && s.ops.any fun o => decide (o.id < before) && o.emit.any fun y => y.launch == e.launch && y.node == e.node

/-- Put records into bins in order, up to the first that must wait; one whose bins are out of reach is lost, and its
thread is named (R450). DEDUCED, unsafe (log 35). -/
def State.emitAll (s : State) (before : Nat) : List Emit → State × List Emit × BitVec 8
  | [] => (s, [], 0)
  | e :: es =>
    if s.engineDown e.node then
      let (s, rest, gone) := s.emitAll before es
      (s, rest, gone ||| BitVec.ofNat 8 (2 ^ e.t))
    else match (if s.emitAhead before e then none else s.emitOne e) with
      | some s => s.emitAll before es
      | none => (s, e :: es, 0)

/-- Go on with the records of an operation in flight, whatever has become of its beam (R358).
DEDUCED, unsafe (log 35). -/
def State.emitOp (s : State) (o : Op) : State :=
  let (s, rest, gone) := s.emitAll o.id o.emit
  { s with ops := s.ops.map fun x =>
      if x.id = o.id then { x with emit := rest, fault := if gone = 0 then x.fault else some (x.lose gone 0) } else x }

/-- The bins still open when a launch has nothing else left fire at once, as a timer firing (R361); under MIR each as
its next record says, and one without a record diverges (R312). -/
def State.fireRest (s : State) (l : Nat) : State :=
  (s.launch l).bins.foldl (fun s b =>
    let x := s.launch l
    if b.fired then s
    else if x.mir then
      match x.nextRec 5 (binKey b.node b.num) with
      | some r =>
        if r.chc = 1 + 2 * (b.recs.length % 512) then
          (s.modLaunch l fun x => { x with mirror := consume x.mirror 5 (binKey b.node b.num) }).fireBin l b true
        else s.launchTrap l Code.mirrorDiverge 0
      | none => s.launchTrap l Code.mirrorDiverge 0
    else s.fireBin l b true) s

/-! ### The spawn queue -/

/-- A core's threads in the FIFO of a spill queue, oldest first (R335, R346). -/
def State.spilled (s : State) (q core : Nat) : List SpawnItem :=
  ((s.queue q).spill.filter fun x => x.1 == core).map (·.2)

/-- Threads the core can still accept for a launch: in its spawn queue, and in the spill queue. -/
def State.spawnRoom (s : State) (l core : Nat) : Nat :=
  let q := (s.launch l).lrec.spillq
  let sp := (s.queue q).cap - (s.queue q).depth
  if s.spilled q core = [] then sp + (2048 - (s.core core).spawnQ.length) else sp

/-- 64 bytes the spec gives no form: the ring entry of a spilled thread. -/
def State.freeBytes (s : State) : Nat → List Byte × State
  | 0 => ([], s)
  | n + 1 =>
    let (v, s) := s.draw
    let (bs, s) := s.freeBytes n
    (BitVec.ofNat 8 v :: bs, s)

/-- Push a thread to its core's FIFO in the spill queue of its launch (R346). -/
def State.spillThread (s : State) (core : Nat) (it : SpawnItem) : State :=
  let q := (s.launch it.launch).lrec.spillq
  let x := s.queue q
  let (bs, s) := s.freeBytes 64
  let s := s.poke {} (x.ring + 64 * (x.push % x.cap)) bs
  { s with queues := put s.queues q { x with spill := x.spill ++ [(core, it)], push := (x.push + 1) % 2 ^ 32 } }

/-- The spawn queue of the core takes a thread: it has room, and no thread of the core waits in the spill queue. -/
def State.spawnTakes (s : State) (core : Nat) (it : SpawnItem) : Bool :=
  s.spilled (s.launch it.launch).lrec.spillq core == [] && decide ((s.core core).spawnQ.length < 2048)

/-- A thread that must be spilled cannot be: the engine of the spill queue is out of reach (R450). -/
def State.spillLost (s : State) (core : Nat) (it : SpawnItem) : Bool :=
  !s.spawnTakes core it && s.engineDown (s.launch it.launch).lrec.spillq

/-- Accept one spawned thread (R343, R346). -/
def State.acceptSpawn (s : State) (core : Nat) (it : SpawnItem) : State :=
  if s.spawnTakes core it then
    s.modCore core fun c => { c with spawnQ := c.spawnQ ++ [it] }
  else s.spillThread core it

/-- Move the oldest spilled threads of a core back into its spawn queue as room frees (R346). -/
def State.refillSpawn (s : State) (q core : Nat) : Nat → State
  | 0 => s
  | n + 1 =>
    match s.spilled q core with
    | [] => s
    | it :: _ =>
      if (s.core core).spawnQ.length < 2048 && !s.engineDown q then
        let x := s.queue q
        let x := { x with spill := x.spill.eraseP fun y => y.1 == core, pop := (x.pop + 1) % 2 ^ 32 }
        let s := { s with queues := put s.queues q x }
        (s.modCore core fun c => { c with spawnQ := c.spawnQ ++ [it] }).refillSpawn q core n
      else s

end Sys2Proof.Machine
end

