-- ==== Sys2Proof/Machine/Retire.lean ====
section
/-! DEFINITION. What follows when a beam becomes EXITED: the workgroup retires (R131, R348), its launch
enters ENDING (R361); and the end of a path (R148) with the compaction unit (R156, R157). -/

namespace Sys2Proof.Machine

/-- A live spawned thread, or one still waiting to be placed, holds a reference to a counter in the
scratchpad of this workgroup (R348). -/
def State.referenced (s : State) (wg : Nat) : Bool :=
  let refs := fun (j : Option JoinRef) => match j with
    | some (.scratch w _) => w == wg
    | _ => false
  (s.threads.any fun x => x.2.alive && refs x.2.join)
    || (s.beams.any fun b => b.2.evicted.any fun t => t.any fun t => t.alive && refs t.join)
    || (s.cores.any fun c => (c.2.spawnQ.any fun i => refs i.join) || c.2.groups.any fun g => g.items.any fun i => refs i.join)
    || s.queues.any fun q => q.2.spill.any fun i => refs i.2.join

/-- Workgroups that have not retired. -/
def State.liveWgs (s : State) (p : Wg → Bool) : List Nat := (s.wgs.filter fun x => !x.2.retired && p x.2).map (·.1)

/-- Clear a bank that its launch no longer uses on this core (R207). -/
def Bank.release (b : Bank) : Bank := { b with valid := 0, ew := 0, iw := 0, owner := none }

/-- R207, R224: release what the launch and the gang no longer use on a core. -/
def State.releaseCore (s : State) (core launch gang : Nat) : State :=
  let s := if (s.liveWgs fun g => g.core == core && g.launch == launch) = [] then
      s.modCore core fun c => { c with banks := c.banks.map fun x => if x.2.owner = some launch then (x.1, x.2.release) else x }
    else s
  if (s.liveWgs fun g => g.core == core && g.gang == gang) = [] && (s.core core).accHold == some gang then
    s.modCore core fun c => { c with accHold := none }
  else s

/-- Spawned threads of a launch not yet placed, and those of one of its gangs. -/
def State.spawnsLeft (s : State) (l : Nat) : Bool :=
  (s.cores.any fun c => (c.2.spawnQ.any fun i => i.launch == l) || c.2.groups.any fun g => g.launch == l)
    || s.queues.any fun q => q.2.spill.any fun i => i.2.launch == l
def State.gangSpawns (s : State) (gang : Nat) : Bool :=
  (s.cores.any fun c => (c.2.spawnQ.any fun i => i.gang == gang) || c.2.groups.any fun g => g.gang == gang)
    || s.queues.any fun q => q.2.spill.any fun i => i.2.gang == gang

/-- Records of a launch that still wait for a bin (R358). -/
def State.emitsLeft (s : State) (l : Nat) : Bool := s.ops.any fun o => o.emit.any fun e => e.launch == l

/-- Under MIR, threads that wait at gatherers after the last workgroup has retired, and that no coming thread can
complete to a run: their records stay unconsumed (R312). -/
def State.stranded (s : State) (l : Nat) : Bool :=
  (s.launch l).mir && (s.cores.any fun c => c.2.spawnQ.any fun i => i.launch == l) && !(s.cores.any fun c => c.2.groups.any fun g => g.launch == l)
    && (s.queues.all fun q => q.2.spill.all fun i => i.2.launch ≠ l) && !(s.launch l).bins.any (·.fired)

/-- R361: a launch whose work is over enters ENDING; when only open bins are left they fire as a timer
firing. Under MIR records left unconsumed diverge (R312). -/
def State.launchOver (s : State) (l : Nat) : State :=
  let x := s.launch l
  if x.st = .running ∧ (s.liveWgs fun g => g.launch == l) = [] ∧ x.trapped.isNone ∧ !s.emitsLeft l then
    if s.spawnsLeft l then (if s.stranded l then s.launchTrap l Code.mirrorDiverge 0 else s)
    else if x.bins.any (·.fired) then s
    else if x.bins ≠ [] then s.fireRest l
    else if x.mir && x.mirror ≠ [] then s.launchTrap l Code.mirrorDiverge 0
    else s.modLaunch l fun x => { x with st := .ending }
  else s

/-- The beam slots, thread slots and scratchpad of a workgroup are free (R131). -/
def State.freeWg (s : State) (wg : Nat) : State :=
  let g := s.wg wg
  let s := { s with beams := s.beams.filter fun x => !g.beams.contains x.1,
                    threads := s.threads.filter fun x => x.2.wg ≠ wg,
                    wgs := upd s.wgs wg fun g => { g with freed := true, beams := [] } }
  s.releaseCore g.core g.launch g.gang

/-- A workgroup of a role (R120). -/
def Wg.inRole (g : Wg) : Bool :=
  match g.kind with
  | .launch r => r ≠ 0
  | _ => false

/-- R131, R348: a workgroup retires when every beam is EXITED and no live spawned thread refers to its
scratchpad. One of a role frees nothing until the last workgroup of its gang retires (R362). -/
def State.retire (s : State) (wg : Nat) : State :=
  let g := s.wg wg
  if !g.retired && g.beams ≠ [] && (g.beams.all fun bk => (s.beam bk).st == .exited) && !s.referenced wg then
    let s := { s with wgs := upd s.wgs wg fun g => { g with retired := true, stack := [], brw := none, swHold := none, swreq := 0 } }
    let last := (s.liveWgs fun x => x.gang == g.gang) = []
    let s := if g.inRole && !last then s else s.freeWg wg
    let s := if last then ((s.wgs.filter fun x => x.2.gang == g.gang && !x.2.freed).map (·.1)).foldl State.freeWg s else s
    let s := if last then { s with gangs := if s.gangSpawns g.gang then s.gangs else del s.gangs g.gang } else s
    s.launchOver g.launch
  else s

/-! ### DET drains (R294, R295) -/

/-- The partials a beam recorded since its last DETDRAIN belong to the workgroup's next drain. -/
def State.markPartials (s : State) (wg b num : Nat) : State :=
  { s with mem := { s.mem with partials := s.mem.partials.map fun p =>
      if p.wg = wg ∧ p.beam = b ∧ p.drain = none then { p with drain := some num } else p } }

/-- The drain starts when every non-exited beam has issued a DETDRAIN since the last start. -/
def State.detStart (s : State) (wg : Nat) : State :=
  let g := s.wg wg
  let bks := s.alive g
  if bks ≠ [] && bks.all fun bk => (s.beam bk).detDone then
    let gone := g.beams.filter fun bk => (s.beam bk).st == .exited
    let s := gone.foldl (fun s bk => s.markPartials wg (s.beam bk).b (g.detNum + 1)) s
    let s := bks.foldl (fun s bk => s.modBeam bk fun b => { b with detDone := false }) s
    s.modWg wg fun g => { g with detNum := g.detNum + 1, drains := g.drains ++ [{ num := g.detNum + 1, release := false }] }
  else s

/-! ### The compaction unit (R156) -/

/-- Cut a list into lists of 8. -/
def chunks8 : Nat → List Nat → List (List Nat)
  | 0, _ => []
  | _, [] => []
  | n + 1, l => l.take 8 :: chunks8 n (l.drop 8)

/-- Ascending order of slot numbers. -/
def sortNat (l : List Nat) : List Nat := (List.range 512).filter fun i => l.contains i

/-- The threads of a set that have not exited. -/
def State.stillAlive (s : State) (core : Nat) (l : List Nat) : List Nat :=
  l.filter fun sl => (s.thread (core * 512 + sl)).alive && (look s.threads (core * 512 + sl)).isSome

/-- The slot numbers that an open BRW keeps, renamed. -/
def Brw.renamed (w : Brw) (f : Nat → Nat) : Brw :=
  { w with orig := w.orig.map fun o => { o with list := o.list.map fun x => x.map f }, taken := w.taken.map f, fall := w.fall.map f }

/-- Run one path: list j of the set runs in the beam slot of beam j; the other beams wait. The beams are bound one
after another in ascending b, the others counting where they stand. The latches of R227 are emptied at the compaction and
here. DEDUCED, unsafe (log 72). DESIGN CHOICE, unsafe (log 95). DESIGN CHOICE, unsafe (log 123). -/
def State.runPath (s : State) (wg : Nat) (set : List Nat) (pc : W64) : State :=
  let g := s.wg wg
  let ls := chunks8 64 set
  let ids := g.beams.zip (List.range g.beams.length)
  ids.foldl (fun s p =>
    match ls[p.2]? with
    | some l =>
      let m := mask8 fun t => t < l.length
      let s := s.modBeam p.1 fun b =>
        { b with list := (List.range 8).map fun t => l[t]?, live := m, active := m,
                 pc := pc, pos := 0, mid := false, buf := [], latch := none, passed := 0 }
      (s.bind p.1).gate p.1
    | none => s.modBeam p.1 fun b =>
        if b.st = .exited then b
        else { b with list := [], live := 0, active := 0, st := .waiting, wait := .brwPath, mid := false, buf := [], latch := none }) s

/-- Restore every original list at the join; a beam whose threads have all exited becomes EXITED, which may let a
drain start (R295). A beam keeps its lane (R20); one that has none, since the compacted beam in its slot has exited, is
bound anew. DESIGN CHOICE, unsafe (log 95). DESIGN CHOICE, unsafe (log 96). -/
def State.restoreLists (s : State) (wg : Nat) (jn : W64) : State :=
  let g := s.wg wg
  match g.brw with
  | none => s
  | some w =>
    let s := s.modWg wg fun g =>
      { g with brw := none, stack := match brwIdx g.stack with
          | some i => g.stack.eraseIdx i
          | none => g.stack }
    let ids := g.beams.zip (List.range g.beams.length)
    let s := ids.foldl (fun s p =>
      match w.orig.find? fun o => o.beam == p.2 with
      | some o =>
        let live := mask8 fun t => match o.list.getD t none with
          | some sl => s.stillAlive g.core [sl] ≠ []
          | none => false
        if live = 0 then
          s.modBeam p.1 fun b => { b with list := o.list, live := 0, active := 0, st := .exited, wait := .none, lane := none }
        else
          let s := s.modBeam p.1 fun b =>
            { b with list := o.list, live := live, active := o.active &&& live,
                     pc := jn, pos := 0, mid := false, buf := [], passed := 0 }
          (if (s.beam p.1).lane.isNone then s.bind p.1 else s).gate p.1
      | none => s.modBeam p.1 fun b => { b with live := 0, active := 0, st := .exited, wait := .none, lane := none }) s
    (s.retire wg).detStart wg

/-- When every compacted beam of the path has arrived at its RECONV or exited, the next nonempty path
runs, and after path 1 the original lists come back. With no live thread left nothing more runs.
DEDUCED, unsafe (log 72). -/
def State.brwAdvance (s : State) (wg : Nat) : State :=
  let g := s.wg wg
  match g.brw, brwIdx g.stack with
  | some w, some i =>
    let ended := g.beams.all fun bk => (s.beam bk).st == .exited || ((s.beam bk).st == .waiting && (s.beam bk).wait == .brwPath)
    match g.stack[i]? with
    | some e =>
      if !ended then s
      else if s.stillAlive g.core (w.taken ++ w.fall) = [] then s.restoreLists wg e.jn
      else if w.path = 0 ∧ s.stillAlive g.core w.fall ≠ [] then
        let s := s.modWg wg fun g => { g with brw := some { w with path := 1 }, stack := g.stack.set i { e with next := 2 } }
        s.runPath wg (s.stillAlive g.core w.fall) e.ft
      else s.restoreLists wg e.jn
    | none => s
  | _, _ => s

/-- A beam becomes EXITED (R349): unbound, latch dropped; the workgroup may retire, a rendezvous or a
BRW path may now be complete. The rendezvous themselves are tested by the caller.
DESIGN CHOICE, unsafe (log 96). -/
def State.exitBeam (s : State) (bk : Nat) : State :=
  let wg := (s.beam bk).wg
  let s := s.modBeam bk fun b => { b with st := .exited, wait := .none, lane := none, latch := none }
  let s := s.brwAdvance wg
  s.retire wg

/-! ### The end of a path (R147, R148) -/

/-- The last path number of an entry. -/
def RKind.last : RKind → Nat
  | .br => 1
  | .brm => 4
  | .loop => 0
  | .brw => 1

/-- The first path from `next` on that a live thread takes, with its mask. -/
def REntry.nextPath (e : REntry) (live : BitVec 8) : Option (Nat × BitVec 8) :=
  if e.kind = .loop then none
  else ((List.range (e.kind.last + 1)).find? fun i => e.next ≤ i && (e.m.getD i 0 &&& live) ≠ 0).map
    fun i => (i, e.m.getD i 0 &&& live)

/-- The address of path i (R147). -/
def REntry.pathAddr (e : REntry) (i : Nat) : W64 :=
  match e.kind with
  | .br => if i = 0 then e.tg else e.ft
  | .brm => if i < 4 then e.tg + BitVec.ofNat 64 (16 * i) else e.ft
  | .loop => e.ft
  | .brw => if i = 0 then e.tg else e.ft

/-- The accesses of a beam that BRW puts on other slots, or takes from them, have been performed, so that a later release
there covers them (R281, R293). DEDUCED, unsafe (log 72). -/
def State.handsOver (s : State) (bk : Nat) : Bool := !s.untracked bk .sys

/-- PathEnd of a beam's current entry. A beam left with live threads but no entry has no fate in the
spec (R144). DESIGN CHOICE, safe (log 13). DEDUCED, unsafe (log 73). -/
def State.pathEnd (s : State) (bk : Nat) : Nat → R State
  | 0 => .error (.fault .noFate)
  | fuel + 1 =>
    let b := s.beam bk
    let g := s.wg b.wg
    match currentIdx g.stack b.b with
    | none => if b.live = 0 then .ok (s.exitBeam bk) else .error (.fault .noFate)
    | some i =>
      match g.stack[i]? with
      | none => .error (.fault .noFate)
      | some e =>
        if e.kind = .brw then do
          ready (s.handsOver bk)
          let s := s.endClause bk e.jn
          let s := s.modBeam bk fun b => { b with st := .waiting, wait := .brwPath }
          .ok (s.brwAdvance b.wg)
        else
          match e.nextPath b.live with
          | some (j, m) =>
            let s := s.modWg b.wg fun g => { g with stack := g.stack.set i { e with next := j + 1 } }
            let s := s.modBeam bk fun b => { b with active := m }
            .ok (s.endClause bk (e.pathAddr j))
          | none =>
            let s := s.modWg b.wg fun g => { g with stack := g.stack.eraseIdx i }
            let act := (if e.kind = .loop then e.m.getD 0 0 else e.rmask) &&& b.live
            let s := s.modBeam bk fun b => { b with active := act }
            let s := s.endClause bk (if e.kind = .loop then e.ft else e.jn)
            if act = 0 then (if b.live = 0 then .ok (s.exitBeam bk) else s.pathEnd bk fuel) else .ok s

/-- The last live thread of a beam exits (R148): the path it was on has ended, so that the beam's own top entry is
popped. -/
def State.lastPath (s : State) (bk : Nat) : State :=
  let b := s.beam bk
  match ownTopIdx (s.wg b.wg).stack b.b with
  | some i => s.modWg b.wg fun g => { g with stack := g.stack.eraseIdx i }
  | none => s

/-! ### The rendezvous of BRW (R156, R157) -/

/-- Beams that a rendezvous waits for: not exited, and not waiting at the end of a BRW path. -/
def State.parties (s : State) (g : Wg) : List Nat :=
  (s.alive g).filter fun bk => !((s.beam bk).st == .waiting && (s.beam bk).wait == .brwPath)

def Wait.isBrw : Wait → Bool
  | .brw _ _ _ => true
  | _ => false
def Wait.isSwitch : Wait → Bool
  | .vswitch _ => true
  | _ => false

/-- Give each of these beams a trap of its own, with its live mask; each enters its handler by a step
of its own. -/
def State.trapAll (s : State) (bks : List Nat) (code : Nat) : State :=
  bks.foldl (fun s bk => s.modBeam bk fun b => { b with pend := some { code := code, mask := b.live } }) s

/-- Compact the workgroup at a BRW whose beams have all arrived. DEDUCED, unsafe (log 72). -/
def State.compact (s : State) (wg : Nat) (bks : List Nat) : State :=
  match bks with
  | [] => s
  | bk0 :: _ =>
    let b0 := s.beam bk0
    match b0.wait with
    | .brw _ tg jn =>
      let sets := bks.foldl (fun (p : List Nat × List Nat) bk =>
        let b := s.beam bk
        let tk := match b.wait with
          | .brw m _ _ => m
          | _ => 0
        (bitsOf b.active).foldl (fun p t =>
          match b.list.getD t none with
          | some sl => if tk.getLsbD t then (sl :: p.1, p.2) else (p.1, sl :: p.2)
          | none => p) p) ([], [])
      let orig := bks.map fun bk => let b := s.beam bk; { beam := b.b, list := b.list, active := b.active : BrwOrig }
      let t := sortNat sets.1
      let n := sortNat sets.2
      let w : Brw := { orig := orig, taken := t, fall := n, path := if t = [] then 1 else 0 }
      let e : REntry := { beam := 0, kind := .brw, next := if t = [] then 2 else 1, jn := jn, tg := tg, ft := b0.fall }
      let s := s.modWg wg fun g => { g with brw := some w, stack := g.stack ++ [e] }
      if t = [] then s.runPath wg n b0.fall else s.runPath wg t tg
    | _ => s

/-- Complete the BRW rendezvous of a workgroup, or raise the traps of R156, R157 and R146, when every beam it
waits for has arrived. DEDUCED, unsafe (log 72). -/
def State.brwTry (s : State) (wg : Nat) : State :=
  let g := s.wg wg
  let bks := s.parties g
  let ws := bks.map fun bk => s.beam bk
  if bks = [] ∨ !(ws.all fun b => b.st == .waiting && b.pend.isNone && (b.wait.isBrw || b.wait.isSwitch)) then s
  else if ws.any (fun b => b.wait.isBrw) && ws.any (fun b => b.wait.isSwitch) then
    s.trapAll bks Code.illegalConvergence
  else if ws.all fun b => b.wait.isSwitch then s
  else
    let bad := g.brw.isSome
      || (ws.any fun b => ownCount g.stack b.b ≠ 0 || b.active ≠ b.live)
      || (ws.any fun b => b.pc ≠ (ws.headD {}).pc)
    if bad then s.trapAll bks Code.illegalConvergence
    else if 32 ≤ g.stack.length then s.trapAll bks Code.rstackOverflow
    else s.compact wg bks

end Sys2Proof.Machine
end

