-- ==== Sys2Proof/Machine/Rendezvous.lean ====
section
/-! DEFINITION. What happens when the beams of a workgroup meet: the variant switch (R136), and what an exiting beam sets going (R349, R295, R136, R156). -/

namespace Sys2Proof.Machine

/-! ### The variant switch (R77, R136) -/

/-- Bytes of one copy of a place, by class (R77). -/
def placeBytes (s : State) (bk : Nat) (cls reg t : Nat) : List Byte :=
  let b := s.beam bk
  let x := s.thread (tkeyOf bk b t)
  match cls with
  | 0 => bytesOfNat 32 (x.getV reg).toNat
  | 1 => bytesOfNat 4 (x.getS reg).toNat
  | 2 => [p7 x.p]
  | 3 => bytesOfNat 4 (b.getK reg).toNat
  | _ => bytesOfNat 1 b.kp.toNat

/-- Where a copy lies in the switch area: per thread for v, s and p, per beam for k and kp. -/
def placeOff (cls b t : Nat) : Nat :=
  match cls with
  | 0 => 32 * (8 * b + t)
  | 1 => 4 * (8 * b + t)
  | 2 => 8 * b + t
  | 3 => 4 * b
  | _ => b

/-- Key of a byte of a workgroup's allocation. -/
def spadAt (g : Wg) (off : Nat) : Nat := sramKey g.core (g.spadBase + off)

/-- Store a beam's registers into the switch area by the old variant's map. DEDUCED, unsafe (log 75). -/
def State.spill (s : State) (g : Wg) (bk : Nat) (pt : SwPoint) : State :=
  let b := s.beam bk
  pt.places.foldl (fun s p =>
    let ts := if p.cls ≤ 2 then (List.range 8).filter fun t => (b.list.getD t none).isSome else [0]
    ts.foldl (fun s t =>
      s.pokeS (spadAt g (4096 * pt.area + 32 * p.off + placeOff p.cls b.b t)) (placeBytes s bk p.cls p.reg t)) s) s

/-- Load one copy of a place into the register the target's map names; a loaded register's tag is 15. -/
def State.unspillOne (s : State) (g : Wg) (bk : Nat) (area : Nat) (p : Place) (t : Nat) : State :=
  let b := s.beam bk
  let rd := fun n => natOfBytes (getBs s.mem.scratch (spadAt g (4096 * area + 32 * p.off + placeOff p.cls b.b t)) n)
  let tk := tkeyOf bk b t
  match p.cls with
  | 0 => s.modThread tk fun x => x.setV p.reg (BitVec.ofNat 256 (rd 32)) 15
  | 1 => s.modThread tk fun x => x.setS p.reg (BitVec.ofNat 32 (rd 4)) 15
  | 2 => s.modThread tk fun x => { x with p := BitVec.ofNat 7 (rd 1) }
  | 3 => s.modBeam bk fun b => b.setK p.reg (BitVec.ofNat 32 (rd 4))
  | _ => s.modBeam bk fun b => { b with kp := BitVec.ofNat 4 (rd 1) }

/-- DEDUCED, unsafe (log 75). -/
def State.unspill (s : State) (g : Wg) (bk : Nat) (pt : SwPoint) : State :=
  let b := s.beam bk
  pt.places.foldl (fun s p =>
    let ts := if p.cls ≤ 2 then (List.range 8).filter fun t => (b.list.getD t none).isSome else [0]
    ts.foldl (fun s t => s.unspillOne g bk pt.area p t) s) s

/-- The beams past a number end with their threads: a target variant with fewer beams has no place for them. No switch
point of an image that pyas makes leads there (R77). DESIGN CHOICE, unsafe (log 119). -/
def State.endPast (s : State) (wg n : Nat) : State :=
  let out := (s.wg wg).beams.drop n
  let keys := out.flatMap fun bk => (s.beam bk).list.filterMap fun x => x.map fun sl => coreOf bk * 512 + sl
  { s with
    threads := s.threads.filter fun x => !keys.contains x.1,
    beams := s.beams.filter fun x => !out.contains x.1,
    wgs := upd s.wgs wg fun g => { g with beams := g.beams.take n } }

/-- Move the threads of beams to new slots with empty registers, all at once: beam b takes slots 8b on of
the list; fx, join reference, identity and life stay. -/
def State.moveThreads (s : State) (bks : List Nat) (slots : List Nat) : State :=
  let moved := bks.flatMap fun bk => (List.range 8).filterMap fun t =>
    let b := s.beam bk
    match b.list.getD t none with
    | some sl => (look s.threads (coreOf bk * 512 + sl)).map fun x =>
        (coreOf bk * 512 + sl, coreOf bk * 512 + slots.getD (8 * b.b + t) 0,
          ({ fx := x.fx, join := x.join, ident := x.ident, alive := x.alive, wg := x.wg } : Thread))
    | none => none
  let rest := moved.foldl (fun m p => del m p.1) s.threads
  let s' := { s with threads := moved.foldl (fun m p => put m p.2.1 p.2.2) rest }
  bks.foldl (fun s' bk => s'.modBeam bk fun b =>
    { b with list := (List.range 8).map fun t => if (b.list.getD t none).isSome then slots[8 * b.b + t]? else none }) s'

/-- Move ranges of bytes, each given by its start, its length and its new start, all at once. -/
def moveRanges (m : NMap Byte) (rs : List (Nat × Nat × Nat)) : NMap Byte :=
  let ms := rs.flatMap fun r => (m.filter fun x => r.1 ≤ x.1 && x.1 < r.1 + r.2.1).map fun x => (x.1 - r.1 + r.2.2, x.2)
  let m := rs.foldl (fun m r => clearRange m r.1 r.2.1) m
  ms.foldl (fun m x => put m x.1 x.2) (rs.foldl (fun m r => clearRange m r.2.2 r.2.1) m)

/-- A wait at a place of the workgroup's allocation, which has moved within its core. -/
def Wait.moved (old new : Wg) (w : Wait) : Wait :=
  let off := fun (o : Nat) => if old.spadBase ≤ o ∧ o < old.spadBase + old.spadSize then o - old.spadBase + new.spadBase else o
  match w with
  | .barrier c o tok => if c = old.core then .barrier c (off o) tok else w
  | .sword c o mode cmp => if c = old.core then .sword c (off o) mode cmp else w
  | _ => w

/-- Give the allocation of a workgroup its new size and place: the bytes below the smaller size and the save
region are kept, and added bytes read zero (R136). DEDUCED, unsafe (log 52). -/
def State.resizeSpad (s : State) (old new : Wg) : State :=
  let kept := min old.spadSize new.spadSize
  let m := moveRanges s.mem.scratch [(spadAt old 0, kept, spadAt new 0), (spadAt old old.spadSize, old.regionSize, spadAt new new.spadSize)]
  { s with mem := { s.mem with scratch := clearRange m (spadAt new kept) (new.spadSize - kept) },
           beams := s.beams.map fun b => (b.1, { b.2 with wait := b.2.wait.moved old new }) }

/-- The switch itself: every beam has arrived at one point k. Where pre-emption has cleared the request
(R408), each goes through the point without one. Each beam has released at .wg; the switch acquires (R281). DEDUCED, unsafe (log 52). DEDUCED, unsafe (log 75). -/
def State.switchTo (s : State) (wg k : Nat) : State :=
  let g := s.wg wg
  let l := s.launch g.launch
  let tgt := bits g.swreq.toNat 2 1
  match g.swHold, l.obj.points[16 * g.variant + k]?, l.obj.points[16 * tgt + k]?, l.obj.variants[tgt]? with
  | some hd, some op, some np, some vr =>
    let s := (s.alive g).foldl (fun s bk => s.spill g bk op) (s.acquire g.core (some .wg))
    let s := s.endPast wg vr.beams
    let bks := s.alive (s.wg wg)
    let s := (bks.foldl (fun s bk => s.modBeam bk fun b => { b with latch := none, lane := none }) s).moveThreads bks hd.slots
    let s := s.modWg wg fun g => { g with variant := tgt, nv := vr.nv, ns := vr.ns, spadBase := hd.spadBase, spadSize := 4096 * vr.spad, swreq := 0, swHold := none }
    let g' := s.wg wg
    let s := s.resizeSpad g g'
    let s := bks.foldl (fun s bk =>
      let s := s.modBeam bk fun b => { b with k := Vector.replicate 64 0, kp := 0 }
      let s := s.unspill g' bk np
      let (age, s) := s.fresh
      let s := s.modBeam bk fun b =>
        let k4 := (b.getK 4).toNat / 4 * 4 + tgt
        { b.setK 4 (BitVec.ofNat 32 k4) with
          age := age, pc := BitVec.ofNat 64 (l.lrec.code + np.pc), pos := 0, mid := false, buf := [], passed := 0 }
      (s.bind bk).gate bk) s
    s
  | none, _, _, _ => (s.alive g).foldl (fun s bk => s.modBeam bk fun b => { b with st := .ready, wait := .none }) s
  | _, _, _, _ => s

/-- Complete the VSWITCH rendezvous when every beam it waits for has arrived (R136): arrivals at
different points trap in every beam. -/
def State.vswTry (s : State) (wg : Nat) : State :=
  let g := s.wg wg
  let bks := s.alive g
  let ks := bks.map fun bk => match (s.beam bk).wait with
    | .vswitch k => if (s.beam bk).st == .waiting && (s.beam bk).pend.isNone then some k else none
    | _ => none
  if bks = [] || ks.any (·.isNone) then s
  else if ks.all fun k => k == ks.headD none then s.switchTo wg ((ks.headD none).getD 0)
  else s.trapAll bks Code.switchMismatch

/-- Both rendezvous of a workgroup (R156, R157, R136). -/
def State.meet (s : State) (wg : Nat) : State := (s.brwTry wg).vswTry wg

/-- A beam whose last thread has exited becomes EXITED (R349), and what waited for it goes on.
DEDUCED, unsafe (log 73). -/
def State.finishBeam (s : State) (bk : Nat) : State :=
  let wg := (s.beam bk).wg
  let s := s.exitBeam bk
  let s := s.detStart wg
  s.meet wg

end Sys2Proof.Machine
end

