-- ==== Sys2Proof/Machine/Atomic.lean ====
section
/-! DEFINITION. FENCE and DETDRAIN (R292 to R296), the atomics and DET partials (R297 to R308), and
LOGMARK (R313). -/

namespace Sys2Proof.Machine

/-! ### FENCE and DETDRAIN -/

/-- FENCE (R292): the accesses of the model are performed as their words issue, and the fence completes when those
that it orders have. DEDUCED, unsafe (log 71). -/
def fenceEffect (h : Hd) (f : MF) (s : State) : R State := do
  let c ← s.counterOf h false
  s.offFence f.ord c

/-- DETDRAIN (R294, R295): whatever its mask and guard, the beam arrives; it stalls only where its
earlier arrival's drain has not started. -/
def detdrainEffect (h : Hd) (f : MF) (s : State) : R State := do
  let c ← s.counterOf h false
  ready (!s.cb.detDone)
  s.raised
  let b := s.cb
  let num := s.cwg.detNum + 1
  let s := s.markPartials b.wg b.b num
  let s := s.modCb fun b => { b with detDone := true }
  let hold := match f.ord with
    | .ar _ => true
    | _ => false
  let s := s.later c .other [] none (.drain b.wg num hold f.ord.relAt)
  .ok (s.detStart b.wg)

/-! ### Addresses of atomics (R299, R302) -/

/-- The signed 12-bit offset. -/
def atomOff (f : MF) : Int := sext 12 (f.off.toNat % 4096)
def State.atomEa (s : State) (f : MF) (t : Nat) : Nat := wrap 64 ((s.addrOf f.a true t : Nat) + atomOff f)

/-- The bytes of an atomic's word: .bf16 names a word of two halves (R299). -/
def atomSize (ty : Ty) : Nat := if ty = .bf16 then 4 else ty.width / 8
def atomBytes (f : MF) : Nat := atomSize f.ty
/-- Registers of the data and destination fields per thread. -/
def atomRegs (f : MF) : Nat := if f.ty.width = 64 then 2 else 1

/-- The threads an atomic is performed for: one for the uniform form (R301). -/
def atomMask (f : MF) (uni : Bool) (m : BitVec 8) : BitVec 8 :=
  if uni && f.a.isK then BitVec.ofNat 8 (2 ^ lowest m) else m

/-- Steps 3 to 6 of R252: aligned, translated with WR, no Aperture. -/
def State.atomResolve (s : State) (f : MF) (m : BitVec 8) : R (Nat → Xl) := do
  let n := atomBytes f
  let ea := s.atomEa f
  stepCheck m (fun t => ea t % n == 0) Code.misaligned ea
  let x ← s.xlAll s.cctx m .write ea
  s.xlFeatures m fun t => [x t]
  stepCheck m (fun t => !(x t).isAp) Code.apertureWrite ea
  .ok x

/-- Step 7: no partial of the launch lies in the word. -/
def State.atomHazard (s : State) (f : MF) (m : BitVec 8) (x : Nat → Xl) : R Unit :=
  stepCheck m (fun t => !s.hazard s.cwg.launch (x t).loc (atomBytes f)) Code.detReadHazard (s.atomEa f)

/-! ### Operations (R300) -/

def atomNew (ty : Ty) (op old v : Nat) : Nat :=
  let w := ty.width
  match op with
  | 0 => (old + v) % 2 ^ w
  | 1 => wrap w (min (intOf ty old) (intOf ty v))
  | 2 => wrap w (max (intOf ty old) (intOf ty v))
  | 3 => old &&& v
  | 4 => old ||| v
  | 5 => old ^^^ v
  | 6 => v
  | 7 => if v ≤ old then 0 else old + 1
  | _ => if old = 0 ∨ v < old then v else old - 1

/-- Round(x + y, FP32, RN). -/
def add32 (x y : Nat) : Nat := (rn32 ((decodeF .f32 false x).add false (decodeF .f32 false y))).1
/-- Minimum or maximum of R185 in FP32. -/
def mm32 (mx : Bool) (x y : Nat) : Nat := encodeF .f32 (minmax mx (decodeF .f32 false x) (decodeF .f32 false y))
/-- One half of a .bf16 add. -/
def addBf (x y : Nat) : Nat := (roundF .bf16 .rn false 16 0 ((decodeF .bf16 false x).add false (decodeF .bf16 false y))).1

/-- ATOMF and REDF on memory. -/
def atomfNew (ty : Ty) (op old v : Nat) : Nat :=
  if ty = .bf16 then addBf (old % 2 ^ 16) (v % 2 ^ 16) + 2 ^ 16 * addBf (old / 2 ^ 16) (v / 2 ^ 16)
  else match op with
  | 0 => add32 old v
  | 1 => mm32 false old v
  | _ => mm32 true old v

/-! ### Results -/

/-- Registers that receive an old value. -/
def State.oldWrites (s : State) (f : MF) (t : Nat) (old : Nat) (tag : BitVec 4) : List RegWrite :=
  match f.d with
  | .k n => if f.ty.width = 64 then [.k n.toNat (BitVec.ofNat 32 old), .k (n.toNat + 1) (BitVec.ofNat 32 (old / 2 ^ 32))]
            else [.k n.toNat (BitVec.ofNat 32 old)]
  | .t n =>
    if f.ty.width = 128 then [.v (s.tkey t) n.toNat (BitVec.ofNat 256 (old % 2 ^ 128)) (-1) 15 128]
    else if f.ty.width = 64 then [.s (s.tkey t) n.toNat (BitVec.ofNat 32 old) 15, .s (s.tkey t) (n.toNat + 1) (BitVec.ofNat 32 (old / 2 ^ 32)) 15]
    else [.s (s.tkey t) n.toNat (BitVec.ofNat 32 old) tag]

/-- One read-modify-write at its point of coherence (R302): the new value of the old one, none to leave
it. An uncorrectable word stays unchanged (R303). The core's copy of the line follows, the whole of it, since what the
word read is now behind no other read of the line (R277, R278). -/
def rmw (a : Agent) (loc n : Nat) (new : Nat → Option Nat) (s : State) : State × Option Nat :=
  if s.badBytes loc n then (s.countUe (s.firstBad loc n), none)
  else
    let s := s.corrected 3 loc n
    let old := natOfBytes (s.mem.read loc n)
    let s := match new old with
      | some v => s.poke a loc (bytesOfNat n v)
      | none => s.touch loc n
    ({ s with mem := s.mem.follow a (loc / 128 * 128) 128 }, some old)

/-- What a thread's operation leaves: the registers of its old value, or the error it met. -/
def State.rmwDone (s : State) (ret : Bool) (f : MF) (t : Nat) (old : Option Nat) (tag : BitVec 4) : State × List RegWrite × Bool :=
  match old with
  | some o => (s, if ret then s.oldWrites f t o tag else [], false)
  | none => (s, [], true)

/-- The end of an atomic word: its operation stands in flight, and its acquire side acts. -/
def State.atomEnd (c : Option Nat) (f : MF) (cond : OpCond) (r : Turns) (s : State) : State :=
  ((s.acquire s.cc f.ord.acqAt).later c .atomic r.ws (lostFault r.bad (s.atomEa f)) cond)

/-- Key and choice of an order-log record for a word (R309). -/
def logKey (loc : Nat) : Nat := bits (loc % 2 ^ 52) 51 4
def logChc (loc : Nat) : Nat := bits loc 3 2

/-- The register fields of ATOM, ATOMF, RED and REDF (R130). -/
def State.atomBudget (s : State) (ret : Bool) (f : MF) : R Unit := do
  s.sSpan f.a 2
  if ret then s.sSpan f.d (atomRegs f) else .ok ()
  s.sSpan f.b (atomRegs f)

/-- A word no thread of which takes part. -/
def State.offAtom (s : State) (f : MF) (c : Option Nat) : R (State × Flow) := (s.offFence f.ord c).map fun s => (s, .next)

/-- ATOM and RED (R302): on a DET page each thread takes its turn (R309). DESIGN CHOICE, unsafe (log 9). -/
def atomEffect (ret : Bool) (h : Hd) (f : MF) (s : State) : R (State × Flow) := do
  let c ← s.flagOf h ret
  s.atomBudget ret f
  s.ordered f.ord
  let m := s.part h
  if m = 0 then s.offAtom f c
  else do
    let uni := f.b.isK && (!ret || f.d.isK)
    let m' := atomMask f uni m
    let pair := f.ty.width = 64
    let b : Src := { f := f.b, v := false, want := if pair then .bits 32 else .ty f.ty }
    s.checkSrcs m' [b]
    let x ← s.atomResolve f m
    s.atomHazard f m x
    let val := fun t => if pair then s.addrOf f.b true t else e0 (s.srcElems b t).1
    let fl := fun t => if pair then 0 else (s.srcElems b t).2
    let cond := s.condOf true m' fun t => [{ va := s.atomEa f t, loc := (x t).loc, n := atomBytes f }]
    let r ← (s.fillAll s.cctx m (s.atomEa f)).turns.all false m' fun s t => do
      let loc := (x t).loc
      let s ← if ret && (x t).det then
          s.choose 1 (logKey loc) (if uni && f.a.isK then s.srcUni else s.srcOf t) (logChc loc)
        else .ok s
      let (s, old) := rmw (s.agentOf (x t)) loc (atomBytes f) (fun o => some (atomNew f.ty f.aop o (val t))) s
      .ok (s.rmwDone ret f t old (Sys2Proof.Ty.tag f.ty))
    .ok (r.close fun s => State.atomEnd c f cond r (s.orFx m' fl))

/-! ### DET partials (R304 to R308) -/

/-- The slice that holds a word's partials, over both dies. -/
def sliceKey (loc : Nat) : Nat := 32 * homeDie loc + sliceOf loc

/-- DET order key of a workgroup (R306). -/
def State.detKey (s : State) (g : Wg) : Nat × Nat × Nat :=
  match g.kind with
  | .launch _ => (0, (s.gang g.gang).g, g.w)
  | .spawn e n => (1, e, n)
  | .bin node n _ _ => (2, node, n)

def keyLt (a b : Nat × Nat × Nat) : Bool :=
  a.1 < b.1 || (a.1 == b.1 && (a.2.1 < b.2.1 || (a.2.1 == b.2.1 && a.2.2 < b.2.2)))

/-- A workgroup with work left for the partial tables: it lives, or has partials not yet applied. -/
def State.unapplied (s : State) (wg : Nat) (g : Wg) : Bool :=
  !g.retired || s.mem.partials.any fun p => p.wg == wg

/-- The head workgroup of a slice (R308): the lowest key of the oldest launch with partials there. -/
def State.headWg (s : State) (slice : Nat) : Option Nat :=
  let ps := s.mem.partials.filter fun p => sliceKey p.loc == slice
  let ls := s.launches.filter fun l => ps.any fun p => p.launch == l.1
  let old := ls.foldl (fun m l => match m with
    | none => some l
    | some k => if l.2.age < k.2.age then some l else some k) (none : Option (Nat × Launch))
  match old with
  | none => none
  | some l =>
    let gs := s.wgs.filter fun g => g.2.launch == l.1 && s.unapplied g.1 g.2
    (gs.foldl (fun m g => match m with
      | none => some g
      | some k => if keyLt (s.detKey g.2) (s.detKey k.2) then some g else some k) (none : Option (Nat × Wg))).map (·.1)

/-- Entries of the partial table: the second half of a .bf16 partial shares its entry. -/
def State.entries (s : State) (slice : Nat) (p : Partial → Bool) : Nat :=
  (s.mem.partials.filter fun q => sliceKey q.loc == slice && p q && !(q.op == 3 && q.loc % 4 == 2)).length

/-- The partials a thread's contribution goes to: place, operation and FP32 value; a .bf16 word has one
for each half. -/
def detParts (ty : Ty) (op loc v : Nat) : List (Nat × Nat × Nat) :=
  if ty = .bf16 then [(loc, 3, v % 2 ^ 16 * 2 ^ 16), (loc + 2, 3, v / 2 ^ 16 % 2 ^ 16 * 2 ^ 16)] else [(loc, op, v)]

/-- The same partial: of one workgroup and beam, not yet marked for a drain. -/
def samePart (p : Partial) (loc op wg b : Nat) : Bool :=
  p.loc == loc && p.op == op && p.wg == wg && p.beam == b && p.drain.isNone

/-- Combine two values of a partial. -/
def combine (op x y : Nat) : Nat :=
  match op with
  | 1 => mm32 false x y
  | 2 => mm32 true x y
  | _ => add32 x y

/-- What ATOMF returns where no partial existed (R304). -/
def detNone : Nat → Nat
  | 1 => 0x7F800000
  | 2 => 0xFF800000
  | _ => 0

/-- A contribution to one partial; answers the value before it. -/
def Mem.contribute (m : Mem) (launch wg b loc op v : Nat) : Mem × Nat :=
  match m.partials.find? fun p => samePart p loc op wg b with
  | some p =>
    ({ m with partials := m.partials.map fun q => if samePart q loc op wg b then { q with val := combine op q.val v } else q }, p.val)
  | none =>
    ({ m with partials := m.partials ++ [{ loc := loc, op := op, launch := launch, wg := wg, beam := b, drain := none, val := v }] }, detNone op)

/-- The value ATOMF returns, in the format of ty. -/
def detRet (ty : Ty) (olds : List Nat) : Nat :=
  if ty = .bf16 then
    ofElems 16 (olds.map fun v => (roundF .bf16 .rn false 16 0 (decodeF .f32 false v)).1)
  else olds.headD 0

/-- Checks of R305 and R308 for words on DET pages, each with the thread that names it: two operations on a
word; the capacity of the tables. DEDUCED, unsafe (log 69). -/
def State.detCheckL (s : State) (us : List (Nat × Nat)) (op size : Nat) : R Unit := do
  let m := mask8 fun t => us.any fun u => u.1 == t
  let l := s.cwg.launch
  let mix := us.any fun u => s.mem.partials.any fun p =>
    p.launch == l && p.op ≠ op && p.loc < u.2 + size && u.2 < p.loc + p.size
  need (!mix) Code.detMix m
  let wg := s.cb.wg
  let b := s.cb.b
  let need_ := us.filter fun u => !s.mem.partials.any fun p => samePart p u.2 op wg b
  let newIn := fun sl => ((need_.map (·.2)).eraseDups.filter fun loc => sliceKey loc == sl).length
  let full := need_.any fun u => s.entries (sliceKey u.2) (fun p => p.wg == wg) + newIn (sliceKey u.2) > 8192
  need (!full) Code.detCapacity (mask8 fun t => need_.any fun u => u.1 == t)
  let full := need_.any fun u =>
    let sl := sliceKey u.2
    let all := s.entries sl fun _ => true
    let head := s.headWg sl
    if head == some wg || head == none then all + newIn sl > 65536
    else all + newIn sl > 65536 || s.entries sl (fun p => some p.wg ≠ head) + newIn sl > 57344
  ready (!full)

/-- The same for one word of each thread of a mask. DEDUCED, unsafe (log 69). -/
def State.detCheck (s : State) (m : BitVec 8) (op : Nat) (loc : Nat → Nat) (size : Nat) : R Unit :=
  s.detCheckL ((bitsOf m).map fun t => (t, loc t)) op size

/-- ATOMF and REDF (R302, R304). -/
def atomfEffect (ret : Bool) (h : Hd) (f : MF) (s : State) : R (State × Flow) := do
  let c ← s.flagOf h ret
  s.atomBudget ret f
  s.ordered f.ord
  let m := s.part h
  if m = 0 then s.offAtom f c
  else do
    let uni := f.b.isK && (!ret || f.d.isK)
    let m' := atomMask f uni m
    let b : Src := { f := f.b, v := false, want := .ty f.ty }
    s.checkSrcs m' [b]
    let x ← s.atomResolve f m
    let dm := mask8 fun t => m'.getLsbD t && (x t).det
    let op := if f.ty = .bf16 then 3 else f.aop
    s.atomHazard f (m' &&& ~~~dm) x
    s.detCheck dm op (fun t => (x t).loc) 4
    let val := fun t => ofElems f.ty.width (s.srcElems b t).1
    let fl := fun t => (s.srcElems b t).2
    let cond := s.condOf true m' fun t => [{ va := s.atomEa f t, loc := (x t).loc, n := atomBytes f }]
    let tag := Sys2Proof.Ty.tag f.ty
    let r ← (s.fillAll s.cctx m (s.atomEa f)).turns.all false m' fun s t =>
      let loc := (x t).loc
      if (x t).det then
        let (mem, olds) := (detParts f.ty f.aop loc (val t)).foldl (fun (q : Mem × List Nat) p =>
          let (mem, o) := q.1.contribute s.cwg.launch s.cb.wg s.cb.b p.1 p.2.1 p.2.2
          (mem, q.2 ++ [o])) (s.mem, [])
        .ok ({ s with mem := mem }.rmwDone ret f t (some (detRet f.ty olds)) tag)
      else
        let (s, old) := rmw (s.agentOf (x t)) loc 4 (fun o => some (atomfNew f.ty f.aop o (val t))) s
        .ok (s.rmwDone ret f t old tag)
    .ok (r.close fun s => State.atomEnd c f cond r (s.orFx m' fl))

/-! ### CAS and CAS2 (R299, R302) -/

/-- Compare and new value of thread t. -/
def State.casVals (s : State) (f : MF) (t : Nat) : Nat × Nat :=
  if f.ty = .b128 then
    let v := ((s.th t).getV f.b.num).toNat
    (v % 2 ^ 128, v / 2 ^ 128)
  else
    let one := fun (n : Nat) => match f.b with
      | .k _ => (s.cb.getK n).toNat
      | .t _ => ((s.th t).getS n).toNat
    let n := f.b.num
    if f.ty = .b64 then (one n + 2 ^ 32 * one (n + 1), one (n + 2) + 2 ^ 32 * one (n + 3)) else (one n, one (n + 1))

/-- CAS and CAS2: each thread's choice is logged with its success (R309). -/
def casEffect (h : Hd) (f : MF) (s : State) : R (State × Flow) := do
  let c ← s.flagOf h true
  s.sSpan f.a 2
  let wide := f.ty == .b128
  if wide then s.vIn f.d else s.sSpan f.d (atomRegs f)
  if wide then s.vIn f.b else s.sSpan f.b (2 * atomRegs f)
  s.ordered f.ord
  let m := s.part h
  if m = 0 then s.offAtom f c
  else do
    let uni := f.b.isK && f.d.isK
    let m' := atomMask f uni m
    let x ← s.atomResolve f m
    s.atomHazard f m x
    let cond := s.condOf true m' fun t => [{ va := s.atomEa f t, loc := (x t).loc, n := atomBytes f }]
    let r ← (s.fillAll s.cctx m (s.atomEa f)).turns.all false m' fun s t => do
      let loc := (x t).loc
      let (cmp, new) := s.casVals f t
      let (s, old) := rmw (s.agentOf (x t)) loc (atomBytes f) (fun o => if o = cmp then some new else none) s
      let s ← match old with
        | some o => s.choose 2 (logKey loc) (if uni && f.a.isK then s.srcUni else s.srcOf t) (logChc loc + if o = cmp then 4 else 0)
        | none => .ok s
      .ok (s.rmwDone true f t old 15)
    .ok (r.close (State.atomEnd c f cond r))

/-! ### LOGMARK (R313) -/

/-- LOGMARK. -/
def logmarkEffect (h : Hd) (f : TF) (s : State) : R State := do
  let c ← s.counterOf h false
  if s.acts h then do
    let s ← s.choose 8 0 s.srcUni (s.cb.getK f.a.num).toNat
    .ok (s.later c .other [])
  else .ok (s.later c .other [])

/-- FENCE (R292). -/
def execFence (h : Hd) (f : MF) (s : State) : Host.Outcome State Fault Refusal := issue s (fenceEffect h f)
/-- DETDRAIN (R294). -/
def execDetdrain (h : Hd) (f : MF) (s : State) : Host.Outcome State Fault Refusal := issue s (detdrainEffect h f)
/-- ATOM (R302). -/
def execAtom (h : Hd) (f : MF) (s : State) : Host.Outcome State Fault Refusal := issueTo s (atomEffect true h f)
/-- RED (R302). -/
def execRed (h : Hd) (f : MF) (s : State) : Host.Outcome State Fault Refusal := issueTo s (atomEffect false h f)
/-- ATOMF (R302, R304). -/
def execAtomf (h : Hd) (f : MF) (s : State) : Host.Outcome State Fault Refusal := issueTo s (atomfEffect true h f)
/-- REDF (R302, R304). -/
def execRedf (h : Hd) (f : MF) (s : State) : Host.Outcome State Fault Refusal := issueTo s (atomfEffect false h f)
/-- CAS (R302). -/
def execCas (h : Hd) (f : MF) (s : State) : Host.Outcome State Fault Refusal := issueTo s (casEffect h f)
/-- CAS2 (R302). -/
def execCas2 (h : Hd) (f : MF) (s : State) : Host.Outcome State Fault Refusal := issueTo s (casEffect h f)
/-- LOGMARK (R313). -/
def execLogmark (h : Hd) (f : TF) (s : State) : Host.Outcome State Fault Refusal := issue s (logmarkEffect h f)

end Sys2Proof.Machine
end

