-- ==== Sys2Proof/Machine/Barrier.lean ====
section
/-! DEFINITION. Barrier objects (R314 to R319). -/

namespace Sys2Proof.Machine

/-- Where an object's 16 bytes lie in a core's SRAM, after the checks of R315: one offset, aligned to 16,
in bounds. A trap has the mask of R252: the active threads that the guard holds in. -/
def State.barAt (s : State) (h : Hd) (f : MF) : R Nat := do
  let r ← s.uni32 f.a
  let ea := wrap 32 ((r : Nat) + f.off.toInt)
  let m := s.part h
  need' (ea % 16 == 0) Code.misaligned m ea
  if f.barScope = 1 then do
    need' (ea + 16 ≤ s.spadLimit) Code.scratchBounds m ea
    .ok (sramKey s.cc (s.cwg.spadBase + ea))
  else
    match s.windowKeys s.cwg.gang 0 ea 16 with
    | some (k :: _) => .ok k
    | _ => .error (.trap { code := Code.scratchBounds, mask := m, addr := ea })
where
  need' (c : Bool) (code : Nat) (m : BitVec 8) (a : Nat) : R Unit :=
    if c then .ok () else .error (.trap { code := code, mask := m, addr := a })

/-- The scope a barrier instruction orders at: its own wider one, or the barrier's (R317, R318). -/
def barSync (f : MF) (own : Option Scope) : Scope := own.getD (if f.barScope = 1 then .wg else .gang)

/-! ### Fields of an object (R314) -/

def State.barObj (s : State) (key : Nat) : Nat := natOfBytes (getBs s.mem.scratch key 16)
def barCnt (o : Nat) : Nat := bits o 15 0
def barArr (o : Nat) : Nat := bits o 31 16
def barPh (o : Nat) : Nat := bits o 35 32
def barSc (o : Nat) : Nat := bits o 38 36
def barValid (o : Nat) : Bool := bit o 39
def barWaiting (o : Nat) : Nat := bits o 79 64
def barTot (o : Nat) : Nat := bits o 127 96
/-- Replace a field. -/
def setField (o lo n v : Nat) : Nat := o - o / 2 ^ lo % 2 ^ n * 2 ^ lo + v % 2 ^ n * 2 ^ lo
def State.putBar (s : State) (key o : Nat) : State := s.pokeS key (bytesOfNat 16 o)

/-- Change WAIT by one. -/
def State.barCount (s : State) (key : Nat) (up : Bool) : State :=
  let o := s.barObj key
  s.putBar key (setField o 64 16 (if up then barWaiting o + 1 else barWaiting o + 65535))

/-- A beam that waits at the object. -/
def Beam.waitsAt (b : Beam) (key : Nat) : Bool :=
  match b.wait with
  | .barrier core off _ => sramKey core off == key && b.st == .waiting
  | _ => false

/-- The phases that have ended since a token was taken (R318). -/
def barDelta (o tok : Nat) : Nat := (barPh o + 16 - tok) % 16

/-- Wake every beam that waits on the object: each subtracts itself from WAIT and tests again. One whose phase
has ended goes on, whatever becomes of the object afterwards.
DEDUCED, unsafe (log 42). DEDUCED, unsafe (log 43). -/
def State.barWake (s : State) (key : Nat) : State :=
  let bks := (s.beams.filter fun x => x.2.waitsAt key).map (·.1)
  let passed := fun (w : Wait) => match w with
    | .barrier _ _ tok => 1 ≤ barDelta (s.barObj key) tok && barDelta (s.barObj key) tok ≤ 7
    | _ => false
  bks.foldl (fun s bk => (s.barCount key false).modBeam bk fun b => { b with st := .ready, wait := if passed b.wait then .met else .none }) s

/-- BARINIT (R316). -/
def barinitEffect (h : Hd) (f : MF) (s : State) : R State := do
  let c ← s.flagOf h false
  s.sIn f.a
  s.sIn f.b
  s.ordered f.ord
  if !s.acts h then s.offFence f.ord c
  else do
    let n ← s.uni32 f.b
    let k ← s.barAt h f
    let o := s.barObj k
    need (n ≠ 0 && n < 65536 && barWaiting o == 0) Code.barInvalid s.cb.active
    .ok ((s.putBar k (n + 2 ^ 36 * f.barScope + 2 ^ 39)).later c .other [])

/-- BARARR (R317): a release, then the arrival. DEDUCED, unsafe (log 43). -/
def bararrEffect (h : Hd) (f : MF) (s : State) : R State := do
  let c ← s.flagOf h (f.ch.getLsbD 1)
  s.sIn f.a
  let sc := barSync f f.ord.relAt
  s.released sc
  if !s.acts h then .ok (s.fenceOp (.rel sc) c)
  else do
    let k ← s.barAt h f
    let o := s.barObj k
    let n := if f.ch.getLsbD 0 then (s.cb.getK f.b.num).toNat % 65536 else (bitsOf (s.part h)).length
    need (barValid o && barSc o == f.barScope && n ≠ 0) Code.barInvalid s.cb.active
    if barArr o + n > barCnt o then
      .error (.trap { code := Code.barOverrun, mask := s.cb.active, d0 := barCnt o, d1 := barArr o, d2 := n })
    else
      let ws : List RegWrite := if f.ch.getLsbD 1 then [.k f.d.num (BitVec.ofNat 32 (barPh o))] else []
      let s := if barArr o + n = barCnt o then
          let o := setField (setField (setField o 16 16 0) 32 4 (barPh o + 1)) 96 32 (barTot o + 1)
          (s.putBar k o).barWake k
        else s.putBar k (setField o 16 16 (barArr o + n))
      .ok (s.later c .other ws)

/-- BARWAIT (R318). DEDUCED, unsafe (log 42). -/
def barwaitEffect (h : Hd) (f : MF) (s : State) : R (State × Flow) := do
  let ft := s.cb.fall
  let past := fun (s : State) => (s.acquire s.cc (some (barSync f f.ord.acqAt)), Flow.goto ft)
  s.unheld
  s.sIn f.a
  if !s.acts h then do
    s.raised
    .ok (past s)
  else if s.cb.met then .ok (past s)
  else do
    let k ← s.barAt h f
    let o := s.barObj k
    let tok := (s.cb.getK f.b.num).toNat % 16
    let delta := barDelta o tok
    need (barValid o && barSc o == f.barScope && delta ≤ 7) Code.barInvalid s.cb.active
    if delta = 0 then
      let (n, s) := (s.barCount k true).fresh
      .ok (s.modCb fun b => { b with st := .waiting, wait := .barrier (sramCore k) (sramOff k) tok, parkedAt := n }, .stay)
    else .ok (past s)

/-- BARQRY (R318). -/
def barqryEffect (h : Hd) (f : MF) (s : State) : R State := do
  let c ← s.flagOf h true
  s.sIn f.a
  s.sIn f.d
  if !s.acts h then .ok (s.later c .other [])
  else do
    let k ← s.barAt h f
    let o := s.barObj k
    let v := barArr o + 2 ^ 16 * barPh o + 2 ^ 20 * b2n (barValid o)
    .ok (s.later c .other (s.wrD (s.part h) f.d (fun _ => BitVec.ofNat 32 v) 9))

/-- BARINIT (R316). -/
def execBarinit (h : Hd) (f : MF) (s : State) : Host.Outcome State Fault Refusal := issue s (barinitEffect h f)
/-- BARARR (R317). -/
def execBararr (h : Hd) (f : MF) (s : State) : Host.Outcome State Fault Refusal := issue s (bararrEffect h f)
/-- BARWAIT (R318). -/
def execBarwait (h : Hd) (f : MF) (s : State) : Host.Outcome State Fault Refusal := issueTo s (barwaitEffect h f)
/-- BARQRY (R318). -/
def execBarqry (h : Hd) (f : MF) (s : State) : Host.Outcome State Fault Refusal := issue s (barqryEffect h f)

end Sys2Proof.Machine
end

