-- ==== Sys2Proof/Machine/Record.lean ====
section
/-! DEFINITION. The launch record (R119, R120), its format slots (R106, R107), the code object (R78 to
R83), the work-graph table (R356) and the checks of R122. -/

namespace Sys2Proof.Machine

/-- A check of R122: a completion status with its detail, or an answer. -/
abbrev Chk (α : Type) := Except (Nat × Nat) α
/-- Refuse with a status and detail unless the condition holds. -/
def chk (c : Bool) (status detail : Nat) : Chk Unit := if c then .ok () else .error (status, detail)

/-! ### The record -/

/-- Role entry r (R120): unused when its entry byte is 0xFF or all its bytes are zero.
DEDUCED, unsafe (log 37). -/
def roleOf (l : List Byte) (r : Nat) : Option Role :=
  let b := (l.drop (96 + 8 * r)).take 8
  if byteAt b 0 = 255 || field b 0 3 = 0 then none
  else some { entry := byteAt b 0, variant := byteAt b 1, count := byteAt b 2 }

/-- Format slot n (R106). -/
def slotOf (l : List Byte) (n : Nat) : Fs :=
  let b := (l.drop (128 + 16 * n)).take 16
  { efmt := byteAt b 0, cbw := byteAt b 1, bsz := byteAt b 2, sfmt := byteAt b 3, sloc := byteAt b 4,
    cbank := byteAt b 5, ssr := byteAt b 6, sate := bit (byteAt b 7) 0, smin := field b 8 4, smax := field b 12 4 }

/-- The fields of a record; reserved bits read as zero (R5). DEDUCED, unsafe (log 17). -/
def lrecOf (l : List Byte) : LRec :=
  { code := field l 0 8, parm := field l 8 8, done := field l 16 8, fpt := field l 24 4 % 2 ^ 13, gshp := byteAt l 28,
    wpc := byteAt l 29, gcnt := field l 32 4, prio := byteAt l 36, tc := byteAt l 37, flags := field l 38 2 % 32,
    dmax := byteAt l 40, quota := field l 42 2, sresv := field l 44 4, olog := field l 48 8, olsz := field l 56 8,
    spillq := field l 64 4, nest := byteAt l 68 % 16, wgtab := field l 72 8, seed := field l 80 8,
    roles := (List.range 3).map (roleOf l), fs := (List.range 8).map (slotOf l) }

def LRec.x0 (r : LRec) : Nat := bits r.fpt 4 0
def LRec.y0 (r : LRec) : Nat := bits r.fpt 7 5
def LRec.fw (r : LRec) : Nat := bits r.fpt 10 8
def LRec.fh (r : LRec) : Nat := bits r.fpt 12 11
/-- The owner dispatcher's die (R126). -/
def LRec.die (r : LRec) : Nat := r.x0 / 16
/-- COR (R119). -/
def LRec.cor (r : LRec) : Bool := bit r.flags 0
def LRec.logOrMir (r : LRec) : Bool := bit r.flags 1 || bit r.flags 2

/-- Width and height of a gang shape (R117). -/
def shapeOf : Nat → Nat × Nat
  | 0 => (1, 1) | 1 => (2, 1) | 2 => (1, 2) | 3 => (2, 2) | 4 => (4, 2) | 5 => (2, 4) | _ => (4, 4)

/-- Role entries in use. -/
def LRec.used (r : LRec) : List Role := r.roles.filterMap id
/-- Workgroups of a gang (R118, R120). -/
def LRec.wgs (r : LRec) : Nat :=
  let (w, h) := shapeOf r.gshp
  if r.used = [] then w * h * r.wpc else (r.used.map (·.count)).foldl (· + ·) 0
/-- The gang position of workgroup W. -/
def LRec.posOf (r : LRec) (w : Nat) : Nat :=
  let (gw, gh) := shapeOf r.gshp
  if r.used = [] then w / r.wpc else w % (gw * gh)

/-- The role of workgroup W, 0 to 3, and its entry: loader first, then computer, then storer.
DEDUCED, unsafe (log 37). -/
def roleIn : List (Option Role) → Nat → Nat → Nat × Option Role
  | [], _, _ => (0, none)
  | none :: rs, n, w => roleIn rs (n + 1) w
  | some r :: rs, n, w => if w < r.count then (n + 1, some r) else roleIn rs (n + 1) (w - r.count)
def LRec.roleOf (r : LRec) (w : Nat) : Nat × Option Role := if r.used = [] then (0, none) else roleIn r.roles 0 w

/-- The largest number of workgroups on one core. -/
def LRec.perCore (r : LRec) : Nat :=
  let (w, h) := shapeOf r.gshp
  if r.used = [] then r.wpc else (r.wgs + w * h - 1) / (w * h)

/-- The checks of bytes [63:0] of the record (R119, R310), in byte order; `die` is that of the host entry
(R336). DEDUCED, unsafe (log 17). DEDUCED, unsafe (log 38). -/
def checkRecord (r : LRec) (die : Option Nat) : Chk Unit := do
  let (w, h) := shapeOf r.gshp
  chk (r.code % 256 == 0) 2 0
  chk (r.done % 16 == 0) 2 16
  chk (r.fw ≤ 5 && r.x0 % 2 ^ r.fw == 0 && r.y0 % 2 ^ r.fh == 0 && die.all (· == r.die)) 2 24
  chk (r.gshp ≤ 6 && w ≤ 2 ^ r.fw && h ≤ 2 ^ r.fh) 2 28
  chk (r.used ≠ [] || (1 ≤ r.wpc && r.wpc ≤ 8)) 2 29
  chk (1 ≤ r.gcnt && r.gcnt ≤ 1048576) 2 32
  chk (r.prio ≤ 3) 2 36
  chk (r.tc ≤ 3) 2 37
  chk (!(bit r.flags 1 && bit r.flags 2)) 2 38
  chk (r.dmax ≤ 8) 2 40
  chk (r.quota ≤ 4096) 2 42
  chk (r.sresv ≤ 32) 2 44
  chk (!r.logOrMir || r.olog % 64 == 0) 2 48
  chk (r.olsz % 16 == 0 && (!r.logOrMir || 64 ≤ r.olsz)) 2 56

/-- The checks of the role entries (R80, R120) against the entries and variants of the image: a fixed variant that the
image does not have is a bad record. DEDUCED, unsafe (log 38). -/
def checkRoles (r : LRec) (nent nvar : Nat) : Chk Unit := do
  (List.range 3).forM fun i => match r.roles.getD i none with
    | some x => do
      chk (x.entry < nent) 2 (96 + 8 * i)
      chk (x.variant == 255 || (x.variant ≤ 3 && x.variant < nvar)) 2 (97 + 8 * i)
      chk (1 ≤ x.count && x.count ≤ 8) 2 (98 + 8 * i)
    | none => .ok ()
  chk (r.perCore ≤ 8) 2 96

/-- The slot's format types: 0 to 11, 13, 14 and 16. -/
def efmtOk (e : Nat) : Bool := e ≤ 11 || e == 13 || e == 14 || e == 16

/-- A bound is representable in efmt, and the two are in order. -/
def boundsOk (f : Fs) : Bool :=
  match Ty.ofCode f.efmt with
  | none => false
  | some ty =>
    match fmtOf ty with
    | some fm =>
      let v := fun b => decodeF .f32 false b
      let fits := fun b => !(v b).isNan && (v b).cmp (decodeF fm false (roundF fm .rz false 16 0 (v b)).1) == .eq
      fits f.smin && fits f.smax && (v f.smin).cmp (v f.smax) ≠ .gt
    | none =>
      let i := sext 32 f.smin
      let j := sext 32 f.smax
      decide (minOf ty ≤ i) && decide (i ≤ j) && decide (j ≤ maxOf ty)

/-- R107, with the reserved bits of sflg. -/
def slotOk (l : List Byte) (n : Nat) : Bool :=
  let f := slotOf l n
  efmtOk f.efmt && f.cbw ≤ 1 && (f.cbw == 0 || f.efmt == 8) && f.bsz ≤ 6 && f.sfmt ≤ 5 && f.sloc ≤ 3 && f.ssr ≤ 2
    && byteAt l (135 + 16 * n) < 2
    && (if f.efmt = 7 then f.bsz == 4 && f.sfmt == 2 && f.cbank == 0
        else if f.efmt = 8 then 1 ≤ f.cbank && f.cbank ≤ 7 else f.cbank == 0)
    && (if f.sfmt = 0 then f.bsz == 0 && f.sloc == 0 && f.ssr == 0 else f.bsz ≠ 0 && f.sloc ≠ 0)
    && (f.sloc ≠ 3 || f.ssr ≠ 1)
    && (if f.sate then f.efmt ≠ 7 && f.efmt ≠ 8 && boundsOk f else f.smin == 0 && f.smax == 0)

/-! ### Reading at acceptance -/

/-- Virtual bytes as the dispatcher reads them: the cause of a translation fault, or 15 for an
uncorrectable error (R122, R123). DEDUCED, unsafe (log 70). -/
def State.dread (s : State) (ctx va : Nat) : Nat → Except Nat (List Byte)
  | 0 => .ok []
  | n + 1 =>
    match s.xlPlain ctx va .read with
    | .error c => .error c
    | .ok x =>
      if x.isAp then .error 5
      else if s.badByte x.loc then .error 15
      else match s.dread ctx (va + 1) n with
        | .error e => .error e
        | .ok bs => .ok (getB s.mem.bytes x.loc :: bs)

/-- A read of an object the record names: 1 code object, 2 work-graph table, 3 order log. -/
def State.objRead (s : State) (ctx obj va n : Nat) : Chk (List Byte) :=
  match s.dread ctx va n with
  | .ok bs => .ok bs
  | .error c => .error (9, obj + 16 * c)

/-! ### The code object -/

/-- The image at the record's code address (R78 to R83): a failing field gives BAD_CODE_OBJECT with its
offset. A switch place whose register lies past its class, or past the variant's scratchpad, is accepted: R77 has only
pyas reject it. DEDUCED, unsafe (log 17). DEDUCED, unsafe (log 38). -/
def State.readObj (s : State) (ctx code : Nat) : Chk CodeObj := do
  let rd := fun off n => s.objRead ctx 1 (code + off) n
  let h ← rd 0 64
  let nvar := byteAt h 6
  let nent := byteAt h 7
  let swmask := field h 8 2
  let nspn := byteAt h 10
  let nnode := field h 12 2
  let entoff := field h 16 4
  let spnoff := field h 20 4
  let nodoff := field h 24 4
  let swoff := field h 28 4
  let fsoff := field h 32 4
  let fsmask := byteAt h 36
  let codeoff := field h 40 4
  let codesz := field h 44 4
  let cstoff := field h 48 4
  let cstsz := field h 52 4
  let imgsz := field h 56 4
  let at64 := fun (off : Nat) => off % 64 == 0
  chk (field h 0 4 == 0x4F435044) 3 0
  chk (field h 4 2 == 0x0100) 3 4
  chk (1 ≤ nvar && nvar ≤ 4) 3 6
  chk (1 ≤ nent && nent ≤ 16) 3 7
  chk (nspn ≤ 32) 3 10
  chk (byteAt h 11 ≤ 3) 3 11
  chk (nnode ≤ 256) 3 12
  chk (at64 entoff && entoff + 32 * nent ≤ imgsz) 3 16
  chk (if nspn = 0 then spnoff == 0 else at64 spnoff && spnoff + 16 * nspn ≤ imgsz) 3 20
  chk (if nnode = 0 then nodoff == 0 else at64 nodoff && nodoff + 16 * nnode ≤ imgsz) 3 24
  chk (if swmask = 0 then swoff == 0 else at64 swoff && swoff + 512 ≤ imgsz) 3 28
  chk (if fsmask = 0 then fsoff == 0 else at64 fsoff && fsoff + 128 ≤ imgsz) 3 32
  chk (at64 codeoff && codeoff + codesz ≤ imgsz) 3 40
  chk (at64 cstoff && cstoff + cstsz ≤ imgsz) 3 48
  chk (imgsz % 256 == 0) 3 56
  let inCode := fun pc => pc % 8 == 0 && codeoff ≤ pc && pc < codeoff + codesz
  let vt ← rd 64 64
  let variants ← (List.range nvar).mapM fun n => do
    let r := (vt.drop (16 * n)).take 16
    let o := 64 + 16 * n
    chk (byteAt r 0 % 8 == 0 && 8 ≤ byteAt r 0 && byteAt r 0 ≤ 64) 3 o
    chk (byteAt r 1 % 16 == 0 && 16 ≤ byteAt r 1 && byteAt r 1 ≤ 64) 3 (o + 1)
    chk (1 ≤ byteAt r 2 && byteAt r 2 ≤ 32) 3 (o + 2)
    chk (byteAt r 3 == 1) 3 (o + 3)
    chk (field r 4 2 ≤ 160) 3 (o + 4)
    (.ok { nv := byteAt r 0, ns := byteAt r 1, beams := byteAt r 2, spad := field r 4 2 } : Chk Variant)
  (List.range 4).forM fun n =>
    chk (n < nvar || ((vt.drop (16 * n)).take 16).all (· == 0)) 3 (64 + 16 * n)
  let et ← rd entoff (32 * nent)
  let entries ← (List.range nent).mapM fun i => do
    let r := (et.drop (32 * i)).take 32
    let offs := (List.range 4).map fun n => field r (4 * n) 4
    (List.range 4).forM fun n =>
      chk (if n < nvar then inCode (offs.getD n 0) else offs.getD n 0 == 0) 3 (entoff + 32 * i + 4 * n)
    chk (byteAt r 16 ≤ 3) 3 (entoff + 32 * i + 16)
    (.ok { offs := offs, role := byteAt r 16 } : Chk Entry)
  chk ((entries.filter fun e => e.role ≠ 0).length == byteAt h 11) 3 11
  let spawns ← (List.range nspn).mapM fun i => do
    let o := spnoff + 16 * i
    let r ← rd o 16
    chk (inCode (field r 0 4)) 3 o
    chk (byteAt r 4 % 8 == 0 && 8 ≤ byteAt r 4 && byteAt r 4 ≤ 64) 3 (o + 4)
    chk (byteAt r 5 % 16 == 0 && 16 ≤ byteAt r 5 && byteAt r 5 ≤ 64) 3 (o + 5)
    chk (1 ≤ byteAt r 6 && byteAt r 6 ≤ 32) 3 (o + 6)
    chk (1 ≤ byteAt r 7 && byteAt r 7 ≤ 4) 3 (o + 7)
    chk (field r 8 2 ≤ 160) 3 (o + 8)
    (.ok { pc := field r 0 4, nv := byteAt r 4, ns := byteAt r 5, beams := byteAt r 6, pay := byteAt r 7, spad := field r 8 2 } : Chk SpawnEntry)
  let nodes ← (List.range nnode).mapM fun i => do
    let o := nodoff + 16 * i
    let r ← rd o 16
    chk (byteAt r 0 < nent) 3 o
    chk (1 ≤ byteAt r 1 && byteAt r 1 ≤ 4) 3 (o + 1)
    chk (1 ≤ field r 2 2 && field r 2 2 ≤ 256) 3 (o + 2)
    chk (1 ≤ field r 4 2) 3 (o + 4)
    chk (variants.all fun v => field r 2 2 * byteAt r 1 * 16 ≤ 4096 * v.spad) 3 (o + 2)
    (.ok { entry := byteAt r 0, size := byteAt r 1, count := field r 2 2, timer := field r 4 2 } : Chk Node)
  let points ← if swmask = 0 then .ok [] else (List.range 64).mapM fun j => do
    let o := swoff + 8 * j
    let r ← rd o 8
    if nvar ≤ j / 16 || !bit swmask (j % 16) then do
      chk (field r 0 4 == 0) 3 o
      (.ok { pc := 0, area := 0, places := [] } : Chk SwPoint)
    else do
      chk (inCode (field r 0 4)) 3 o
      chk (swoff + 512 + 4 * (field r 6 2 + byteAt r 5) ≤ imgsz) 3 (o + 6)
      let ps ← (List.range (byteAt r 5)).mapM fun i => do
        let po := swoff + 512 + 4 * (field r 6 2 + i)
        let p ← rd po 4
        chk (byteAt p 0 ≤ 4) 3 po
        (.ok { cls := byteAt p 0, reg := byteAt p 1, off := field p 2 2 } : Chk Place)
      .ok { pc := field r 0 4, area := byteAt r 4, places := ps }
  .ok { swmask := swmask, codeoff := codeoff, codesz := codesz, cstoff := cstoff, cstsz := cstsz, variants := variants,
        entries := entries, spawns := spawns, nodes := nodes, points := points }

/-- The ring and the slots of each of n nodes, from the table at wgtab (R356). DEDUCED, unsafe (log 38). -/
def State.readRings (s : State) (ctx wgtab n : Nat) : Chk (List (Nat × Nat)) :=
  if n = 0 then .ok []
  else do
    chk (wgtab ≠ 0 && wgtab % 16 == 0) 2 72
    (List.range n).mapM fun i => do
      let r ← s.objRead ctx 2 (wgtab + 16 * i) 16
      chk (field r 0 8 % 64 == 0 && field r 8 2 ≠ 0) 2 72
      .ok (field r 0 8, field r 8 2)

/-- The record's checks in byte order (R122): those past byte 63 need the counts in the image's header and the
work-graph table, which are read as a check needs them. Answers the nodes' rings and slots.
DEDUCED, unsafe (log 38). -/
def State.acceptRecord (s : State) (ctx : Nat) (r : LRec) (die : Option Nat) : Chk (List (Nat × Nat)) := do
  checkRecord r die
  let h ← s.objRead ctx 1 r.code 64
  let q := s.queue r.spillq
  chk (byteAt h 10 == 0 || (r.spillq < 4096 && q.type == 3 && q.ctx == ctx)) 2 64
  chk (r.nest ≤ 8) 2 68
  let rings ← s.readRings ctx r.wgtab (field h 12 2)
  checkRoles r (byteAt h 7) (byteAt h 6)
  .ok rings

/-- The records of the order log that Mirror reads (R312): no more than its size holds. -/
def State.readLog (s : State) (ctx : Nat) (r : LRec) : Chk (List LogRec) :=
  if !bit r.flags 2 then .ok []
  else do
    let h ← s.objRead ctx 3 r.olog 8
    (List.range (min (field h 0 8) ((r.olsz - 64) / 16))).mapM fun i => do
      let b ← s.objRead ctx 3 (r.olog + 64 + 16 * i) 16
      .ok { kind := byteAt b 0, key := field b 1 6, src := field b 7 5, chc := field b 12 4 }

/-! ### What fits -/

/-- Scratchpad bytes of an allocation with the save region of R394, where the context has a handler. -/
def spadNeed (trapBase spad beams : Nat) : Nat :=
  if trapBase = 0 then 4096 * spad else roundUp (4096 * spad + 256 * beams) 4096

/-- A budget fits an empty core (R129). -/
def fitsEmpty (trapBase split sresv nv ns beams spad : Nat) : Bool :=
  beams + sresv ≤ 64 && beams ≤ 65536 / (32 * nv + 4 * ns) && spadNeed trapBase spad beams ≤ 65536 * split

/-- The handler base and the scratchpad units of a context. -/
def State.trapBase (s : State) (ctx : Nat) : Nat := s.ctxReg64 ctx 0x100
def State.split (s : State) (ctx : Nat) : Nat := (s.ctxReg ctx 0x102).toNat % 16

/-- NEVER_FITS (R122, R120): its entry index. -/
def State.neverFits (s : State) (ctx : Nat) (r : LRec) (o : CodeObj) : Chk Unit := do
  let ok := fun (v : Variant) => fitsEmpty (s.trapBase ctx) (s.split ctx) r.sresv v.nv v.ns v.beams v.spad
  let some_ := o.variants.any ok
  r.used.forM fun x => chk (if x.variant = 255 then some_ else (o.variants[x.variant]?).any ok) 6 x.entry
  chk (r.used ≠ [] || some_) 6 0
  o.nodes.forM fun n => chk some_ 6 n.entry
  let (w, h) := shapeOf r.gshp
  chk (!r.cor || r.gcnt ≤ 2 ^ r.fw / w * (2 ^ r.fh / h)) 6 0

/-- Features a launch needs that the driver has not enabled (R471): the lowest. -/
def State.featuresOk (s : State) (r : LRec) (o : CodeObj) : Chk Unit := do
  chk (!bit r.flags 1 || s.enabled 0) 5 0
  chk (!bit r.flags 2 || s.enabled 1) 5 1
  chk (r.quota == 0 || s.enabled 2) 5 2
  chk (o.spawns == [] || s.enabled 3) 5 3
  chk (o.nodes == [] || s.enabled 4) 5 4

/-- All checks of R122, in the order of its table: the code object with its nodes, and the records of a Mirror run.
DEDUCED, unsafe (log 38). -/
def State.accept (s : State) (ctx : Nat) (raw : List Byte) (r : LRec) (die : Option Nat) : Chk (CodeObj × List LogRec) := do
  let rings ← s.acceptRecord ctx r die
  let o ← s.readObj ctx r.code
  (List.range 8).forM fun n => chk (slotOk raw n) 4 n
  s.featuresOk r o
  s.neverFits ctx r o
  let m ← s.readLog ctx r
  .ok ({ o with nodes := (o.nodes.zip rings).map fun p => { p.1 with ring := p.2.1, nslot := p.2.2 } }, m)

end Sys2Proof.Machine
end

