-- ==== Sys2Proof/Machine/Collective.lean ====
section
/-! DEFINITION. Collectives (R383 to R390): the descriptor and its tree, the four instructions, and the
combining stages of the routers. -/

namespace Sys2Proof.Machine

/-! ### Descriptor and tree (R383, R384) -/

structure Desc where
  x0 : Nat
  y0 : Nat
  fw : Nat
  fh : Nat
  xr : Nat
  yr : Nat
  yx : Bool
  all : Bool
  id : Nat
  tmo : Nat
  deriving DecidableEq, Repr

def descOf (k0 k1 : Nat) : Desc :=
  { x0 := bits k0 4 0, y0 := bits k0 7 5, fw := bits k0 10 8, fh := bits k0 12 11, xr := bits k0 17 13, yr := bits k0 20 18,
    yx := bit k0 21, all := bit k0 22, id := bits k1 15 0, tmo := bits k1 25 16 }

def Desc.root (d : Desc) : Nat := 32 * d.yr + d.xr
/-- A core's position in the rectangle. -/
def Desc.pos (d : Desc) (core : Nat) : Nat := (core / 32 - d.y0) * 2 ^ d.fw + (core % 32 - d.x0)
def Desc.inside (d : Desc) (x y : Nat) : Bool := d.x0 ≤ x && x < d.x0 + 2 ^ d.fw && d.y0 ≤ y && y < d.y0 + 2 ^ d.fh
def Desc.has (d : Desc) (core : Nat) : Bool := d.inside (core % 32) (core / 32)

/-- One step toward a coordinate. -/
def toward (a b : Nat) : Nat := if a < b then a + 1 else a - 1

/-- A core's parent: none for the root. -/
def Desc.parent (d : Desc) (core : Nat) : Option Nat :=
  let x := core % 32
  let y := core / 32
  if d.yx then
    if y ≠ d.yr then some (32 * toward y d.yr + x) else if x ≠ d.xr then some (32 * y + toward x d.xr) else none
  else
    if x ≠ d.xr then some (32 * y + toward x d.xr) else if y ≠ d.yr then some (32 * toward y d.yr + x) else none

/-- The neighbour in a direction: west, north, east, south. -/
def neighbour (core dir : Nat) : Option Nat :=
  match dir with
  | 0 => if core % 32 = 0 then none else some (core - 1)
  | 1 => if core < 32 then none else some (core - 32)
  | 2 => if core % 32 = 31 then none else some (core + 1)
  | _ => if 224 ≤ core then none else some (core + 32)

/-- A core's child in a direction. -/
def Desc.child (d : Desc) (core dir : Nat) : Option Nat :=
  match neighbour core dir with
  | some n => if d.has n && d.parent n == some core then some n else none
  | none => none
/-- The directions of a core's children, in the order of R384. -/
def Desc.childDirs (d : Desc) (core : Nat) : List Nat := (List.range 4).filter fun i => (d.child core i).isSome
/-- The direction a core lies in, seen from its parent. -/
def Desc.dirFrom (d : Desc) (core par : Nat) : Nat := ((List.range 4).find? fun i => d.child par i == some core).getD 0

/-! ### Routers -/

def collKey (launch id : Nat) : Nat := launch * 65536 + id
def State.coll? (s : State) (core launch id : Nat) : Option Coll := look (s.core core).colls (collKey launch id)
/-- Change what a router knows of a collective, from nothing if need be. -/
def State.modColl (s : State) (core launch k0 k1 : Nat) (f : Coll → Coll) : State :=
  let key := collKey launch (descOf k0 k1).id
  s.modCore core fun c => { c with colls := put c.colls key (f ((look c.colls key).getD { k0 := k0, k1 := k1 })) }

/-- Places a router has taken. DEDUCED, unsafe (log 44). -/
def State.collOpen (s : State) (core : Nat) : Nat := ((s.core core).colls.filter fun x => x.2.slot).length

def State.sendPkt (s : State) (p : Pkt) : State :=
  let (n, s) := s.fresh
  { s with net := put s.net n p }

/-- Element-wise FP32 addition under RN (R384). -/
def addVec (a b : List Nat) : List Nat := (a.zip b).map fun p => add32 p.1 p.2

/-- What a router sends up: its own contribution and its children's, in order, missing parts skipped; and
the positions still missing. -/
def Coll.total (c : Coll) (d : Desc) (core : Nat) : Option (List Nat) × List Nat :=
  (d.childDirs core).foldl (fun r i => match look c.kids i with
    | some (v, m) => (match r.1, v with
        | some a, some b => some (addVec a b)
        | none, b => b
        | a, none => a, r.2 ++ m)
    | none => r) (c.own, if c.own.isNone then [d.pos core] else [])

/-- A packet down the tree to each child. -/
def State.sendDown (s : State) (core launch k0 k1 : Nat) (dirs : List Nat) (kind : PktKind) : State :=
  let d := descOf k0 k1
  dirs.foldl (fun s i => match d.child core i with
    | some n => s.sendPkt { launch := launch, id := d.id, k0 := k0, k1 := k1, dst := n, kind := kind }
    | none => s) s

/-- A router that has everything it waits for sends its packet up; at the root the collective is
complete. Under mode 0 a router away from the root then frees its place (R388). -/
def State.collTry (s : State) (core launch k0 k1 : Nat) : State :=
  let d := descOf k0 k1
  match s.coll? core launch d.id with
  | none => s
  | some c =>
    if c.sent || !((c.own.isSome || c.flushing) && (d.childDirs core).all fun i => (look c.kids i).isSome) then s
    else
      let (v, m) := c.total d core
      match d.parent core with
      | none =>
        let val := v.getD (List.replicate 32 0)
        let s := s.modColl core launch k0 k1 fun c => { c with sent := true, result := some (val, m, c.flushing) }
        if d.all then s.sendDown core launch k0 k1 (d.childDirs core) (.result val m c.flushing) else s
      | some p =>
        let s := s.modColl core launch k0 k1 fun c => { c with sent := true, slot := c.slot && d.all }
        s.sendPkt { launch := launch, id := d.id, k0 := k0, k1 := k1, dst := p, kind := .part (d.dirFrom core p) v m }

/-- Start a router's timer at its first packet (R389). -/
def Coll.timed (c : Coll) (clk : Nat) : Coll := if c.start.isNone then { c with start := some clk } else c

/-- The root, or a router the flush has reached, asks its children for what they hold (R389).
DEDUCED, unsafe (log 45). -/
def State.collFlush (s : State) (core launch k0 k1 : Nat) : State :=
  let d := descOf k0 k1
  let c := (s.coll? core launch d.id).getD { k0 := k0, k1 := k1 }
  if c.sent || c.flushing then s
  else
    let s := s.modColl core launch k0 k1 fun c => { c with flushing := true }
    let s := s.sendDown core launch k0 k1 ((d.childDirs core).filter fun i => (look c.kids i).isNone) .flush
    s.collTry core launch k0 k1

/-- A router's timer has run out and the router has not acted on it (R389): tmo µs of core clocks after its first packet,
0 giving 50. DESIGN CHOICE, unsafe (log 15). -/
def Coll.due (c : Coll) (clk : Nat) : Bool :=
  let tmo := (descOf c.k0 c.k1).tmo
  !c.expired && c.start.any fun t => t + 2100 * (if tmo = 0 then 50 else tmo) ≤ clk

/-- A router's timer runs out (R389): the root flushes, another router sends it a notice. -/
def State.collExpire (s : State) (core launch : Nat) (c : Coll) : State :=
  let d := descOf c.k0 c.k1
  let s := s.modColl core launch c.k0 c.k1 fun c => { c with expired := true }
  if core = d.root then s.collFlush core launch c.k0 c.k1
  else s.sendPkt { launch := launch, id := d.id, k0 := c.k0, k1 := c.k1, dst := d.root, kind := .notice }

/-- Notices and flushes of a collective reach their routers. -/
def State.flushNow (s : State) (launch id : Nat) : Nat → State
  | 0 => s
  | n + 1 =>
    match s.net.find? fun x => x.2.launch == launch && x.2.id == id && (x.2.kind == .flush || x.2.kind == .notice) with
    | some (k, p) => ({ s with net := del s.net k }.collFlush p.dst p.launch p.k0 p.k1).flushNow launch id n
    | none => s

/-- A packet that comes after a timer of its collective has run out finds the flush done, since only the flush's way over
the mesh lies between (R389, R438). DEDUCED, unsafe (log 45). -/
def State.collDue (s : State) (launch id : Nat) : State :=
  let late := s.cores.filterMap fun c => match look c.2.colls (collKey launch id) with
    | some x => if x.expired || x.due s.sched.clk then some (c.1, x) else none
    | none => none
  if late = [] then s
  else (late.foldl (fun s p => if p.2.expired then s else s.collExpire p.1 launch p.2) s).flushNow launch id 600

/-! ### Descriptor checks (R386) -/

/-- DEDUCED, unsafe (log 29). -/
def State.collDesc (s : State) (f : TF) (ok : Desc → Bool) : R (Desc × Nat × Nat) :=
  let k0 := (s.cb.getK f.b.num).toNat
  let k1 := (s.cb.getK (f.b.num + 1)).toNat
  let d := descOf k0 k1
  let r := s.cl.lrec
  let good := k0 < 2 ^ 23 && k1 < 2 ^ 26 && d.fw ≤ 5 && d.x0 % 2 ^ d.fw == 0 && d.y0 % 2 ^ d.fh == 0
    && r.x0 ≤ d.x0 && d.x0 + 2 ^ d.fw ≤ r.x0 + 2 ^ r.fw && r.y0 ≤ d.y0 && d.y0 + 2 ^ d.fh ≤ r.y0 + 2 ^ r.fh
    && d.inside d.xr d.yr && d.has s.cc && ok d
  if good then .ok (d, k0, k1) else trap Code.collInvalid s.cb.active

/-! ### The four instructions -/

/-- RPKT (R387). DEDUCED, unsafe (log 44). -/
def rpktEffect (h : Hd) (f : TF) (s : State) : R State := do
  s.needs 5
  let c ← s.flagOf h false
  s.vIn f.a
  s.ordered f.ord
  if !s.acts h then s.offFence f.ord c
  else do
    let (d, k0, k1) ← s.collDesc f fun _ => true
    let l := s.cwg.launch
    let s := s.collDue l d.id
    let x := (s.coll? s.cc l d.id).getD { k0 := k0, k1 := k1 }
    need (!x.contributed && x.read == 0) Code.collInvalid s.cb.active
    let m := s.cb.live &&& 0x0F#8
    let a : Src := { f := f.a, v := true, want := .ty .f32 }
    s.checkSrcs m [a]
    ready (x.slot || x.sent || s.collOpen s.cc < 16)
    let vals := (List.range 4).flatMap fun t => if m.getLsbD t then (s.srcElems a t).1 else List.replicate 8 0
    let fl := fun t => (s.srcElems a t).2
    let core := s.cc
    let clk := s.sched.clk
    let s := s.modColl core l k0 k1 fun y =>
      let y := { y.timed clk with contributed := true }
      if y.sent then { y with late := true } else { y with slot := true, own := some vals }
    let s := (s.orFx m fl).collTry core l k0 k1
    .ok (s.later c .other [] none (.rpkt core l d.id))

/-- RRECV and RBCAST (R388). DEDUCED, unsafe (log 44). -/
def recvEffect (bcast : Bool) (h : Hd) (f : TF) (s : State) : R State := do
  s.needs 5
  let c ← s.flagOf h true
  s.vIn f.d
  if !s.acts h then s.offFence f.ord c
  else do
    let (d, _, _) ← s.collDesc f fun d => if bcast then d.all else !d.all && s.cc == d.root
    let ts := ((List.range 4).filter fun t => s.cb.live.getLsbD t).map fun t => (t, s.tkey t)
    .ok (s.later c .other [] none (.coll s.cc s.cwg.launch d.id f.d.num ts f.ord.acqAt))

/-- The state of an id as RSTAT reads it (R390). DEDUCED, unsafe (log 44). -/
def Coll.state (c : Coll) (core : Nat) : Nat :=
  let d := descOf c.k0 c.k1
  if c.read ≠ 0 then c.read
  else if c.late || (!d.all && core ≠ d.root && c.contributed && c.sent) then 2
  else b2n c.contributed

/-- The value of a selector of RSTAT. -/
def Coll.value (c : Coll) (core sel : Nat) : Nat :=
  if sel = 0 then c.state core + 4 * b2n c.late + 256 * c.missing.length
  else maskOf 32 fun i => c.missing.contains (32 * (sel - 1) + i)

/-- RSTAT (R390). -/
def rstatEffect (h : Hd) (f : TF) (s : State) : R State := do
  s.needs 5
  let c ← s.flagOf h true
  s.sIn f.d
  if !(if f.d.isK then s.acts h else s.part h != 0) then .ok (s.later c .other [])
  else do
    let (d, _, _) ← s.collDesc f fun _ => true
    let v := match s.coll? s.cc s.cwg.launch d.id with
      | some x => x.value s.cc f.tx.toNat
      | none => 0
    .ok (s.later c .other (s.wrD (s.part h) f.d (fun _ => BitVec.ofNat 32 v) 9))

/-- The writes of a receive whose result has come (R388), and the state it leaves. -/
def State.collTake (s : State) (core launch id d : Nat) (ts : List (Nat × Nat)) : Option (List RegWrite × State) :=
  match s.coll? core launch id with
  | some c =>
    match c.result with
    | some (v, m, t) =>
      let ws := ts.map fun p => RegWrite.v p.2 d (BitVec.ofNat 256 (ofElems 32 ((v.drop (8 * p.1)).take 8))) (-1) 8 32
      some (ws, s.modColl core launch c.k0 c.k1 fun c => { c with read := if t then 3 else 2, missing := m, slot := false })
    | none => none
  | none => none

/-- A contribution has been taken (R387): by the root's stage, by the parent router, or as a late packet. -/
def State.collTaken (s : State) (core launch id : Nat) : Bool :=
  match s.coll? core launch id with
  | some c => c.late || c.taken || (c.own.isSome && (descOf c.k0 c.k1).root == core)
  | none => true

/-! ### Packets -/

/-- The parent has taken a child's packet. DEDUCED, unsafe (log 45). -/
def State.collAck (s : State) (p : Pkt) (dir : Nat) : State :=
  match (descOf p.k0 p.k1).child p.dst dir with
  | some ch => s.modColl ch p.launch p.k0 p.k1 fun c => { c with taken := true }
  | none => s

/-- ROUTER_PACKET_ARRIVAL (R384, R388, R389). A child's packet that would open a 17th collective waits for a place
(R387). DEDUCED, unsafe (log 44). -/
def packetArrival (s : State) : Option State :=
  match look s.net s.sched.arg.a with
  | none => none
  | some p =>
    let d := descOf p.k0 p.k1
    let s := match p.kind with
      | .part _ _ _ => s.collDue p.launch d.id
      | _ => s
    let s1 := { s with net := del s.net s.sched.arg.a }
    let c := (s.coll? p.dst p.launch d.id).getD { k0 := p.k0, k1 := p.k1 }
    match p.kind with
    | .part dir v m =>
      if !c.sent && !c.slot && 16 ≤ s.collOpen p.dst then none
      else if c.sent then some ((s1.modColl p.dst p.launch p.k0 p.k1 fun c => c.timed s.sched.clk).collAck p dir)
      else
        let s2 := s1.modColl p.dst p.launch p.k0 p.k1 fun c =>
          { c.timed s.sched.clk with slot := true, kids := put c.kids dir (v, m) }
        some ((s2.collAck p dir).collTry p.dst p.launch p.k0 p.k1)
    | .flush => some (s1.collFlush p.dst p.launch p.k0 p.k1)
    | .result v m t =>
      let s2 := s1.modColl p.dst p.launch p.k0 p.k1 fun c => { c with result := some (v, m, t) }
      some (s2.sendDown p.dst p.launch p.k0 p.k1 (d.childDirs p.dst) (.result v m t))
    | .notice => none

/-- COLLECTIVE_TIMEOUT (R389): whatever the router has sent since its first packet. DEDUCED, unsafe (log 45). -/
def collTimeout (s : State) : Option State :=
  let core := s.sched.arg.a
  let launch := s.sched.arg.b
  match s.coll? core launch s.sched.arg.c with
  | some c => if c.due s.sched.clk then some (s.collExpire core launch c) else none
  | none => none

/-- EXPIRY_NOTICE (R389): the root starts a flush. DEDUCED, unsafe (log 45). -/
def expiryNotice (s : State) : Option State :=
  match look s.net s.sched.arg.a with
  | some p =>
    if p.kind = .notice then
      let s := { s with net := del s.net s.sched.arg.a }
      some (s.collFlush p.dst p.launch p.k0 p.k1)
    else none
  | none => none

/-- Everything a launch had in the routers ends with it (R388). -/
def State.dropColls (s : State) (l : Nat) : State :=
  { s with net := s.net.filter fun x => x.2.launch ≠ l,
           cores := s.cores.map fun c => (c.1, { c.2 with colls := c.2.colls.filter fun x => x.1 / 65536 ≠ l }) }

/-- RPKT (R387). -/
def execRpkt (h : Hd) (f : TF) (s : State) : Host.Outcome State Fault Refusal := issue s (rpktEffect h f)
/-- RRECV (R388). -/
def execRrecv (h : Hd) (f : TF) (s : State) : Host.Outcome State Fault Refusal := issue s (recvEffect false h f)
/-- RBCAST (R388). -/
def execRbcast (h : Hd) (f : TF) (s : State) : Host.Outcome State Fault Refusal := issue s (recvEffect true h f)
/-- RSTAT (R390). -/
def execRstat (h : Hd) (f : TF) (s : State) : Host.Outcome State Fault Refusal := issue s (rstatEffect h f)
/-- ROUTER_PACKET_ARRIVAL (R384). -/
def execRouterPacketArrival (s : State) : Host.Outcome State Fault Refusal := event s packetArrival
/-- COLLECTIVE_TIMEOUT (R389). -/
def execCollectiveTimeout (s : State) : Host.Outcome State Fault Refusal := event s collTimeout
/-- EXPIRY_NOTICE (R389). -/
def execExpiryNotice (s : State) : Host.Outcome State Fault Refusal := event s expiryNotice

end Sys2Proof.Machine
end

