-- ==== Sys2Proof/Machine/Copy.lean ====
section
/-! DEFINITION. The copy channels (R320 to R331): the five instructions, and the steps a channel takes on
its own. -/

namespace Sys2Proof.Machine

/-! ### Channels -/

def State.chan (s : State) (core ch : Nat) : Chan := (look (s.core core).chans ch).getD {}
def State.modChan (s : State) (core ch : Nat) (f : Chan → Chan) : State :=
  s.modCore core fun c => { c with chans := put c.chans ch (f ((look c.chans ch).getD {})) }

def Chan.idle (c : Chan) : Bool := c.running.isNone && c.queue.isEmpty
/-- The status word (R328): a channel whose next command is about to start counts as running. -/
def Chan.status (c : Chan) : Nat :=
  c.seq + 2 ^ 16 * (if c.stalled.isSome then 2 else if c.idle then 0 else 1)
    + 2 ^ 20 * (c.queue.length - b2n c.running.isNone) + 2 ^ 24 * c.last
/-- A channel as a gang sees it: held by another, it reads as idle with sequence 0 (R325).
DEDUCED, unsafe (log 41). -/
def Chan.seenBy (c : Chan) (gang : Nat) : Chan :=
  if c.holder.all (· == gang) then c
  else { c with running := none, queue := [], stalled := none, seq := 0, wp := 0 }

/-- A command has ended for a CPYWAIT (R325). -/
def Chan.ended (c : Chan) (seq : Nat) : Bool :=
  let d := (c.seq + 65535 - seq % 65535) % 65535
  seq == 0 || (c.seq == 0 && c.idle) || c.removed.contains seq
    || (1 ≤ d && d ≤ 32767)
    || (c.seq == seq && c.running.all fun r => r.seq ≠ seq)

/-- The condition of CPYWAIT. -/
def Chan.reached (c : Chan) (ptr seq : Nat) : Bool :=
  c.ended seq || c.running.any fun r => r.seq == seq && ptr ≤ c.wp

/-- A command is neither queued nor running. -/
def State.copyEnded (s : State) (core ch seq : Nat) : Bool :=
  let c := s.chan core ch
  !(c.queue.any fun x => x.seq == seq) && c.running.all fun r => r.seq ≠ seq

/-! ### The descriptor (R321, R322) -/

def descCmd (l : List Byte) (seq : Nat) (s : State) : CopyCmd :=
  { seq := seq, src := field l 0 8, dst := field l 8 8, len := field l 16 4, skind := byteAt l 20, dkind := byteAt l 21,
    slay := byteAt l 22 % 4, dlay := byteAt l 22 / 4 % 4, sofs := field l 24 8,
    wg := s.cb.wg, gang := s.cwg.gang, launch := s.cwg.launch, ctx := s.cctx, mask := s.cb.active }

/-- The checks that raise COPY_DESC. DEDUCED, unsafe (log 41). -/
def descOk (l : List Byte) (c : CopyCmd) : Bool :=
  let laid := fun k => k == 1 || k == 2
  c.skind ≤ 4 && c.dkind ≤ 3 && 1 ≤ c.len && c.len ≤ 2 ^ 31 && byteAt l 22 < 16 && byteAt l 23 == 0
    && ((l.drop 32).take 32).all (· == 0)
    && (c.slay == 0 || laid c.skind) && (c.dlay == 0 || laid c.dkind) && (c.sofs == 0 || c.skind == 4)
    && (c.dkind ≠ 0 || c.dst / 2 ^ 32 == (c.dst + c.len - 1) / 2 ^ 32)

/-- A range of the gang window lies in one core's region, clear of the places of retired workgroups (R257). -/
def State.windowOk (s : State) (gang ea n : Nat) : Bool :=
  let g := s.gang gang
  let core := g.coreAt (bits ea 23 20)
  let r := ea % 2 ^ 20
  ea < 2 ^ 24 && bits ea 23 20 < g.w * g.h && r + n ≤ s.regionSize gang core && regionLive (s.regionWgs gang core) 0 r n

/-- The bounds of a range that is not memory. -/
def State.rangeOk (s : State) (kind off n : Nat) : Bool :=
  match kind with
  | 1 => off + n ≤ s.cwg.spadSize
  | 2 => s.windowOk s.cwg.gang off n
  | 3 => off + n ≤ s.stackLimit s.cctx
  | _ => true

/-! ### CPY to CPYST -/

/-- The channel position a word names (R323): c at or beyond w·h is ILLEGAL_INSTRUCTION. -/
def State.chanAt (s : State) (f : TF) : R Nat :=
  let g := s.gang s.cwg.gang
  if f.x 3 4 < g.w * g.h then .ok (g.coreAt (f.x 3 4)) else illegal

/-- The first command of the queue starts (R325). DEDUCED, unsafe (log 40). -/
def Chan.start (x : Chan) : Chan :=
  match x.running, x.queue with
  | none, c :: cs => { x with running := some c, queue := cs, seq := c.seq, wp := c.dst % 2 ^ 32 }
  | _, _ => x

/-- The next number of the cycle 1 to 65,535. -/
def Chan.nextSeq (c : Chan) : Nat := c.seqCtr % 65535 + 1

/-- CPY (R324). An idle channel starts the command at once.
DEDUCED, unsafe (log 29). DEDUCED, unsafe (log 40). DEDUCED, unsafe (log 41). -/
def cpyEffect (h : Hd) (f : TF) (s : State) : R State := do
  let c ← s.flagOf h true
  let ch := f.x 0 3
  s.ordered f.ord
  if !s.acts h then s.offFence f.ord c
  else do
    let x := s.chan s.cc ch
    ready (x.holder.all (· == s.cwg.gang) && x.queue.length + b2n x.running.isSome < 4)
    let o := (s.cb.getK f.a.num).toNat
    let m := s.cb.active
    need (o % 64 == 0) Code.illegalInstruction
    let bound := fun (ok : Bool) (a : Nat) => if ok then .ok () else (.error (.trap { code := Code.scratchBounds, mask := m, addr := a }) : R Unit)
    bound (o + 64 ≤ s.cwg.spadSize) o
    let l := getBs s.mem.scratch (sramKey s.cc (s.cwg.spadBase + o)) 64
    let seq := x.nextSeq
    let cmd := descCmd l seq s
    need (descOk l cmd) Code.copyDesc m
    bound (s.rangeOk cmd.skind cmd.src cmd.len) cmd.src
    bound (s.rangeOk cmd.dkind cmd.dst cmd.len) cmd.dst
    let s := s.modChan s.cc ch fun x =>
      let y := { x with holder := some s.cwg.gang, seqCtr := seq, queue := x.queue ++ [cmd], removed := x.removed.filter (· ≠ seq) }
      if x.idle then y.start else y
    let s := s.modCb fun b => b.setK f.d.num (BitVec.ofNat 32 seq)
    .ok ((s.acquire s.cc f.ord.acqAt).later c .other [] none (.copyEnd s.cc ch seq true))

/-- CPYWP (R325). -/
def cpywpEffect (h : Hd) (f : TF) (s : State) : R State := do
  let c ← s.flagOf h true
  let core ← s.chanAt f
  if !s.acts h then s.offFence f.ord c
  else
    let x := (s.chan core (f.x 0 3)).seenBy s.cwg.gang
    .ok ((s.acquire s.cc f.ord.acqAt).later c .other [.k f.d.num (BitVec.ofNat 32 x.wp), .k (f.d.num + 1) (BitVec.ofNat 32 (x.seq + 2 ^ 16 * b2n x.idle))])

/-- CPYWAIT (R325). -/
def cpywaitEffect (h : Hd) (f : TF) (s : State) : R State := do
  let c ← s.flagOf h true
  let core ← s.chanAt f
  if !s.acts h then s.offFence f.ord c
  else
    let ptr := (s.cb.getK f.a.num).toNat
    let seq := (s.cb.getK (f.a.num + 1)).toNat % 65536
    .ok (s.later c .other [] none (.copyAt core (f.x 0 3) ptr seq f.d.num s.cwg.gang f.ord.acqAt))

/-- A notification that still waits in a die's buffer is withdrawn (R327). -/
def State.withdraw (s : State) (ctx die t : Nat) : State :=
  { s with evbuf := upd s.evbuf (die * 16 + ctx) fun l => l.filter fun e => !(byteAt e 0 == 3 && field e 4 4 == t) }

/-- The running command of a channel ends with an outcome (R324, R326, R327): its own fault is recorded
for its counter, and an idle channel is held no longer. -/
def State.endCopy (s : State) (core ch last : Nat) (fault : Option FaultRec) (addr : Nat) : State :=
  let x := s.chan core ch
  let s := match x.running, fault with
    | some r, some ft => { s with ops := s.ops.map fun (o : Op) => if o.cond = OpCond.copyEnd core ch r.seq true then { o with fault := some ft } else o }
    | _, _ => s
  let s := match x.stalled, x.running with
    | some t, some r => { s with tickets := del s.tickets t }.withdraw r.ctx (core % 32 / 16) t
    | _, _ => s
  s.modChan core ch fun x =>
    { x with running := none, stalled := none, last := last, faultAddr := if fault.isSome then addr else x.faultAddr,
             holder := if x.queue = [] then none else x.holder }

/-- CPYCAN (R327). A running command all of whose bytes are written has not ended: it is cancelled at its end. -/
def cpycanEffect (h : Hd) (f : TF) (s : State) : R State := do
  let c ← s.flagOf h false
  let ch := f.x 0 3
  let x := s.chan s.cc ch
  if !s.acts h || x.holder ≠ some s.cwg.gang then .ok (s.later c .other [])
  else
    let hit := fun (r : CopyCmd) => f.x 3 1 == 1 || r.seq == (s.cb.getK f.a.num).toNat
    let gone := (x.queue.filter hit).map (·.seq)
    let s := s.modChan s.cc ch fun x =>
      { x with queue := x.queue.filter fun r => !hit r, removed := x.removed ++ gone, running := x.running.map fun r => if hit r then { r with cancel := true }.halt else r }
    let s := s.modChan s.cc ch fun x => { x with holder := if x.idle then none else x.holder }
    match x.running with
    | some r =>
      if !hit r then .ok (s.later c .other [])
      else
        let s := if x.stalled.isSome then s.endCopy s.cc ch 2 none 0 else s
        .ok (s.later c .other [] none (.copyEnd s.cc ch r.seq false))
    | none => .ok (s.later c .other [])

/-- The value of a selector of CPYST (R328). -/
def Chan.value (c : Chan) (sel : Nat) : Nat :=
  match sel with
  | 0 => c.status
  | 1 => c.faultAddr % 2 ^ 32
  | 2 => c.faultAddr / 2 ^ 32
  | _ => c.wp

/-- CPYST (R328). -/
def cpystEffect (h : Hd) (f : TF) (s : State) : R State := do
  let c ← s.flagOf h true
  let core ← s.chanAt f
  if !s.acts h then .ok (s.later c .other [])
  else
    let x := (s.chan core (f.x 0 3)).seenBy s.cwg.gang
    .ok (s.later c .other [.k f.d.num (BitVec.ofNat 32 (x.value (f.x 7 2)))])

/-! ### A channel at work -/

/-- What stops a command at a byte (R326). -/
inductive CopyStop where
  | page (addr cause : Nat)
  /-- uncorrectable data, with the location of an error of the array -/
  | data (addr : Nat) (loc : Option Nat)
  | aperture (addr : Nat)
  | hazard (addr : Nat)
  | surface (addr : Nat)
  | feature (n : Nat)
  deriving DecidableEq, Repr

/-- What stops a command at a byte it could not read. -/
def Fail.copyStop (e : Fail) (addr : Nat) : CopyStop :=
  match e with
  | .page a c => .page a c
  | .data loc => .data addr loc
  | .feature n => .feature n

/-- A byte of a core's SRAM or of a stack die, unless a soft error has struck it. -/
def State.sramByte (s : State) (key addr : Nat) : Except CopyStop Byte :=
  if s.struckS key then .error (.data addr none) else .ok (getB s.mem.scratch key)
def State.stackByte (s : State) (key addr : Nat) : Except CopyStop Byte :=
  if s.struckK key then .error (.data addr none) else .ok (getB s.mem.stack key)

/-- The first of n bytes behind plain pages that has an unapplied partial of the launch (R307). -/
def State.plainHazard (s : State) (ctx launch va n : Nat) : Option Nat :=
  ((List.range n).map (va + ·)).find? fun a => match s.xlPlain ctx a .read with
    | .ok x => !x.isAp && s.hazard launch x.loc 1
    | .error _ => false

/-- The address of the length nibble of block k, where zeros are elided. -/
def Surf.nibbleAt (f : Surf) (k : Nat) : Nat := f.meta_ + k / 2

/-- The record of a surface that a command reads (R263, R307, R326). -/
def State.copySurf (s : State) (c : CopyCmd) : Except CopyStop Surf :=
  match s.plainHazard c.ctx c.launch c.src 64 with
  | some a => .error (.hazard a)
  | none => match s.plainBytes c.ctx c.src 64 with
    | .error e => .error (e.copyStop c.src)
    | .ok r => if c.src % 64 ≠ 0 || !surfFull r then .error (.surface c.src) else .ok (surfOf r)

/-- A byte of a surface, unless a partial lies in what is read for it (R307, R326). A misfitting length nibble ends
the copy with LAST 7. DEDUCED, unsafe (log 114). -/
def State.copySurfByte (s : State) (c : CopyCmd) (f : Surf) (L : Nat) : Except CopyStop Byte :=
  let nib := if f.ze && decide (L < f.spitch * f.depth) then s.plainHazard c.ctx c.launch (f.nibbleAt (L / 512)) 1 else none
  match nib with
  | some a => .error (.hazard a)
  | none =>
    if s.surfHazard c.ctx c.launch f L then .error (.hazard (f.base + L))
    else match s.surfByte c.ctx f L with
      | .error (.data none) => .error (.surface (f.base + L / 512 * 512))
      | .error e => .error (e.copyStop (f.base + L))
      | .ok b => .ok b

/-- An offset in the scratchpad of the issuing workgroup, which a variant switch may have made smaller: an engine
never reaches the save region (R394). DEDUCED, unsafe (log 41). -/
def State.padKey (s : State) (core : Nat) (c : CopyCmd) (lay o : Nat) : Option Nat :=
  let g := s.wg c.wg
  if o < g.spadSize then some (sramKey core (g.spadBase + layout lay o)) else none

/-- One source byte. A place of the scratchpad or of the gang window that is no longer there reads as the spec leaves
open. -/
def State.copyRead (s : State) (core : Nat) (c : CopyCmd) (i : Nat) : Except CopyStop Byte :=
  let gone : Except CopyStop Byte := .ok (BitVec.ofNat 8 (Config.free (s.sched.freeIdx + i)))
  match c.skind with
  | 0 =>
    let va := (c.src + i) % 2 ^ 64
    match s.xl c.ctx va .read with
    | .error e => .error (.page va e)
    | .ok x =>
      if (x.isPeer || x.via) && !s.enabled 7 then .error (.feature 7)
      else if x.isAp && !s.enabled 9 then .error (.feature 9)
      else
        let p : Piece := { va := va, x := x, n := 1 }
        if s.pieceHazard c.ctx c.launch p then .error (.hazard va)
        else match s.readPiece c.ctx none p with
          | .error e => .error (e.copyStop va)
          | .ok bs => .ok (bs.headD 0)
  | 1 => match s.padKey core c c.slay (c.src + i) with
    | some k => s.sramByte k (c.src + i)
    | none => gone
  | 2 => match s.windowKeys c.gang c.slay (c.src + i) 1 with
    | some (k :: _) => s.sramByte k (c.src + i)
    | _ => gone
  | 3 => s.stackByte (stackKey (core % 32 / 16) c.ctx (c.src + i)) (c.src + i)
  | _ => do s.copySurfByte c (← s.copySurf c) (c.sofs + i)

/-- A block among n from the k-th whose length nibble does not fit its mask (R264, R326). -/
def State.misfitAt (s : State) (ctx launch : Nat) (f : Surf) (k : Nat) : Nat → Option Nat
  | 0 => none
  | n + 1 =>
    match s.nibble ctx f k, s.plainBytes ctx (f.base + 512 * k) 16 with
    | .ok lam, .ok m =>
      if misfit lam (natOfBytes m) && (s.plainHazard ctx launch (f.nibbleAt k) 1).isNone then some (f.base + 512 * k)
      else s.misfitAt ctx launch f (k + 1) n
    | _, _ => s.misfitAt ctx launch f (k + 1) n

/-- Before the first byte of a surface is moved, its length nibbles in the command's range are tested (R326).
DEDUCED, unsafe (log 41). -/
def State.copyBegins (s : State) (c : CopyCmd) : Option CopyStop :=
  if c.skind = 4 ∧ c.done = 0 then
    match s.copySurf c with
    | .ok f =>
      let top := min (c.sofs + c.len) (f.spitch * f.depth)
      if f.ze && c.sofs < top then
        (s.misfitAt c.ctx c.launch f (c.sofs / 512) ((top + 511) / 512 - c.sofs / 512)).map CopyStop.surface
      else none
    | .error _ => none
  else none

/-- A source byte the command has overwritten counts as it was or as it is, unspecified which (R330).
DEDUCED, unsafe (log 41). -/
def State.original (s : State) (c : CopyCmd) (i : Nat) (b : Byte) : Byte :=
  match look c.lost i with
  | some o => if Config.free (s.sched.freeIdx + i) % 2 = 0 then o else b
  | none => b

/-- Where destination byte i lies, in a write of n bytes from byte `lo`: a memory location, or a place the
model keeps elsewhere. -/
inductive CopyDst where
  | mem (loc : Nat) (nc rcd : Bool)
  | sram (key : Nat)
  | stack (key : Nat)
  | gone
  deriving DecidableEq, Repr

def State.copyDst (s : State) (core : Nat) (c : CopyCmd) (lo n i : Nat) : Except CopyStop CopyDst :=
  match c.dkind with
  | 0 =>
    let va := c.dst + i
    match s.xl c.ctx va .write with
    | .error e => .error (.page va e)
    | .ok x =>
      if x.isPeer && !s.enabled 7 then .error (.feature 7)
      else if x.isAp && !s.enabled 9 then .error (.feature 9)
      else if x.isAp then .error (.aperture va)
      else if s.keeps [(x.loc + lo - i, n)] x.loc then .ok (.mem x.loc (x.nc || x.isPeer) x.rcd) else .error (.data va (some x.loc))
  | 1 => match s.padKey core c c.dlay (c.dst + i) with
    | some k => .ok (.sram k)
    | none => .ok .gone
  | 2 => match s.windowKeys c.gang c.dlay (c.dst + i) 1 with
    | some (k :: _) => .ok (.sram k)
    | _ => .ok .gone
  | _ => .ok (.stack (stackKey (core % 32 / 16) c.ctx (c.dst + i)))

/-- Up to n source bytes from index i on, and what stops the reading. -/
def State.copySrc (s : State) (core : Nat) (c : CopyCmd) : Nat → Nat → List Byte × Option CopyStop
  | 0, _ => ([], none)
  | k + 1, i =>
    match (s.copyRead core c i).map (s.original c i) with
    | .error e => ([], some e)
    | .ok b =>
      let (r, e) := s.copySrc core c k (i + 1)
      (b :: r, e)

/-- The places of bytes from index i on, in a write of n bytes from index `lo`, and what stops the writing. -/
def State.copyPut (s : State) (core : Nat) (c : CopyCmd) (lo n : Nat) : List Byte → Nat → List (CopyDst × Byte) × Option CopyStop
  | [], _ => ([], none)
  | b :: bs, i =>
    match s.copyDst core c lo n i with
    | .error e => ([], some e)
    | .ok d =>
      let (r, e) := s.copyPut core c lo n bs (i + 1)
      ((d, b) :: r, e)

/-- The next bytes of a command: up to the end of its 64-byte destination unit, or to the boundary it is to stop at,
and what stops it before that. Where the source stalls inside a sector that only a whole write could replace, the
bytes wait for the rest (R324, R326). -/
def State.copyUnit (s : State) (core : Nat) (c : CopyCmd) : List (CopyDst × Byte) × Option CopyStop :=
  let lo := c.done
  let n := min (64 - (c.dst + lo) % 64) (min c.len (c.stop.getD c.len) - lo)
  match s.copyBegins c with
  | some e => ([], some e)
  | none =>
    let (bs, e) := s.copySrc core c n lo
    match s.copyPut core c lo bs.length bs lo, e with
    | ([], some (.data a l)), some (.page p q) =>
      if (s.copyPut core c lo n bs lo).1 = [] then ([], some (.data a l)) else ([], some (.page p q))
    | (us, some f), _ => (us, some f)
    | (us, none), _ => (us, e)

/-- What reading source bytes leaves: decompressed bytes of an Aperture, and writes of a link known to have been
performed (R265, R277). -/
def State.copySeen (s : State) (c : CopyCmd) (n : Nat) : State :=
  if c.skind = 0 then
    (List.range n).foldl (fun s j =>
      let va := (c.src + c.done + j) % 2 ^ 64
      match s.xl c.ctx va .read with
      | .ok x => s.afterEngine c.ctx { va := va, x := x, n := 1 }
      | .error _ => s) s
  else s

/-- Perform one destination byte: an engine of the core writes. -/
def State.putCopy (s : State) (core ctx : Nat) (d : CopyDst) (b : Byte) : State :=
  match d with
  | .mem loc nc rcd => s.poke { engine := some core, ctx := some ctx, nc := nc, rcd := rcd } loc [b]
  | .sram k => s.pokeS k [b]
  | .stack k => { s with mem := { s.mem with stack := setB s.mem.stack k b } }
  | .gone => s

/-- A sector or word written whole is readable again (R454). -/
def State.mend (s : State) (ds : List CopyDst) : State :=
  let past := ds.filterMap fun d => match d with
    | .mem l true _ => some l
    | _ => none
  let ws := wholeWords (ds.filterMap fun d => match d with
      | .sram k => some k
      | _ => none)
  let ks := wholeWords (ds.filterMap fun d => match d with
      | .stack k => some k
      | _ => none)
  let m := s.mem.renew (s.renewed past)
  { s with mem := { m with struck := m.struck.filter fun w => !(if w % 2 = 0 then ws else ks).contains (w / 2) } }

/-- The byte that stands at a destination place. -/
def State.atDst (s : State) (d : CopyDst) : Byte :=
  match d with
  | .mem loc _ _ => getB s.mem.bytes loc
  | .sram k => getB s.mem.scratch k
  | .stack k => getB s.mem.stack k
  | .gone => 0

/-- The source bytes of a run of n virtual ones, from index 0 at va, that stand at a location. -/
def State.srcAtLoc (s : State) (ctx va n loc : Nat) : List Nat :=
  (List.range (n / 65536 + 2)).filterMap fun q =>
    let page := (va / 65536 + q) * 65536
    match s.xlPlain ctx (page % 2 ^ 64) .read with
    | .ok x =>
      let a := page + loc % 65536
      if !x.isAp && x.loc / 65536 == loc / 65536 && va ≤ a && a < va + n then some (a - va) else none
    | .error _ => none

/-- The source bytes, from index i0 on, of n logical bytes of a surface from L on whose value depends on a location:
the bytes there, or the blocks whose slot or length nibble it holds. -/
def State.srcAtSurf (s : State) (ctx : Nat) (f : Surf) (L i0 n loc : Nat) : List Nat :=
  if !f.ze then (s.srcAtLoc ctx (f.base + L) n loc).map (i0 + ·)
  else
    let size := f.spitch * f.depth
    let blks := (s.srcAtLoc ctx f.base size loc).map (· / 512)
      ++ (s.srcAtLoc ctx f.meta_ (size / 1024 + 1) loc).flatMap fun m => [2 * m, 2 * m + 1]
    blks.flatMap fun k => (List.range 512).filterMap fun j =>
      let x := 512 * k + j
      if L ≤ x && x < L + n then some (i0 + (x - L)) else none

/-- The same of a command that reads memory: on plain pages, and on those of Apertures. -/
def State.srcAtMem (s : State) (c : CopyCmd) (loc : Nat) : List Nat :=
  s.srcAtLoc c.ctx c.src c.len loc ++ (pageParts c.src c.len).flatMap fun p =>
    match s.xl c.ctx (p.1 % 2 ^ 64) .read with
    | .ok x => match x.ap with
      | some (f, L) => s.srcAtSurf c.ctx f L (p.1 - c.src) p.2 loc
      | none => []
    | .error _ => []

/-- The source bytes of a command that depend on a destination place: of memory, of a surface, of the SRAMs, of the
stack die. A layout mode keeps a byte in its KiB. DEDUCED, unsafe (log 41). -/
def State.srcAt (s : State) (core : Nat) (c : CopyCmd) (d : CopyDst) : List Nat :=
  let inRow := fun (o : Nat) (hit : Nat → Bool) => (List.range 1024).filterMap fun j =>
    let a := o / 1024 * 1024 + j
    if hit a && c.src ≤ a && a < c.src + c.len then some (a - c.src) else none
  match c.skind, d with
  | 0, .mem loc _ _ => s.srcAtMem c loc
  | 4, .mem loc _ _ => match s.copySurf c with
    | .ok f => s.srcAtSurf c.ctx f c.sofs 0 c.len loc
    | .error _ => []
  | 1, .sram k =>
    let g := s.wg c.wg
    let lo := sramKey core g.spadBase
    if lo ≤ k && k < lo + g.spadSize then inRow (k - lo) fun a => layout c.slay a == k - lo else []
  | 2, .sram k =>
    let at_ := sramCore k
    (List.range ((s.gang c.gang).w * (s.gang c.gang).h)).flatMap fun p =>
      if (s.gang c.gang).coreAt p ≠ at_ then []
      else (s.regionWgs c.gang at_).flatMap fun g =>
        let lo := sramKey at_ g.2.spadBase
        if lo ≤ k && k < lo + g.2.spadSize then
          inRow (2 ^ 20 * p + regionOffset (s.regionWgs c.gang at_) g.1 + (k - lo)) fun a =>
            (s.windowKeys c.gang c.slay a 1) == some [k]
        else []
  | 3, .stack k =>
    let lo := stackKey (core % 32 / 16) c.ctx 0
    if lo + c.src ≤ k && k < lo + c.src + c.len then [k - lo - c.src] else []
  | _, _ => []

/-- Keep, as they read, the source bytes from index n on that the bytes of a unit overwrite (R330). -/
def State.keepOver (s : State) (core : Nat) (c : CopyCmd) (n : Nat) (us : List (CopyDst × Byte)) : NMap Byte :=
  us.foldl (fun m u => (s.srcAt core c u.1).foldl (fun m i =>
    if n ≤ i ∧ (look m i).isNone then (match s.copyRead core c i with
      | .ok b => put m i b
      | .error _ => m)
    else m) m) c.lost

/-! ### Links (R462, R467) -/

/-- Byte i of a command goes over a link: its address, its location, and whether it is the byte written. -/
def State.copyFar (s : State) (c : CopyCmd) (i : Nat) : List (Nat × Nat × Bool) :=
  let at_ := fun (va : Nat) (k : Acc) => match s.xl c.ctx va k with
    | .ok x => match x.ap with
      | some (f, L) => match s.xlPlain c.ctx (f.base + L) .read with
        | .ok y => some (va, y.loc, k == .write)
        | .error _ => none
      | none => some (va, x.loc, k == .write)
    | .error _ => none
  let src := match c.skind with
    | 0 => at_ ((c.src + i) % 2 ^ 64) .read
    | 4 => match s.copySurf c with
      | .ok f => at_ (f.base + c.sofs + i) .read
      | .error _ => none
    | _ => none
  let dst := if c.dkind = 0 then at_ (c.dst + i) .write else none
  (src.toList ++ dst.toList).filter fun x => isPeer x.2.1 || isHost x.2.1

/-- Bytes of a command are moved. -/
def State.copyMove (s : State) (core ch : Nat) (c : CopyCmd) (us : List (CopyDst × Byte)) : State :=
  let n := us.length
  let kept := s.keepOver core c (c.done + n) us
  let s := { s with sched := { s.sched with freeIdx := s.sched.freeIdx + c.len } }
  let s := us.foldl (fun s u => s.putCopy core c.ctx u.1 u.2) (s.copySeen c n)
  let s := s.mend (us.map (·.1))
  s.modChan core ch fun x =>
    { x with running := some { c with done := c.done + n, lost := kept }, wp := min (x.wp + n) (2 ^ 32 - 1) }

/-- A cancelled command, and one whose gang halts, stops at its channel boundary, and one whose gang is saved does
nothing (R327, R331). DEDUCED, unsafe (log 41). -/
def State.copyHeld (s : State) (c : CopyCmd) : Bool := (c.stop.any fun p => p ≤ c.done) || (s.gang c.gang).st == .saved

/-- COPY_COMMAND_START (R325). DEDUCED, unsafe (log 40). -/
def copyStart (s : State) : Option State :=
  let core := s.sched.arg.a
  let ch := s.sched.arg.b
  let x := s.chan core ch
  match x.running, x.queue with
  | none, c :: _ =>
    if (s.gang c.gang).st = .placed && (s.launch c.launch).trapped.isNone then some (s.modChan core ch Chan.start) else none
  | _, _ => none

/-- COPY_WP_ADVANCE (R325): the bytes up to the end of the destination unit, or up to what stops the command. While
the Vetik Link retrains, host bytes wait (R467). A pointer that would reach 2^32 stays below it, since it never falls.
DEDUCED, unsafe (log 41). -/
def copyAdvance (s : State) : Option State :=
  let core := s.sched.arg.a
  let ch := s.sched.arg.b
  let x := s.chan core ch
  match x.running with
  | some c =>
    if x.stalled.isSome || c.done == c.len || s.copyHeld c then none
    else
      match s.copyUnit core c with
      | ([], _) => none
      | (us, _) =>
        let host := (List.range us.length).any fun j => (s.copyFar c (c.done + j)).any fun y => isHost y.2.1
        if (s.reg 0x543).getLsbD 4 && host then none else some (s.copyMove core ch c us)
  | none => none

/-- The next request of a command over a link gets no completion: the bytes before it are moved, a write of the sector
it names has been performed or not, and the command ends with LAST 3 (R326, R462, R467).
DESIGN CHOICE, unsafe (log 57). -/
def State.copyTimeout (s : State) (core ch : Nat) (peer : Bool) : Option State :=
  let x := s.chan core ch
  match x.running with
  | some c =>
    if x.stalled.isSome || c.done == c.len || s.copyHeld c then none
    else
      let us := (s.copyUnit core c).1
      let hits := (List.range us.length).filterMap fun j =>
        ((s.copyFar c (c.done + j)).find? fun y => isPeer y.2.1 == peer).map fun y => (j, y)
      match hits with
      | [] => none
      | (j, y) :: _ =>
        let s := if j = 0 then s else s.copyMove core ch c (us.take j)
        let rest := (us.drop j).take (32 - y.2.1 % 32)
        let (r, s) := s.draw
        let s := if y.2.2 && r % 2 == 1 then rest.foldl (fun s u => s.putCopy core c.ctx u.1 u.2) s else s
        some (s.endCopy core ch 3 (some { code := Code.memoryDataError, addr := y.1, mask := c.mask }) y.1)
  | none => none

/-- COPY_COMMAND_END (R324, R327). -/
def copyFinish (s : State) : Option State :=
  let core := s.sched.arg.a
  let ch := s.sched.arg.b
  let x := s.chan core ch
  match x.running with
  | some c =>
    if c.done = c.len then some (s.endCopy core ch (if c.cancel then 2 else 1) none 0)
    else if c.cancel && c.stop.all fun p => p ≤ c.done then some (s.endCopy core ch 2 none 0)
    else none
  | none => none

/-- COPY_FAULT_STALL (R326): the next byte cannot be moved. -/
def copyFault (s : State) : Option State :=
  let core := s.sched.arg.a
  let ch := s.sched.arg.b
  let x := s.chan core ch
  match x.running with
  | some c =>
    if x.stalled.isSome || c.done == c.len || s.copyHeld c then none
    else
      let stopAs := fun (s : State) (last code a : Nat) => s.endCopy core ch last (some { code := code, addr := a, mask := c.mask }) a
      match s.copyUnit core c with
      | ([], some (.page a cause)) =>
        let die := core % 32 / 16
        if s.evRoom c.ctx die then
          let (t, s) := s.newTicket { kind := 3, ctx := c.ctx, launch := c.launch, addr := a, who := core * 8 + ch }
          let s := s.pushEvent c.ctx die (eventRecord 3 cause t a core (64 + ch) 0 (s.launch c.launch).lrec.done)
          some (s.modChan core ch fun x => { x with stalled := some t, faultAddr := a })
        else none
      | ([], some (.data a loc)) =>
        let s := match loc with
          | some p => s.countUe p
          | none => s
        some (stopAs s 3 Code.memoryDataError a)
      | ([], some (.aperture a)) => some (stopAs s 5 Code.apertureWrite a)
      | ([], some (.hazard a)) => some (stopAs s 6 Code.detReadHazard a)
      | ([], some (.surface a)) => some (stopAs s 7 Code.copyFault a)
      | ([], some (.feature n)) => some (s.launchTrap c.launch Code.featureDisabled n)
      | _ => none
  | none => none

/-- CPY (R324). -/
def execCpy (h : Hd) (f : TF) (s : State) : Host.Outcome State Fault Refusal := issue s (cpyEffect h f)
/-- CPYWP (R325). -/
def execCpywp (h : Hd) (f : TF) (s : State) : Host.Outcome State Fault Refusal := issue s (cpywpEffect h f)
/-- CPYWAIT (R325). -/
def execCpywait (h : Hd) (f : TF) (s : State) : Host.Outcome State Fault Refusal := issue s (cpywaitEffect h f)
/-- CPYCAN (R327). -/
def execCpycan (h : Hd) (f : TF) (s : State) : Host.Outcome State Fault Refusal := issue s (cpycanEffect h f)
/-- CPYST (R328). -/
def execCpyst (h : Hd) (f : TF) (s : State) : Host.Outcome State Fault Refusal := issue s (cpystEffect h f)
/-- COPY_COMMAND_START (R325). -/
def execCopyCommandStart (s : State) : Host.Outcome State Fault Refusal := event s copyStart
/-- COPY_WP_ADVANCE (R325). -/
def execCopyWpAdvance (s : State) : Host.Outcome State Fault Refusal := event s copyAdvance
/-- COPY_COMMAND_END (R324). -/
def execCopyCommandEnd (s : State) : Host.Outcome State Fault Refusal := event s copyFinish
/-- COPY_FAULT_STALL (R326). -/
def execCopyFaultStall (s : State) : Host.Outcome State Fault Refusal := event s copyFault

end Sys2Proof.Machine
end

