-- ==== Sys2Proof/Machine/FpFunc.lean ====
section
/-! DEFINITION. The special functions of R191 and R192 as exact values. A rational result is exact. An
irrational one is given to more bits than any rounding of R95 looks at, with a last bit that marks it as
lying strictly between two multiples; the error of each series is far below that bit. -/

namespace Sys2Proof.Machine

/-- Integer square root by bits, from bit b down. -/
def isqrt (n : Nat) : Nat → Nat → Nat
  | 0, r => r
  | b + 1, r => let c := r + 2 ^ b; isqrt n b (if c * c ≤ n then c else r)

/-- A value known to lie strictly between x and x + 1 in units of 2^e. -/
def between (neg : Bool) (x : Nat) (e : Int) : XV := .num neg (2 * x + 1) 1 (e - 1)

/-- sqrt(n/d·2^e) for a positive value. -/
def sqrtX (n d : Nat) (e : Int) : XV :=
  let (n, e) := if e % 2 = 0 then (n, e) else (2 * n, e - 1)
  let big := n * 2 ^ 400
  let s := isqrt (big / d) 240 0
  if s * s * d = big then .num false s 1 (e / 2 - 200) else between false s (e / 2 - 200)

/-! ### Fixed-point series -/

/-- Working precision in bits after the point. -/
def fxBits : Nat := 448
def fxOne : Nat := 2 ^ fxBits

/-- atan(1/k) in fixed point: the alternating series from term i, with p = 1/k^(2i+1). -/
def atanInv (k2 : Nat) : Nat → Nat → Nat → Int
  | 0, _, _ => 0
  | n + 1, i, p => (if i % 2 = 0 then (1 : Int) else -1) * ((p / (2 * i + 1) : Nat) : Int) + atanInv k2 n (i + 1) (p / k2)

/-- π by Machin's formula. -/
def fxPi : Int := 4 * (4 * atanInv 25 110 0 (fxOne / 5) - atanInv (239 * 239) 40 0 (fxOne / 239))

/-- 2·atanh z: the series Σ 2 z^(2i+1)/(2i+1), with p = z^(2i+1). -/
def atanhSum (z2 : Nat) : Nat → Nat → Nat → Nat
  | 0, _, _ => 0
  | n + 1, i, p => 2 * (p / (2 * i + 1)) + atanhSum z2 n (i + 1) (p * z2 / fxOne)

/-- ln of a fixed-point number m in [1, 2]. -/
def fxLn (m : Nat) : Nat :=
  let z := (m - fxOne) * fxOne / (m + fxOne)
  atanhSum (z * z / fxOne) 145 0 z

def fxLn2 : Nat := fxLn (2 * fxOne)

/-- Σ x^i/i! from term i on, with p = x^i/i!. -/
def expSum (x : Nat) : Nat → Nat → Nat → Nat
  | 0, _, _ => 0
  | n + 1, i, p => p + expSum x n (i + 1) (p * x / fxOne / (i + 1))

/-- The sum Σ (-1)^j x^(i+2j)/(i+2j)!, with p = x^i/i! and q = x². -/
def trigSum (q : Nat) : Nat → Nat → Nat → Int
  | 0, _, _ => 0
  | n + 1, i, p => (p : Int) - trigSum q n (i + 2) (p * q / fxOne / ((i + 1) * (i + 2)))

/-- Keep 200 bits of a fixed-point number, as lying strictly between two multiples. -/
def fxOut (neg : Bool) (x : Nat) : XV := between neg (x / 2 ^ 248) (-200)

/-! ### 2^a and log2 a -/

/-- 2^a for a finite a. -/
def exp2X (s : Bool) (n d : Nat) (e : Int) : XV :=
  let (q, r, d') := quant n d e 0
  if q ≥ 2000 then .num false 1 1 (if s then -2000 else 2000)
  else if r = 0 then .num false 1 1 (if s then -(q : Int) else q)
  else
    let i : Int := if s then -(q : Int) - 1 else q
    let fr := if s then d' - r else r
    match fxOut false (expSum (fr * fxLn2 / d') 90 0 fxOne) with
    | .num _ m c g => .num false m c (g + i)
    | v => v

/-- log2 a for a finite positive a. -/
def log2X (n d : Nat) (e : Int) : XV :=
  let ex := ilog n d e
  let (q, r, _) := quant n d e (ex - fxBits)
  if q = fxOne ∧ r = 0 then .ofInt ex
  else
    let y : Int := ex * fxOne + ((fxLn q * fxOne / fxLn2 : Nat) : Int)
    fxOut (y < 0) y.natAbs

/-! ### sin and cos -/

/-- A small argument: sin a lies just below |a|. -/
def justBelow (neg : Bool) (n : Nat) (e : Int) : XV := .num neg (n * 2 ^ 100 - 1) 1 (e - 100)

/-- sin (quarter = 0) or cos (quarter = 1) of a finite nonzero n·2^e, e at least -149: the argument is
reduced to within a quarter of π around a multiple of π/2. -/
def sinX (quarter : Nat) (s : Bool) (n : Nat) (e : Int) : XV :=
  if ilog n 1 e < -40 then (if quarter = 0 then justBelow s n e else justBelow false 1 0)
  else
    let x : Int := (n * 2 ^ (e + fxBits).toNat : Nat)
    let x := if s then -x else x
    let half := fxPi / 2
    let q := (2 * x + half) / (2 * half)
    let r := x - q * half
    let m := r.natAbs
    let m2 := m * m / fxOne
    let k := (q + quarter) % 4
    if k % 2 = 0 then
      fxOut ((r < 0) != (k == 2)) (trigSum m2 50 1 m).natAbs
    else
      fxOut (k == 3) (trigSum m2 50 0 fxOne).natAbs

/-! ### The functions with their special results (R192) -/

inductive Fun where
  | rcp | rsq | sqrt | exp2 | log2 | sin | cos
  deriving DecidableEq, Repr

/-- f(a): the exact value and the flags of the special results. -/
def funX (g : Fun) (a : XV) : WithFx XV :=
  match a with
  | .nan i => (.nan i, 0)
  | .inf s =>
    match g with
    | .rcp => (XV.zero s, 0)
    | .rsq => if s then (.nan true, 0) else (XV.zero false, 0)
    | .sqrt | .log2 => if s then (.nan true, 0) else (.inf false, 0)
    | .exp2 => if s then (XV.zero false, 0) else (.inf false, 0)
    | .sin | .cos => (.nan true, 0)
  | .num s n d e =>
    if n = 0 then
      match g with
      | .rcp | .rsq => (.inf s, Fx.dz)
      | .sqrt | .sin => (XV.zero s, 0)
      | .log2 => (.inf true, Fx.dz)
      | .exp2 | .cos => (.ofInt 1, 0)
    else
      match g with
      | .rcp => (.num s d n (-e), 0)
      | .rsq => if s then (.nan true, 0) else (sqrtX d n (-e), 0)
      | .sqrt => if s then (.nan true, 0) else (sqrtX n d e, 0)
      | .log2 => if s then (.nan true, 0) else (log2X n d e, 0)
      | .exp2 => (exp2X s n d e, 0)
      | .sin => (sinX 0 s n e, 0)
      | .cos => (sinX 1 s n e, 0)

end Sys2Proof.Machine
end

