-- ==== Sys2Proof/Machine/Prism.lean ====
section
/-! DEFINITION. The Prism unit: PSMP, PSMPL, PUPS and PQRY (R363 to R370). A translation fault stalls the
unit with the command in flight (R271); every other fault of its reads is recorded against the counter. -/

namespace Sys2Proof.Machine

/-- What stops a Prism command. -/
inductive PStop where
  | page (addr cause : Nat)
  /-- uncorrectable data, with the location of an error of the array -/
  | data (addr : Nat) (loc : Option Nat)
  | hazard (addr : Nat)
  | surface (addr : Nat)
  | feature (n : Nat)
  deriving DecidableEq, Repr

/-- What a command has read: lines that come into the Prism cache, and places on a peer or the host, one for a line,
with their addresses. -/
structure Reads where
  lines : List Nat := []
  far : List (Nat × Nat) := []
  deriving DecidableEq, Repr

/-- A read of a location notes its line, and where it goes over a link. -/
def Reads.note (r : Reads) (cached : Bool) (va loc : Nat) : Reads :=
  let r := if cached && !r.lines.contains (loc / 128) then { r with lines := r.lines ++ [loc / 128] } else r
  if (isPeer loc || isHost loc) && !r.far.any fun x => x.2 / 128 == loc / 128 then { r with far := r.far ++ [(va, loc)] } else r

/-- What two have read. -/
def Reads.and (a b : Reads) : Reads :=
  { lines := a.lines ++ b.lines.filter fun l => !a.lines.contains l,
    far := a.far ++ b.far.filter fun x => !a.far.any fun y => y.2 / 128 == x.2 / 128 }

/-- The requests of a command whose reads go over a link (R462, R467): an error of one is the command's. -/
def Reads.cond (r : Reads) (m : BitVec 8) : OpCond :=
  if r.far = [] then .now else .remote (r.far.map fun x => { peer := isPeer x.2, va := x.1, mask := m })

/-- A read by the unit, which keeps what it reads. -/
abbrev P (α : Type) := StateT Reads (Except PStop) α

/-! ### Reads -/

/-- One byte at a virtual address: through the Prism cache, but for a page that is not cached (R363). -/
def State.pByte (s : State) (va : Nat) : P Nat :=
  match s.xlPlain s.cctx va .read with
  | .error c => throw (.page va c)
  | .ok x =>
    if x.isPeer && !s.enabled 7 then throw (.feature 7)
    else if x.isAp && !s.enabled 9 then throw (.feature 9)
    else if x.isAp then throw (.page va 5)
    else if s.hazard s.cwg.launch x.loc 1 then throw (.hazard va)
    else if s.badByte x.loc then throw (.data va (some x.loc))
    else do
      let cached := !(x.nc || x.isPeer)
      modify fun r => r.note cached va x.loc
      pure (if cached then s.seen (prismCache s.cc) x.loc else getB s.mem.bytes x.loc).toNat

/-- n bytes as a number. -/
def State.pBytes (s : State) (va : Nat) : Nat → P Nat
  | 0 => pure 0
  | n + 1 => do
    let b ← s.pByte va
    let r ← s.pBytes (va + 1) n
    pure (b + 256 * r)

/-- Logical byte L of a surface and its levels, through the expansion of R264 where zeros are elided. -/
def State.pLogical (s : State) (f : Surf) (L : Nat) : P Nat :=
  if !f.ze then s.pByte (f.base + L)
  else do
    let k := L / 512
    let nb ← s.pByte (f.meta_ + k / 2)
    let lam := if k % 2 = 0 then nb % 16 else nb / 16
    let slot := f.base + 512 * k
    if lam = 0 then s.pByte (slot + L % 512)
    else do
      let m ← s.pBytes slot 16
      let j := L % 512 / 4
      if misfit lam m then throw (.data slot none)
      else if bit m j then s.pByte (slot + 16 + 4 * popBelow m j + L % 4)
      else pure 0

/-- n logical bytes as a number. -/
def State.pLogicals (s : State) (f : Surf) (L : Nat) : Nat → P Nat
  | 0 => pure 0
  | n + 1 => do
    let b ← s.pLogical f L
    let r ← s.pLogicals f (L + 1) n
    pure (b + 256 * r)

/-! ### Surfaces and levels (R364) -/

/-- ℓ, the elements of a texel. -/
def Surf.ell (f : Surf) : Nat := max f.lcnt 1
/-- The element size in bytes. -/
def Surf.eb (f : Surf) : Nat := ((Ty.ofCode f.efmt).getD .f32).width / 8
/-- Texels per row and rows of a level. -/
def Surf.w (f : Surf) (l : Nat) : Nat := max 1 (f.width / f.ell / 2 ^ l)
def Surf.h (f : Surf) (l : Nat) : Nat := max 1 (f.height / 2 ^ l)
/-- Row pitch and slice pitch of a level. -/
def Surf.rowPitch (f : Surf) (l : Nat) : Nat := if l = 0 then f.pitch else roundUp (f.w l * f.ell * f.eb) 64
def Surf.slicePitch (f : Surf) (l : Nat) : Nat := if l = 0 then f.spitch else f.rowPitch l * f.h l
/-- The logical byte a level starts at. -/
def Surf.start (f : Surf) : Nat → Nat
  | 0 => 0
  | 1 => f.spitch * f.depth
  | l + 2 => roundUp (f.start (l + 1) + f.slicePitch (l + 1) * f.depth) 512

/-- A record the Prism unit takes: level 0 lies within the logical surface; the later levels lie past it,
as their placement says (DEDUCED). DEDUCED, unsafe (log 63). -/
def prismOk (l : List Byte) : Bool :=
  let f := surfOf l
  surfFull l && [0, 1, 2, 3, 4, 13, 14].contains f.efmt
    && (!f.spec || (f.lcnt ≠ 0 && f.width % f.lcnt == 0))
    && (f.depth - 1) * f.spitch + (f.height - 1) * f.pitch + f.width * f.eb ≤ f.spitch * f.depth

/-- The record at an address. DEDUCED, unsafe (log 63). -/
def State.pRecord (s : State) (va : Nat) : P Surf := do
  let x ← s.pBytes va 64
  let l := bytesOfNat 64 x
  if prismOk l then pure (surfOf l) else throw (.surface va)

/-- A decoded element: efmt 13 and 14 are unorm. -/
def Surf.decode (f : Surf) (x : Nat) : XV :=
  match f.efmt with
  | 13 => .num false x 255 0
  | 14 => .num false x 65535 0
  | _ => decodeX ((Ty.ofCode f.efmt).getD .f32) false x

/-- Element e of row y of slice z of a level, as a value. -/
def State.pElem (s : State) (f : Surf) (l z y e : Nat) : P XV := do
  let x ← s.pLogicals f (f.start l + z * f.slicePitch l + y * f.rowPitch l + e * f.eb) f.eb
  pure (f.decode x)

/-! ### Sampling (R366, R367) -/

/-- ⌊x·2^k⌋; an infinity is far outside every range it is clamped to. -/
def floorAt (k : Nat) (x : XV) : Int :=
  match x with
  | .num s n d e =>
    let (q, r, _) := quant n d e (-(k : Int))
    if s then -(q : Int) - (if r = 0 then 0 else 1) else q
  | .inf s => if s then -(2 ^ 60) else 2 ^ 60
  | .nan _ => 0

def XV.finite : XV → Bool
  | .num _ _ _ _ => true
  | _ => false

def clampInt (x lo hi : Int) : Int := if x < lo then lo else if hi < x then hi else x

/-- A texel to be read: level, column and row, and the weight in units of 2^-24. A tap outside under
.border has no place. -/
structure Tap where
  level : Nat
  at_ : Option (Nat × Nat)
  wt : Nat
  deriving DecidableEq, Repr

/-- A tap coordinate under an address mode. -/
def tapAt (mode : Nat) (x : Int) (n : Nat) : Option Nat :=
  match mode with
  | 0 => some (clampInt x 0 (n - 1)).toNat
  | 1 => some (x % n).toNat
  | _ => if 0 ≤ x ∧ x < n then some x.toNat else none

/-- The taps of a level with a weight in units of 2^-8: nearest, or bilinear. DEDUCED, unsafe (log 63). -/
def levelTaps (f : Surf) (near : Bool) (mode : Nat) (u v : XV) (l wt : Nat) : List Tap :=
  let sc := fun (x : XV) (n : Nat) => x.mul (.ofInt n)
  let place := fun (x y : Int) => match tapAt mode x (f.w l), tapAt mode y (f.h l) with
    | some x, some y => some (x, y)
    | _, _ => none
  if near then [{ level := l, at_ := place (floorAt 0 (sc u (f.w l))) (floorAt 0 (sc v (f.h l))), wt := wt * 2 ^ 16 }]
  else
    let x := floorAt 8 (sc u (f.w l)) - 128
    let y := floorAt 8 (sc v (f.h l)) - 128
    let x0 := x / 256
    let y0 := y / 256
    let fx := (x % 256).toNat
    let fy := (y % 256).toNat
    [{ level := l, at_ := place x0 y0, wt := wt * (256 - fx) * (256 - fy) },
     { level := l, at_ := place (x0 + 1) y0, wt := wt * fx * (256 - fy) },
     { level := l, at_ := place x0 (y0 + 1), wt := wt * (256 - fx) * fy },
     { level := l, at_ := place (x0 + 1) (y0 + 1), wt := wt * fx * fy }]

/-- λ in units of 2^-8, rounded down: PSMPL takes it, PSMP computes it from a footprint radius. -/
def lodOf (f : Surf) (given : Bool) (x : XV) : Int :=
  if given then floorAt 8 x
  else match x with
    | .num s n d e => if s ∨ n = 0 then 0 else floorAt 8 (log2X (n * max (f.w 0) (f.h 0)) d e)
    | .inf s => if s then 0 else 2 ^ 60
    | .nan _ => 0

/-- Every tap of a thread that has a weight. DEDUCED, unsafe (log 63). -/
def tapsOf (f : Surf) (filter mode : Nat) (lod : Int) (u v : XV) : List Tap :=
  let top : Int := f.levels - 1
  let ts :=
    if filter ≠ 2 then levelTaps f (filter = 0) mode u v (clampInt ((lod + 128) / 256) 0 top).toNat 256
    else
      let l := (clampInt (lod / 256) 0 top).toNat
      let fr := (lod % 256).toNat
      if lod < 0 ∨ (l : Int) = top then levelTaps f false mode u v l 256
      else levelTaps f false mode u v l (256 - fr) ++ levelTaps f false mode u v (l + 1) fr
  ts.filter fun t => t.wt ≠ 0

/-- Where a wavelength falls in a texel, in units of 2^-16: none for a NaN λ; the spec gives no position for
a record whose lam0 or dlam is a NaN or whose dlam is 0, which is the open value (DESIGN CHOICE).
DESIGN CHOICE, safe (log 64). -/
def wavePos (f : Surf) (free : Nat) (lam : XV) : Option Nat :=
  if lam.isNan then none
  else
    let d := decodeF .f32 false f.dlam
    let hi := (f.lcnt - 1) * 65536
    let x := lam.add false (decodeF .f32 false f.lam0).neg
    if d.isZero || d.isNan || x.isNan then some (free % (hi + 1))
    else
      let p := (x.div d).1
      if p.isNan then some (free % (hi + 1)) else some (clampInt (floorAt 16 p) 0 hi).toNat

/-- The samples of a texel a wavelength reads: index and weight in units of 2^-16.
DESIGN CHOICE, safe (log 64). -/
def waveTaps (f : Surf) (free : Nat) (lam : XV) : Option (List (Nat × Nat)) :=
  if !f.spec then some [(0, 65536)]
  else (wavePos f free lam).map fun p =>
    let j := p / 65536
    let g := p % 65536
    if g = 0 then [(j, 65536)] else [(j, 65536 - g), (j + 1, g)]

/-- The exact sum of a list; an empty one is +0. DEDUCED, unsafe (log 63). -/
def sumX : List XV → XV
  | [] => XV.zero false
  | x :: xs => xs.foldl (fun a b => a.add false b) x

/-- The weighted values of one texel tap. -/
def State.texel (s : State) (f : Surf) (z : Nat) (ws : List (Nat × Nat)) (t : Tap) : P (List XV) :=
  ws.mapM fun w =>
    let wt : XV := .num false (t.wt * w.2) 1 (-40)
    match t.at_ with
    | none => pure (wt.mul (XV.zero false))
    | some (x, y) => do
      let v ← s.pElem f t.level z y (x * f.ell + w.1)
      pure (wt.mul v)

/-- One element of the result. -/
def State.sample (s : State) (f : Surf) (z : Nat) (ts : List Tap) (free : Nat) (lam : XV) : P Nat :=
  match waveTaps f free lam with
  | none => pure Fmt.f32.nan
  | some ws => do
    let vs ← ts.mapM fun t => s.texel f z ws t
    pure (rn32 (sumX vs.flatten)).1

/-- RN to an integer, clamped to the slices. -/
def sliceAt (f : Surf) (w : XV) : Nat :=
  match w with
  | .num s n d e => (clampInt (roundInt .rn 16 0 s n d e).1 0 (f.depth - 1)).toNat
  | _ => 0

/-- The eight elements of a thread. -/
def State.samples (s : State) (f : Surf) (fl mode : Nat) (is3 given : Bool) (c : List XV) (lams : List XV) (free : Nat) : P (List Nat) :=
  let u := c.getD 0 (.nan false)
  let v := c.getD 1 (.nan false)
  let w := c.getD 2 (.nan false)
  if !u.finite || !v.finite || (is3 && !w.finite) then pure (List.replicate 8 Fmt.f32.nan)
  else
    let ts := tapsOf f fl mode (lodOf f given (c.getD 3 (.nan false))) u v
    let z := if is3 then sliceAt f w else 0
    (List.range 8).mapM fun i => s.sample f z ts (Config.free (free + i)) (lams.getD i (.nan false))

/-! ### PUPS (R369) -/

/-- N of a coefficient table; none for any other shape. -/
def tableN (f : Surf) : Option Nat :=
  let n := f.height
  if f.efmt = 0 ∧ !f.spec ∧ f.width = 3 * n ∧ f.depth = 3 * n ∧ 2 ≤ n ∧ n ≤ 256 then some n else none

/-- 1/2 + q/(2·√(1 + q²)) of a finite q = ±a·2^e, to 400 bits. -/
def logisticX (neg : Bool) (a : Nat) (e : Int) : XV :=
  let a := a * 2 ^ e.toNat
  let n := 4 ^ (-e).toNat + a * a
  let t := isqrt (a * a * 2 ^ 800 / n) 401 0
  if a = 0 then .num false 1 1 (-1)
  else between false (if neg then 2 ^ 400 - t - 1 else 2 ^ 400 + t) (-401)

/-- The element for a rounded q. -/
def logistic (q : Nat) : Nat :=
  match decodeF .f32 false q with
  | .nan _ => Fmt.f32.nan
  | .inf s => if s then 0 else 0x3F800000
  | .num s n _ e => (rn32 (logisticX s n e)).1

/-- A component clamped to [0, 1]. -/
def unit01 (x : XV) : XV :=
  if x.cmp (.ofInt 0) = .lt then .ofInt 0 else if x.cmp (.ofInt 1) = .gt then .ofInt 1 else x

/-- A coefficient, interpolated trilinearly from a grid node on. -/
def State.coeff (s : State) (f : Surf) (z0 e : Nat) (px py pz : Nat) : P Nat := do
  let axis := fun p => if p % 256 = 0 then [(p / 256, 256)] else [(p / 256, 256 - p % 256), (p / 256 + 1, p % 256)]
  let taps := (axis pz).flatMap fun z => (axis py).flatMap fun y => (axis px).map fun x => (x.1, y.1, z.1, x.2 * y.2 * z.2)
  let vs ← taps.mapM fun t => do
    let v ← s.pElem f 0 (z0 + t.2.2.1) t.2.1 (3 * t.1 + e)
    pure ((XV.num false t.2.2.2 1 (-24)).mul v)
  pure (rn32 (sumX vs)).1

/-- The eight elements of a thread. -/
def State.spectrum (s : State) (f : Surf) (n : Nat) (c lams : List XV) : P (List Nat) :=
  if c.any XV.isNan then pure (List.replicate 8 Fmt.f32.nan)
  else do
    let k := fun i => unit01 (c.getD (i % 3) (.ofInt 0))
    let m := (List.range 3).foldl (fun m i => if (k m).cmp (k i) = .lt then i else m) 0
    let z := k m
    let pos := fun (x : XV) => (floorAt 8 (x.mul (.ofInt (n - 1)))).toNat
    let rel := fun i => if z.isZero then XV.ofInt 0 else ((k (m + i)).div z).1
    let px := pos (rel 1)
    let py := pos (rel 2)
    let pz := pos z
    let a ← s.coeff f (m * n) 0 px py pz
    let b ← s.coeff f (m * n) 1 px py pz
    let cc ← s.coeff f (m * n) 2 px py pz
    let d := decodeF .f32 false
    pure (lams.map fun l => logistic (rn32 ((((d a).mul l).mul l).add false (((d b).mul l).add false (d cc)))).1)

/-! ### The commands -/

/-- Where a deferred fault lies and its code. DEDUCED, unsafe (log 65). -/
def PStop.asRec (e : PStop) (m : BitVec 8) : FaultRec :=
  match e with
  | .page a _ => { code := Code.pageFault, addr := a, mask := m }
  | .data a _ => { code := Code.memoryDataError, addr := a, mask := m }
  | .hazard a => { code := Code.detReadHazard, addr := a, mask := m }
  | .surface a => { code := Code.surfaceFault, addr := a, mask := m }
  | .feature _ => { code := Code.featureDisabled, mask := m }

/-- What a command came to in its threads: their values and the lines read, or the stop of the lowest thread that met
one; a translation fault and a disabled feature come first. DEDUCED, unsafe (log 65). -/
def pAll (m : BitVec 8) (f : Nat → P (List Nat)) : Except PStop ((Nat → List Nat) × Reads) :=
  let st := fun t => match (f t).run {} with
    | .error e => some e
    | .ok _ => none
  let got := fun t => match (f t).run {} with
    | .ok v => v
    | .error _ => ([], {})
  let es := (bitsOf m).filterMap st
  let first := (es.find? fun e => match e with
    | .page _ _ | .feature _ => true
    | _ => false).or es.head?
  match first with
  | some e => .error e
  | none => .ok (fun t => (got t).1, (bitsOf m).foldl (fun r t => r.and (got t).2) {})

/-- The lines a command has read come into the Prism cache. -/
def State.pHold (s : State) (ls : List Nat) : State := ls.foldl (fun s l => s.holdLine (prismCache s.cc) (128 * l)) s

/-- The acquire of a command (R363, R287): its reads find every write that happens before its issue, so the Prism cache
loses its lines before the first of them whatever the scope; the core's L1 follows the scope. -/
def State.pAcquire (s : State) (o : Order) : State :=
  match o.acqAt with
  | none => s
  | some c => { s with mem := s.mem.dropCache (prismCache s.cc) }.acquire s.cc (some c)

/-- What it has read over a link has been performed there (R277). -/
def State.touchFar (s : State) (r : Reads) : State := r.far.foldl (fun s x => s.touch (x.2 / 128 * 128) 128) s

/-- Issue a Prism command: what its reads came to becomes register writes, a stall of the unit, or a
deferred fault with nothing written. DEDUCED, unsafe (log 65). DEDUCED, unsafe (log 82). -/
def State.pIssue (s : State) (i : Instr) (c : Option Nat) (m : BitVec 8) (r : Except PStop (List RegWrite × Reads)) : R State :=
  match r with
  | .ok (ws, r) => .ok (((s.pHold r.lines).touchFar r).later c .engineRead ws none (r.cond m))
  | .error (.page a cs) => s.orStall 72 i .engineRead (.ok c) (.error (.page a cs m))
  | .error (.feature n) => (s.needs n).map fun _ => s
  | .error e =>
    let s := match e with
      | .data _ (some loc) => s.countUe loc
      | _ => s
    .ok (s.later c .engineRead [] (some (e.asRec m)))

/-- A source of one FP32 value per thread, and one of eight. -/
def coord (a : RF) (i : Nat) : Src := { f := .t (BitVec.ofNat 6 (a.num + i)), v := false, want := .ty .f32 }
def waves (b : RF) : Src := { f := b, v := true, want := .ty .f32 }

/-- The values of a source. -/
def State.f32s (s : State) (x : Src) (t : Nat) : List XV := (s.srcElems x t).1.map (decodeF .f32 false)

/-- The address of a record: misaligned ones trap at issue. -/
def State.recAddr (s : State) (f : TF) (m : BitVec 8) : R Nat := do
  let va := s.cb.kPair f.rp.num
  stepCheck m (fun _ => va % 64 == 0) Code.misaligned fun _ => va
  .ok va

/-- The checks and the shape that PSMP, PSMPL and PUPS share: eight elements in each thread. -/
def prismEffect (i : Instr) (h : Hd) (f : TF) (idx : List Nat) (val : State → Surf → Nat → P (List Nat)) (s : State) : R State := do
  let c ← s.flagOf h true
  s.sSpan f.a 4
  s.vIn f.b
  s.vIn f.d
  let m := s.part h
  if m = 0 then s.offFence f.ord c
  else do
    let xs := (idx.map (coord f.a)) ++ [waves f.b]
    s.checkSrcs m xs
    let va ← s.recAddr f m
    s.ordered f.ord
    let s0 := s.pAcquire f.ord
    let r : Except PStop ((Nat → List Nat) × Reads) := match (s0.pRecord va).run {} with
      | .error e => .error e
      | .ok (g, ls) => (pAll m (val s0 g)).map fun v => (v.1, ls.and v.2)
    let s1 := s0.orFx m fun t => orAll (xs.map fun x => (s.srcElems x t).2)
    let s1 := { s1 with sched := { s1.sched with freeIdx := s1.sched.freeIdx + 64 } }
    s1.pIssue i c m (r.map fun v => ((bitsOf m).map fun t =>
      RegWrite.v (s.tkey t) f.d.num (BitVec.ofNat 256 (ofElems 32 (v.1 t))) (-1) 8 32, v.2))

/-- PSMP and PSMPL (R366, R367): w is read only with .3d. -/
def psmpEffect (given : Bool) (h : Hd) (f : TF) (s : State) : R State :=
  let is3 := f.x 11 1 == 1
  prismEffect (if given then .psmpl h f else .psmp h f) h f (if is3 then [0, 1, 2, 3] else [0, 1, 3]) (fun s g t =>
    s.samples g (f.x 7 2) (f.x 9 2) is3 given
      ((List.range 4).map fun i => if i = 2 ∧ !is3 then .ofInt 0 else (s.f32s (coord f.a i) t).getD 0 (.nan false))
      (s.f32s (waves f.b) t) (s.sched.freeIdx + 8 * t)) s

/-- PUPS (R369). -/
def pupsEffect (h : Hd) (f : TF) (s : State) : R State :=
  prismEffect (.pups h f) h f [0, 1, 2] (fun s g t =>
    match tableN g with
    | none => throw (.surface (s.cb.kPair f.rp.num))
    | some n => s.spectrum g n ((List.range 3).map fun i => (s.f32s (coord f.a i) t).getD 0 (.nan false)) (s.f32s (waves f.b) t)) s

/-- A selector of PQRY (R370). -/
def Surf.query (f : Surf) (sel lvl : Nat) : Nat :=
  match sel with
  | 0 => if lvl < f.levels then f.w lvl else 0
  | 1 => if lvl < f.levels then f.h lvl else 0
  | 2 => f.depth
  | 3 => f.levels
  | 4 => f.lcnt
  | 5 => f.lam0
  | 6 => f.dlam
  | _ => f.efmt

/-- PQRY (R370). -/
def pqryEffect (h : Hd) (f : TF) (s : State) : R State := do
  let c ← s.flagOf h true
  let sel := f.x 7 4
  let m := s.part h
  s.sIn f.d
  if sel < 2 then s.sIn f.b else .ok ()
  if !(if f.d.isK then s.acts h else m != 0) then .ok (s.later c .engineRead [])
  else do
    let va ← s.recAddr f (if f.d.isK then s.cb.active else m)
    let lvl := fun t => match f.b with
      | .k n => (s.cb.getK n.toNat).toNat
      | .t n => ((s.th t).getS n.toNat).toNat
    s.pIssue (.pqry h f) c m (((s.pRecord va).run {}).map fun g =>
      (s.wrD m f.d (fun t => BitVec.ofNat 32 (g.1.query sel (lvl t))) (if sel = 5 ∨ sel = 6 then 8 else 9), g.2))

/-- PSMP (R366). -/
def execPsmp (h : Hd) (f : TF) (s : State) : Host.Outcome State Fault Refusal := issue s (psmpEffect false h f)
/-- PSMPL (R366). -/
def execPsmpl (h : Hd) (f : TF) (s : State) : Host.Outcome State Fault Refusal := issue s (psmpEffect true h f)
/-- PUPS (R369). -/
def execPups (h : Hd) (f : TF) (s : State) : Host.Outcome State Fault Refusal := issue s (pupsEffect h f)
/-- PQRY (R370). -/
def execPqry (h : Hd) (f : TF) (s : State) : Host.Outcome State Fault Refusal := issue s (pqryEffect h f)

end Sys2Proof.Machine
end

