-- ==== Sys2Proof/Machine/Task.lean ====
section
/-! DEFINITION. The task instructions (R337 to R360): queues, spawning, joining, parking and the work
graph. -/

namespace Sys2Proof.Machine

/-! ### Counters in memory and in the scratchpad (R343, R350, R352) -/

/-- Where a counter lies: a translated address, or a place in a core's SRAM. -/
inductive Cell where
  | mem (va : Nat) (x : Xl)
  | spad (core off : Nat)
  deriving DecidableEq, Repr

/-- The register fields of a counter operand (R130). -/
def State.cellBudget (s : State) (a : RF) (sp : Bool) : R Unit := if sp then s.sIn a else s.sSpan a 2

/-- The counter a JWAIT or AWAIT names: one address for the beam, checked by the steps of R252 with the
active mask. DEDUCED, unsafe (log 32). -/
def State.uniCell (s : State) (a : RF) (sp : Bool) : R Cell := do
  let m := s.cb.active
  if sp then do
    let o ← s.uni32 a
    stepCheck m (fun _ => o % 4 == 0) Code.misaligned fun _ => o
    stepCheck m (fun _ => decide (o + 4 ≤ s.spadLimit)) Code.scratchBounds fun _ => o
    .ok (.spad s.cc (s.cwg.spadBase + o))
  else do
    let va ← s.uni64 a
    stepCheck m (fun _ => va % 4 == 0) Code.misaligned fun _ => va
    let ps ← s.checkPieces s.cctx s.cwg.launch m .read fun _ => [(va, 4)]
    .ok (.mem va (((ps (lowest m)).map (·.x)).headD { loc := 0, pte := 0 }))

/-- The value of a counter, read at its point of coherence. What an unreadable word reads as, the spec does not say.
DEDUCED, unsafe (log 32). -/
def State.cellValue (s : State) (c : Cell) : R (Nat × State) :=
  let open_ := fun (s : State) => let (v, s) := s.draw; (v % 2 ^ 32, s)
  match c with
  | .spad core off =>
    if s.struckS (sramKey core off) then .ok (open_ s)
    else .ok (natOfBytes (getBs s.mem.scratch (sramKey core off) 4), s)
  | .mem va x =>
    let p : Piece := { va := va, x := x, n := 4 }
    match s.readPiece s.cctx none p with
    | .ok bs => .ok (natOfBytes bs, s.afterRead s.cctx s.cc false p)
    | .error (.page a c) => .error (.page a c s.cb.active)
    | .error (.feature n) => .error (.trap { code := Code.featureDisabled, feature := n })
    | .error (.data loc) => .ok (open_ (match loc with
        | some a => s.countUe a
        | none => s))

/-- Park at a counter until its word meets a condition. -/
def State.parkAt (s : State) (c : Cell) (mode cmp : Nat) : State :=
  s.waitAs .parked (match c with
    | .spad core off => .sword core off mode cmp
    | .mem va x => if x.isAp then .aword s.cctx va mode cmp else .mword x.loc mode cmp)

/-- A parking word that has already flushed the gathers and waited for the loads. -/
def Beam.waited (b : Beam) : Bool := b.wait == .loads

/-- R353: flush the workgroup's gathers as the word issues, then wait for register-writing loads. -/
def State.beforePark (s : State) : State × Bool :=
  let s := if s.cb.waited then s else s.flushSpawn
  if s.loadsOut s.sched.cur then (s.waitAs .waiting .loads, true) else (s, false)

/-! ### JWAIT and AWAIT -/

/-- Wait at a counter for a condition, then acquire (R350, R352); guarded off, it is a FENCE of its acquire.
DEDUCED, unsafe (log 32). -/
def wordWait (h : Hd) (f : TF) (sp : Bool) (mode cmp : Nat) (s : State) : R (State × Flow) := do
  let ft := s.cb.fall
  let acq : Option Scope := f.ord.acqAt.or (if mode = 0 then some .gang else none)
  let past := fun (s : State) => (s.acquire s.cc acq, Flow.goto ft)
  s.unheld
  s.cellBudget f.a sp
  if !s.acts h then do
    if acq.isSome then s.raised else .ok ()
    .ok (past s)
  else if s.cb.met then .ok (past s)
  else do
    let c ← s.uniCell f.a sp
    let (s, w) := s.beforePark
    if w then .ok (s, .stay)
    else do
      let (v, s) ← s.cellValue c
      if watchMet v mode cmp then .ok (past s) else .ok (s.parkAt c mode cmp, .stay)

/-- JWAIT (R350). DEDUCED, unsafe (log 32). -/
def jwaitEffect (h : Hd) (f : TF) (s : State) : R (State × Flow) := do
  s.needs 3
  wordWait h f (f.x 0 1 == 1) 0 0 s

/-- AWAIT (R352). DEDUCED, unsafe (log 32). -/
def awaitEffect (h : Hd) (f : TF) (s : State) : R (State × Flow) := do
  let ft := s.cb.fall
  if f.x 12 3 ≠ 0 then wordWait h f (f.x 0 1 == 1) (f.x 12 3) (s.cb.getK f.b.num).toNat s
  else if !s.acts h then .ok (s, .goto ft)
  else
    let m := BitVec.ofNat 12 (f.x 0 12)
    if s.cb.met then
      match s.cb.raisable m with
      | some (c, r) => .error (.deferred c r)
      | none => .ok (s, .goto ft)
    else
      let (s, w) := s.beforePark
      if w then .ok (s, .stay) else .ok (s.waitAs .parked (.counters m), .stay)

/-! ### Queue instructions -/

/-- The queue number (R337). -/
def State.queueNum (s : State) (f : TF) : R Nat :=
  if f.x 12 1 = 0 then .ok (f.x 0 12)
  else
    match f.b with
    | .k n => .ok ((s.cb.getK n.toNat).toNat % 4096)
    | .t n => s.agree fun t => ((s.th t).getS n.toNat).toNat % 4096

/-- Its register field (R130). -/
def State.queueBudget (s : State) (f : TF) : R Unit := if f.x 12 1 = 1 then s.sIn f.b else .ok ()

/-- A queue a program may push to and pop from (R341): an armed FIFO of its context. -/
def State.queueOk (s : State) (q : Nat) : Bool := (s.queue q).type == 1 && (s.queue q).ctx == s.cctx

/-- The predicate that tells a thread whether it was served. -/
def State.predWrite (s : State) (p : RF) (t : Nat) (v : Bool) : RegWrite :=
  match p with
  | .t n => .p (s.tkey t) n.toNat v
  | .k n => .kp n.toNat v

/-- The deferred record of R341. -/
def queueFault (m : BitVec 8) : FaultRec := { code := Code.queueInvalid, mask := m }

/-- A queue instruction behind a link that is down (R450, R453): nothing is written, and MEMORY_DATA_ERROR, which has no
address here (R395), is recorded. -/
def State.noReply (s : State) (c : Option Nat) (m : BitVec 8) : State :=
  s.later c .other [] (some { code := Code.memoryDataError, mask := m })

/-- Budget of a queue entry operand: a v pair, or sixteen k registers. -/
def State.entrySpan (s : State) (r : RF) : R Unit := if r.isK then .ok () else s.vSpan r 2

/-- The 64 bytes of a pushed entry. -/
def State.entryOf (s : State) (a : RF) (t : Nat) : List Byte :=
  match a with
  | .t n => bytesOfNat 32 ((s.th t).getV n.toNat).toNat ++ bytesOfNat 32 ((s.th t).getV (n.toNat + 1)).toNat
  | .k n => (List.range 16).flatMap fun i => bytesOfNat 4 (s.cb.getK (n.toNat + i)).toNat

/-- QPUSH (R338). -/
def qpushEffect (h : Hd) (f : TF) (s : State) : R State := do
  let c ← s.flagOf h true
  s.entrySpan f.a
  s.queueBudget f
  s.released (f.ord.relOr .dev)
  let m : BitVec 8 := s.part h
  if m = 0 then .ok (s.fenceOp (.rel (f.ord.relOr .dev)) c)
  else do
    let q ← s.queueNum f
    let ts := if f.a.isK then [lowest m] else bitsOf m
    if s.engineDown q then .ok (s.noReply c (if f.a.isK then BitVec.ofNat 8 (2 ^ lowest m) else m))
    else if !s.queueOk q then .ok (s.later c .other (ts.map fun t => s.predWrite f.d t false) (some (queueFault m)))
    else
      let (s, ws) := ts.foldl (fun (r : State × List RegWrite) t =>
        let x := r.1.queue q
        if x.depth < x.cap then ((r.1.pushEntry q s.cc (s.entryOf f.a t)).notify, r.2 ++ [s.predWrite f.d t true])
        else (r.1, r.2 ++ [s.predWrite f.d t false])) (s, [])
      .ok (s.later c .other ws)

/-- Remove a queue's oldest entry: its push number and bytes. DEDUCED, unsafe (log 33). -/
def State.popEntry (s : State) (q : Nat) : Option ((Nat × List Byte) × State) :=
  let x := s.queue q
  match x.entries with
  | [] => none
  | e :: es =>
    some ((e.1, s.mem.read (x.ring + 64 * (e.1 % x.cap)) 64),
      { s with queues := put s.queues q { x with entries := es, pop := (x.pop + 1) % 2 ^ 32 } })

/-- The registers a popped entry goes to. -/
def State.entryWrites (s : State) (d : RF) (t : Nat) (bs : List Byte) : List RegWrite :=
  match d with
  | .t n => [.v (s.tkey t) n.toNat (BitVec.ofNat 256 (natOfBytes (bs.take 32))) (-1) 15 256,
             .v (s.tkey t) (n.toNat + 1) (BitVec.ofNat 256 (natOfBytes (bs.drop 32))) (-1) 15 256]
  | .k n => (List.range 16).map fun i => .k (n.toNat + i) (BitVec.ofNat 32 (natOfBytes ((bs.drop (4 * i)).take 4)))

/-- A pop has received an entry. -/
def RegWrite.isEntry : RegWrite → Bool
  | .v _ _ _ _ _ _ => true
  | .k _ _ => true
  | _ => false

/-- One thread's pop (R339): its choice is logged, and it takes its turn. -/
def State.popFor (s : State) (f : TF) (q t src : Nat) : R (State × List RegWrite × Bool) :=
  match s.popEntry q with
  | none => .ok (s, [s.predWrite f.a t false], false)
  | some ((num, bs), s1) => do
    let s1 ← s1.choose 3 q src num
    .ok (s1, s.entryWrites f.d t bs ++ [s.predWrite f.a t true], false)

/-- QPOP (R339): a pop that receives an entry is an acquire. DESIGN CHOICE, unsafe (log 9). -/
def qpopEffect (h : Hd) (f : TF) (s : State) : R (State × Flow) := do
  let c ← s.flagOf h true
  s.entrySpan f.d
  s.queueBudget f
  let m := s.part h
  if m = 0 then (s.offFence (.acq (f.ord.acqOr .dev)) c).map fun s => (s, .next)
  else do
    let q ← s.queueNum f
    let uni := f.d.isK
    let m' : BitVec 8 := if uni then BitVec.ofNat 8 (2 ^ lowest m) else m
    if s.engineDown q then .ok (s.noReply c m', .next)
    else if !s.queueOk q then
      .ok (s.later c .other ((bitsOf m').map fun t => s.predWrite f.a t false) (some (queueFault m)), .next)
    else do
      let r ← s.turns.all true m' fun s t => s.popFor f q t (if uni then s.srcUni else s.srcOf t)
      .ok (r.close fun s =>
        (if r.ws.any RegWrite.isEntry then s.acquire s.cc (some (f.ord.acqOr .dev)) else s).later c .other r.ws)

/-- The value of a selector of QQRY (R340). -/
def Queue.value (q : Queue) (sel : Nat) : Nat :=
  match sel with
  | 0 => q.depth
  | 1 => q.cap
  | 2 => q.push
  | 3 => q.pop
  | _ => q.discard

/-- QQRY (R340). DESIGN CHOICE, unsafe (log 9). -/
def qqryEffect (h : Hd) (f : TF) (s : State) : R State := do
  let c ← s.flagOf h true
  s.sIn f.d
  s.queueBudget f
  if !(if f.d.isK then s.acts h else s.part h != 0) then .ok (s.later c .other [])
  else do
    let q ← s.queueNum f
    if s.engineDown q then .ok (s.noReply c (if f.d.isK then BitVec.ofNat 8 (2 ^ lowest s.cb.active) else s.part h))
    else
    let x := s.queue q
    let v := if x.type ≠ 0 ∧ x.ctx = s.cctx then x.value (f.x 13 3) else 0
    .ok (s.later c .other (s.wrD (s.part h) f.d (fun _ => BitVec.ofNat 32 v) 9))

/-! ### SPAWN -/

/-- The join references of the threads, checked by the steps of R252, and where each counter lies. -/
def State.joinCells (s : State) (b : RF) (sp : Bool) (m : BitVec 8) : R (Nat → Cell) :=
  if sp then do
    let o := fun t => s.addrOf b false t
    stepCheck m (fun t => o t % 4 == 0) Code.misaligned o
    stepCheck m (fun t => decide (o t + 4 ≤ s.spadLimit)) Code.scratchBounds o
    .ok fun t => .spad s.cc (s.cwg.spadBase + o t)
  else do
    let va := fun t => s.addrOf b true t
    stepCheck m (fun t => va t % 4 == 0) Code.misaligned va
    let x ← s.xlAll s.cctx m .write va
    s.xlFeatures m fun t => [x t]
    stepCheck m (fun t => !(x t).isAp) Code.apertureWrite va
    stepCheck m (fun t => !s.hazard s.cwg.launch (x t).loc 4) Code.detReadHazard va
    .ok fun t => .mem (va t) (x t)

/-- Add to a join counter modulo 2^32; false where its word cannot be read, which then stays as it is
(R303). -/
def State.addJoin (s : State) (c : Cell) (n : Nat) : State × Bool :=
  match c with
  | .spad core off =>
    let v := natOfBytes (getBs s.mem.scratch (sramKey core off) 4)
    (s.pokeS (sramKey core off) (bytesOfNat 4 ((v + n) % 2 ^ 32)), true)
  | .mem _ x =>
    let (s, o) := rmw (s.agentOf x) x.loc 4 (fun o => some ((o + n) % 2 ^ 32)) s
    (s, o.isSome)

/-- The reference a spawned thread carries. -/
def State.joinRef (s : State) (c : Cell) : JoinRef :=
  match c with
  | .mem va _ => .mem va
  | .spad _ off => .scratch s.cb.wg (off - s.cwg.spadBase)

/-- The payload words of a thread with their tags; a k register carries tag 15. -/
def State.payload (s : State) (a : RF) (n t : Nat) : List (W32 × BitVec 4) :=
  (List.range n).map fun i => match a with
    | .k r => (s.cb.getK (r.toNat + i), 15)
    | .t r => ((s.th t).getS (r.toNat + i), (s.th t).getSt (r.toNat + i))

/-- One thread of a SPAWN (R343): its counter rises, its number is given in its turn, and it is accepted, unless the
spill queue it must go to is out of reach. DESIGN CHOICE, unsafe (log 120). -/
def State.spawnOne (s : State) (f : TF) (e : Nat) (en : SpawnEntry) (cell : Option (Nat → Cell)) (t : Nat) : R (State × List RegWrite × Bool) := do
  let l := s.cwg.launch
  let (s1, okJ) := match cell with
    | some x => s.addJoin (x t) 1
    | none => (s, true)
  let n := (look (s1.launch l).spawnCnt e).getD 0 % 2 ^ 31
  let s2 ← s1.choose 6 e (s.srcOf t) n
  let s3 := s2.modLaunch l fun y => { y with spawnCnt := put y.spawnCnt e (n + 1) }
  let it : SpawnItem := { launch := l, gang := s.cwg.gang, wg := s.cb.wg, e := e, payload := s.payload f.a en.pay t,
                          join := cell.map fun x => s.joinRef (x t), num := e * 2 ^ 31 + n, parent := s.srcOf t, at_ := s.sched.clk }
  .ok (if s3.spillLost s.cc it then (s3, [], true) else (s3.acceptSpawn s.cc it, [], !okJ))

/-- The address of a join counter, as its error names it. -/
def Cell.addr (c : Cell) : Nat :=
  match c with
  | .mem va _ => va
  | .spad _ off => off

/-- SPAWN (R343): entries whose oldest thread is overdue form their groups first (R344, R442). -/
def spawnEffect (h : Hd) (f : TF) (s : State) : R (State × Flow) := do
  s.needs 3
  let c ← s.flagOf h false
  let e := f.x 0 5
  let join := f.x 5 1 == 1
  let sp := f.x 6 1 == 1
  match s.cl.obj.spawns[e]? with
  | none => illegal
  | some en => do
    s.sSpan f.a en.pay
    if join then s.sSpan f.b (if sp then 1 else 2) else .ok ()
    let m := s.part h
    if m = 0 then do
      s.released (f.ord.relOr .gang)
      .ok (s.fenceOp (.rel (f.ord.relOr .gang)) c, .next)
    else do
      let cell ← if join then (s.joinCells f.b sp m).map some else .ok none
      let l := s.cwg.launch
      let s := s.gatherDue s.cc
      ready ((bitsOf (m &&& ~~~(s.turns.done))).length ≤ s.spawnRoom l s.cc)
      s.released (f.ord.relOr .gang)
      let r ← s.turns.all true m fun s t => s.spawnOne f e en cell t
      .ok (r.close fun s =>
        let s := if join && !sp then s.fillAll s.cctx m fun t => s.addrOf f.b true t else s
        (s.gather s.cc l e false 2049).later c (if join then .atomic else .other) []
          (lostFault r.bad fun t => cell.elim 0 fun x => (x t).addr))

/-! ### EXIT -/

/-- Where the counter of a thread's reference lies now. -/
def State.refCell (s : State) (j : JoinRef) (x : Xl) : Cell :=
  match j with
  | .mem va => .mem va x
  | .scratch wg off => .spad (s.wg wg).core ((s.wg wg).spadBase + off)

/-- The threads of a mask that hold a reference to memory, and its address. -/
def State.memRef (s : State) (t : Nat) : Option Nat :=
  match (s.th t).join with
  | some (.mem va) => some va
  | _ => none

/-- The first half of EXIT (R349): the release, the decrements, and the references dropped. Workgroups
whose last reference is gone retire (R348). DEDUCED, unsafe (log 34). -/
def exitRefs (h : Hd) (f : TF) (s : State) : R State := do
  let join := f.tx == 1
  let m := s.part h
  let refs := mask8 fun t => m.getLsbD t && (s.th t).join.isSome
  if !f.ord.isNone || (join && refs ≠ 0) then do
    s.unheld
    s.released (f.ord.relOr .gang)
  else .ok ()
  let mm := mask8 fun t => join && m.getLsbD t && (s.memRef t).isSome
  let va := fun t => (s.memRef t).getD 0
  let x ← s.xlAll s.cctx mm .write va
  s.xlFeatures mm fun t => [x t]
  stepCheck mm (fun t => !(x t).isAp) Code.apertureWrite va
  stepCheck mm (fun t => !s.hazard s.cwg.launch (x t).loc 4) Code.detReadHazard va
  let s0 := s
  let (s, bad) := eachT (if join then refs else 0) (s, ([] : List Nat)) fun r t =>
    match (s0.th t).join with
    | some j =>
      let (s, ok) := r.1.addJoin (s0.refCell j (x t)) (2 ^ 32 - 1)
      (s, if ok then r.2 else r.2 ++ [t])
    | none => r
  let s := match lostFault bad va with
    | some ft => s.modCb fun b => { b with untracked := addFault b.untracked ft }
    | none => s
  let s := eachT refs s fun s t => s.modTh t fun y => { y with join := none }
  .ok (eachT refs s fun s t => match (s0.th t).join with
    | some (.scratch w _) => s.retire w
    | _ => s)

/-- The second half: the threads end. The last live threads of a beam first wait for its counters and
stores, with its faults raised. DEDUCED, unsafe (log 34). -/
def exitEnd (h : Hd) (s : State) : R (State × Flow) := do
  let m := s.part h
  let b := s.cb
  if m = 0 then .ok (s, .goto b.fall)
  else
    let live := b.live &&& ~~~m
    let act := b.active &&& ~~~m
    let stores := (s.opsOf s.sched.cur).any fun o => o.kind.held && o.ctr.isNone
    if live = 0 && (!b.allZero || stores) then .error (.wait .waiting .exit)
    else match (if live = 0 then b.raisable (-1) else none), (if live = 0 then b.untracked else none) with
    | some (c, r), _ => .error (.deferred c r)
    | none, some r => .error (.untracked r)
    | none, none =>
      let s := eachT m s fun s t => s.modTh t fun y => { y with alive := false }
      let s := s.modCb fun b => { b with live := live, active := act }
      if live = 0 then .ok ((s.lastPath s.sched.cur).finishBeam s.sched.cur, .stay)
      else if act = 0 then (s.pathEnd s.sched.cur 33).map fun s => (s, .stay)
      else .ok (s, .goto b.fall)

/-- EXIT: what its first half has done stands where the second has to wait. DEDUCED, unsafe (log 73). -/
def exitWord (h : Hd) (f : TF) (s : State) : Host.Outcome State Fault Refusal :=
  match look s.beams s.sched.cur with
  | none => .next s
  | some b =>
    if b.st = .issuing then
      match exitRefs h f s with
      | .error e => s.stop e
      | .ok s1 => match exitEnd h s1 with
        | .ok (s2, fl) => .next (s2.flow fl)
        | .error e => s1.stop e
    else .next s

/-! ### NEMIT and NINFO -/

/-- The node that a thread of NEMIT names, and the records of its threads in ascending t (R358). -/
def State.nodeOf (s : State) (f : TF) (t : Nat) : Nat := if f.x 8 1 = 1 then s.addrOf f.b false t % 256 else f.x 0 8
def State.emitsOf (s : State) (h : Hd) (f : TF) : List Emit :=
  (bitsOf (s.part h)).map fun t =>
    { launch := s.cwg.launch, node := s.nodeOf f t, src := s.srcOf t, t := t,
      bytes := (bytesOfNat 32 ((s.th t).getV f.a.num).toNat ++ bytesOfNat 32 ((s.th t).getV (f.a.num + 1)).toNat).take
        (16 * (s.cl.obj.nodes[s.nodeOf f t]?).elim 0 (·.size)) : Emit }

/-- NEMIT (R358): the records go to bins in ascending t; those that must wait for a slot stay with the
operation, and those of bins out of reach are lost (R450). DEDUCED, unsafe (log 35). -/
def nemitEffect (h : Hd) (f : TF) (s : State) : R State := do
  s.needs 4
  let c ← s.flagOf h false
  s.vSpan f.a 2
  if f.x 8 1 = 1 then s.sIn f.b else .ok ()
  let m := s.part h
  let sc := f.ord.relOr .dev
  if m = 0 then do
    s.released sc
    .ok (s.fenceOp (.rel sc) c)
  else do
    let bad := mask8 fun t => m.getLsbD t && decide (s.cl.obj.nodes.length ≤ s.nodeOf f t)
    need (bad = 0) Code.nodeInvalid bad
    s.released sc
    let (s, rest, gone) := s.emitAll s.sched.fresh (s.emitsOf h f)
    .ok (s.startOp s.sched.cur c
      { id := 0, beam := 0, uid := 0, ctr := none, emit := rest, fault := if gone = 0 then none else some { code := Code.memoryDataError, mask := gone } })

/-- The value of a selector of NINFO (R360). -/
def Wg.binInfo (g : Wg) (sel : Nat) : Nat :=
  match g.kind with
  | .bin node num n timer => match sel with
    | 0 => n + 512 * b2n timer
    | 1 => num % 2 ^ 32
    | _ => node
  | _ => 0

/-- NINFO (R360): a short word, which uses no counter (R35, R337). -/
def ninfoEffect (h : Hd) (f : TF) (s : State) : R State := do
  s.needs 4
  s.sIn f.d
  if f.d.isK && !s.acts h then .ok s
  else .ok (s.putD (s.part h) f.d (fun _ => BitVec.ofNat 32 (s.cwg.binInfo (f.x 0 2))) 9)

/-- SPAWN (R343). -/
def execSpawn (h : Hd) (f : TF) (s : State) : Host.Outcome State Fault Refusal := issueTo s (spawnEffect h f)
/-- EXIT (R349). -/
def execExit (h : Hd) (f : TF) (s : State) : Host.Outcome State Fault Refusal := exitWord h f s
/-- JWAIT (R350). -/
def execJwait (h : Hd) (f : TF) (s : State) : Host.Outcome State Fault Refusal := issueTo s (jwaitEffect h f)
/-- AWAIT (R352). -/
def execAwait (h : Hd) (f : TF) (s : State) : Host.Outcome State Fault Refusal := issueTo s (awaitEffect h f)
/-- QPUSH (R338). -/
def execQpush (h : Hd) (f : TF) (s : State) : Host.Outcome State Fault Refusal := issue s (qpushEffect h f)
/-- QPOP (R339). -/
def execQpop (h : Hd) (f : TF) (s : State) : Host.Outcome State Fault Refusal := issueTo s (qpopEffect h f)
/-- QQRY (R340). -/
def execQqry (h : Hd) (f : TF) (s : State) : Host.Outcome State Fault Refusal := issue s (qqryEffect h f)
/-- NEMIT (R358). -/
def execNemit (h : Hd) (f : TF) (s : State) : Host.Outcome State Fault Refusal := issue s (nemitEffect h f)
/-- NINFO (R360). -/
def execNinfo (h : Hd) (f : TF) (s : State) : Host.Outcome State Fault Refusal := issue s (ninfoEffect h f)

end Sys2Proof.Machine
end

