-- ==== Sys2Proof/Machine/Complete.lean ====
section
/-! DEFINITION. What long-latency operations and waiting beams do on their own: COUNTER_FALL (R34),
BEAM_WAKE (R134, R160, R349, R352, R353) and MIRROR_TURN (R312). -/

namespace Sys2Proof.Machine

/-! ### COUNTER_FALL -/

/-- A drain of a workgroup that has started and been applied (R295). -/
def State.drainDone (s : State) (wg num : Nat) : Bool :=
  let g := s.wg wg
  (num ≤ g.detNum || g.retired) && !g.drains.any fun d => d.num == num

/-- The effect of an engine's word. -/
def Engine.effect (e : Engine) (s : State) : R State :=
  match e.instr with
  | .psmp h f => psmpEffect false h f s
  | .psmpl h f => psmpEffect true h f s
  | .pups h f => pupsEffect h f s
  | .pqry h f => pqryEffect h f s
  | _ => .error .stall

/-- A stalled engine starts its command again from the beginning (R271, R403, R407), on the beam and the
threads as they stood at issue: the operation then carries what the command came to, or stalls again. -/
def State.replay (s : State) (o : Op) (e : Engine) : Option State :=
  let s0 := { s with
    sched := { s.sched with cur := o.beam }, ops := [],
    beams := put s.beams o.beam { e.beam with ctr := Vector.replicate 12 0 },
    threads := e.threads.foldl (fun m t => put m t.1 t.2) s.threads }
  let back := fun (s1 : State) (o' : Op) =>
    { s1 with sched := { s1.sched with cur := s.sched.cur, stalled := s.sched.stalled }, beams := s.beams, threads := s.threads,
              ops := s.ops.map fun x => if x.id = o.id then o' else x }
  match e.effect s0 with
  | .ok s1 =>
    match s1.ops with
    | n :: _ =>
      if n.eng.isSome then
        let s1 := back s1 o
        some { s1 with tickets := s1.tickets.map fun t => if t.2.engine ∧ t.2.uid = n.id then (t.1, { t.2 with uid := o.id }) else t }
      else some (back s1 { o with writes := n.writes, fault := n.fault, cond := n.cond, eng := none })
    | [] => none
  | .error (.trap t) =>
    if launchLevel t.code then some (s.launchTrap (s.wg e.beam.wg).launch t.code t.feature)
    else some (back s { o with fault := some { code := t.code, addr := t.addr, mask := t.mask }, cond := .now, eng := none })
  | _ => none

/-- A beam of a gang that is saved, or on its way there, does nothing. -/
def State.away (s : State) (bk : Nat) : Bool := (s.gang (s.wg (s.beam bk).wg).gang).st ≠ .placed

/-- The ticket of a stalled engine has been answered (R403). -/
def State.engineFree (s : State) (o : Op) : Bool := !(s.tickets.any fun t => t.2.engine && t.2.uid == o.id)

/-- The copies that a CINV names leave the caches (R416): instruction lines, decompressed bytes of an Aperture, data
lines. -/
def Mem.invalidate (m : Mem) (c : Cinv) : Mem :=
  { m with
    icache := if c.instr then m.icache.filter fun x => !(x.1 % 16 == c.ctx && c.lo ≤ x.2.1 && x.2.1 < c.hi) else m.icache,
    expanded := if c.aperture then m.expanded.filter fun x => !(x.1 / 2 ^ 64 == c.ctx && c.lo ≤ x.1 % 2 ^ 64 / 128 && x.1 % 2 ^ 64 / 128 < c.hi) else m.expanded,
    caches := if c.allData then [] else match c.data with
      | some ls => m.caches.filter fun x => !ls.contains x.line
      | none => m.caches }

/-- The translations of a context, or of one page of it, leave every TLB; the walkers then see what the context has
stored in its tables, and its Apertures are read anew (R405, R273, R265). DEDUCED, unsafe (log 76).
DEDUCED, unsafe (log 93). -/
def Mem.dropPages (m : Mem) (ctx : Nat) (va : Option Nat) : Mem :=
  { m with tlb := m.tlb.filter fun e => e.ctx ≠ ctx || va.any fun a => a / 2 ^ e.size ≠ e.vpn,
           unseen := m.unseen.filter fun x => x.2.2 ≠ ctx,
           expanded := m.expanded.filter fun x => x.1 / 2 ^ 64 ≠ ctx }

/-- The bits of a v register in some of its elements: those of 4 bits go by bytes. -/
def elemBits (ew : Nat) (m : BitVec 32) : BitVec 256 :=
  let w := max ew 8
  BitVec.ofNat 256 (((List.range (256 / w)).map fun i => if m.getLsbD i then (2 ^ w - 1) * 2 ^ (w * i) else 0).foldl (· + ·) 0)

/-- A write of an operation in flight lands before its counter falls (R35): for a v register in some elements.
Until an element has landed a read finds its old value, then the new one; a word's write that comes after
it stands, one that comes before it is lost. DEDUCED, safe (log 10). -/
def State.landEarly (s : State) (o : Op) (k : Nat) (sel : BitVec 32) : Option State :=
  let left := fun (ws : List RegWrite) => s.ops.map fun x => if x.id = o.id then { x with writes := ws } else x
  if o.cond ≠ OpCond.now then none
  else match o.writes[k]? with
    | some (.v tk n val m tag ew) =>
      let now := m &&& elemBits ew sel
      let later := m &&& ~~~ elemBits ew sel
      if now = 0 then none
      else some { s.land o.beam (.v tk n val now tag ew) with
        ops := left (if later = 0 then o.writes.eraseIdx k else o.writes.set k (.v tk n val later tag ew)) }
    | some w => some { s.land o.beam w with ops := left (o.writes.eraseIdx k) }
    | none => none

/-- Complete an operation whose condition holds: none while it does not. While the Vetik Link retrains, accesses to
the host wait (R467). -/
def State.tryComplete (s : State) (o : Op) : Option State :=
  if (s.reg 0x543).getLsbD 4 && o.cond.remotes.any fun r => !r.peer then none else
  match o.cond with
  | .now => some (s.complete o)
  | .fence ord => if s.fenceDone o ord then some (s.complete o) else none
  | .copyEnd core ch seq _ => if s.copyEnded core ch seq then some (s.complete o) else none
  | .copyAt core ch ptr seq d gang acq =>
    let x := (s.chan core ch).seenBy gang
    if x.reached ptr seq then
      some ((s.complete { o with writes := [.k d (BitVec.ofNat 32 x.status)] }).acquire (coreOf o.beam) acq)
    else none
  | .rpkt core launch id => if s.collTaken core launch id then some (s.complete o) else none
  | .coll core launch id d ts acq =>
    (s.collTake core launch id d ts).map fun r => (r.2.complete { o with writes := r.1 }).acquire core acq
  | .drain wg num _ _ => if s.drainDone wg num then some (s.complete o) else none
  | .bank core n _ _ _ =>
    let s := s.modCore core fun k => { k with banks := upd k.banks n fun b => { b with loading := 0 } }
    some (s.complete o)
  | .lines c => some ({ s with mem := s.mem.invalidate c }.complete o)
  | .pages ctx va =>
    if s.fenceDone o (.rel .dev) then some ({ s with mem := s.mem.dropPages ctx va }.complete o) else none
  | .remote _ => some (s.complete o)
  | .held =>
    match o.eng with
    | some e => if s.engineFree o && !s.away o.beam then s.replay o e else none
    | none => none

/-- A request that serves the operation still awaits its response (R453). -/
def State.requested (s : State) (o : Op) : Bool := s.links.any fun l => l.2.tags.any fun t => t.op == o.id

/-- The last records of a NEMIT lie in their bins: its launch may have nothing else left (R358, R361). -/
def State.emitted (s : State) (es : List Emit) : State := ((es.map (·.launch)).eraseDups).foldl State.launchOver s

/-- COUNTER_FALL (R34): an operation completes, or one of its writes lands early (R35). Records of a NEMIT
that waited for a bin go first (R358).
DEDUCED, safe (log 10). -/
def counterFall (s : State) : Option State :=
  match s.ops.find? fun o => o.id == s.sched.arg.a with
  | none => none
  | some o =>
    if 256 ≤ coreOf o.beam || s.requested o then none
    else if 0 < s.sched.arg.b then s.landEarly o (s.sched.arg.b - 1) s.sched.arg.value
    else if o.emit = [] then s.tryComplete o
    else
      let s' := s.emitOp o
      match s'.ops.find? fun x => x.id == o.id with
      | some o' => if o'.emit = o.emit then none else if o'.emit = [] then (s'.tryComplete o').map fun t => t.emitted o.emit else some s'
      | none => some s'

/-! ### BEAM_WAKE -/

/-- The counters of a mask all read at most n. -/
def Beam.atMost (b : Beam) (m : BitVec 12) (n : Nat) : Bool :=
  (List.range 12).all fun i => !m.getLsbD i || b.getCtr i ≤ n

/-- Untracked operations of a beam in flight whose error would be held for it (R253, R212). -/
def State.storesOut (s : State) (bk : Nat) : Bool := (s.opsOf bk).any fun o => o.kind.held && o.ctr.isNone

/-- The condition a WAITING beam waits for, where one of its own steps tells it (R134): how the word that
waited goes on. -/
def State.waitOver (s : State) (bk : Nat) : Option Wait :=
  let b := s.beam bk
  let on := fun (c : Bool) (w : Wait) => if c then some w else none
  match b.wait with
  | .clause => on (s.clauseReady bk) .none
  | .waitf m n => on (b.atMost m n) .none
  | .zero => on b.allZero .none
  | .loads => on (!s.loadsOut bk) .loads
  | .exit => on (b.allZero && !s.storesOut bk) .none
  | .barrier core off tok => on (barPh (s.barObj (sramKey core off)) ≠ tok) .none
  | .mirror ts => on (s.turnCome bk ts) .none
  | _ => none

/-- The event a PARKED or EVICTED beam waits for has happened (R134, R139, R350, R352, R403). -/
def State.eventCome (s : State) (bk : Nat) : Option Wait :=
  let b := s.beam bk
  match b.wait with
  | .met => some .met
  | .ended st => some (.ended st)
  | .counters m => if b.atMost m 0 then some .met else none
  | .ticket t => if (look s.tickets t).any fun k => k.kind == 1 && k.who == bk && k.uid == b.uid then none else some .none
  | w => if s.watched w then some .met else none

/-- BEAM_WAKE (R134): a WAITING beam keeps its lane, a PARKED one is bound again (R20). -/
def beamWake (s : State) : Option State :=
  let bk := s.sched.arg.a
  match look s.beams bk with
  | none => none
  | some b =>
    if b.st = .waiting ∧ b.pend.isNone then
      (s.waitOver bk).map fun w =>
        let s := match b.wait with
          | .barrier core off _ => s.barCount (sramKey core off) false
          | _ => s
        s.modBeam bk fun b => { b with st := .ready, wait := w }
    else if b.st = .parked then
      (s.eventCome bk).map fun w =>
        (s.modBeam bk fun b => { b with st := .ready, wait := w }).bind bk
    else none

/-- MIRROR_TURN (R312): the turn of a waiting party has come. DEDUCED, unsafe (log 39). -/
def mirrorTurn (s : State) : Option State :=
  match (s.beam s.sched.arg.a).wait with
  | .mirror _ => beamWake s
  | _ => none

/-- COUNTER_FALL (R34). -/
def execCounterFall (s : State) : Host.Outcome State Fault Refusal := event s counterFall
/-- BEAM_WAKE (R134). -/
def execBeamWake (s : State) : Host.Outcome State Fault Refusal := event s beamWake
/-- MIRROR_TURN (R312). -/
def execMirrorTurn (s : State) : Host.Outcome State Fault Refusal := event s mirrorTurn

end Sys2Proof.Machine
end

