-- ==== Sys2Proof/Machine/Control.lean ====
section
/-! DEFINITION. The control-flow instructions of chapter 6 but for the predicate instructions: branches,
jumps, calls, loops, YIELD and WAITF (R150 to R160). -/

namespace Sys2Proof.Machine

/-- R38: a register target with low bits set raises ILLEGAL_CLAUSE at the branching word.
DEDUCED, unsafe (log 80). -/
def State.aligned (s : State) (a : Nat) : R Unit :=
  if a % 8 = 0 then .ok ()
  else .error (.trap { code := Code.illegalClause, addr := a, d0 := 1 + s.cb.pos })

/-- The signed join offset jo19: bits [25:7] (R150). -/
def BF.jo19 (f : BF) : BitVec 19 := f.a.bits ++ f.q1 ++ f.q2 ++ f.q3
/-- The signed join offset jo14 (R150). -/
def BF.jo14 (f : BF) : BitVec 14 := f.a.bits ++ f.bx

/-- Push an entry; a 33rd raises RSTACK_OVERFLOW with the active mask (R146). -/
def State.pushEntryR (s : State) (e : REntry) : R State :=
  if s.cwg.stack.length < 32 then .ok (s.modCwg fun g => { g with stack := g.stack ++ [e] })
  else trap Code.rstackOverflow s.cb.active

/-- BR (R151). -/
def brEffect (h : Hd) (f : BF) (s : State) : R (State × Flow) := do
  let b := s.cb
  let t := s.part h
  let n := b.active &&& ~~~t
  let tg := b.target f.off
  if n = 0 then .ok (s, .goto tg)
  else if t = 0 then .ok (s, .goto b.fall)
  else do
    let s ← s.pushEntryR { beam := b.b, kind := .br, rmask := b.active, m := [t, n], next := 1, jn := b.target (BF.jo19 f), tg := tg, ft := b.fall }
    .ok (s.modCb fun b => { b with active := t }, .goto tg)

/-- The threads whose answer differs from the lowest active thread's. -/
def State.differ (s : State) {α : Type} [DecidableEq α] (f : Nat → α) : BitVec 8 :=
  mask8 fun t => s.active t && decide (f t ≠ f (lowest s.cb.active))

/-- BRU (R152): decisions, and in the .r form targets, must agree. -/
def bruEffect (h : Hd) (f : BF) (s : State) : R (State × Flow) := do
  let b := s.cb
  let r := lowest b.active
  if f.bx.getLsbD 0 then do
    s.sSpan f.a 2
    let bad := s.differ fun t => (s.guard h t, (s.th t).sPair f.a.num)
    need (bad = 0) Code.uniformViolation bad
    if s.guard h r then do
      s.aligned ((s.th r).sPair f.a.num)
      .ok (s, .goto (BitVec.ofNat 64 ((s.th r).sPair f.a.num)))
    else .ok (s, .goto b.fall)
  else do
    let bad := s.differ fun t => s.guard h t
    need (bad = 0) Code.uniformViolation bad
    .ok (s, .goto (if s.guard h r then b.target f.off else b.fall))

/-- A selector pair of BRM in a q field: [3] negate, [2:0] the predicate (R150). -/
def selOf (x : Thread) (q : BitVec 4) : Bool := x.getP (q.toNat % 8) != q.getLsbD 3

/-- BRM (R153). -/
def brmEffect (h : Hd) (f : BF) (s : State) : R (State × Flow) := do
  let b := s.cb
  let path := fun t =>
    if s.guard h t then 0 else if selOf (s.th t) f.q1 then 1 else if selOf (s.th t) f.q2 then 2
    else if selOf (s.th t) f.q3 then 3 else 4
  let ms := (List.range 5).map fun i => mask8 fun t => s.active t && path t == i
  let e : REntry := { beam := b.b, kind := .brm, rmask := b.active, m := ms, next := 0, jn := b.target (BF.jo14 f), tg := b.target f.off, ft := b.fall }
  match (List.range 5).find? fun i => ms.getD i 0 = b.active with
  | some i => .ok (s, .goto (e.pathAddr i))
  | none =>
    let i := ((List.range 5).find? fun i => ms.getD i 0 ≠ 0).getD 0
    let s ← s.pushEntryR { e with next := i + 1 }
    .ok (s.modCb fun b => { b with active := ms.getD i 0 }, .goto (e.pathAddr i))

/-- BRW: wait for the counters, then arrive at the rendezvous (R156). -/
def brwEffect (h : Hd) (f : BF) (s : State) : R (State × Flow) := do
  s.drained
  ready (s.handsOver s.sched.cur)
  let b := s.cb
  let t := s.part h
  let s := s.modCb fun b =>
    { b with st := .waiting, wait := .brw t (b.target f.off) (b.target (BF.jo19 f)), latch := none }
  .ok (s.brwTry b.wg, .stay)

/-- The uniform condition kc (R150). -/
def Beam.kc (b : Beam) (q : BitVec 4) : Bool := b.getKp (q.toNat % 8) != q.getLsbD 3

/-- JMP to RET (R158): the decision, after the agreement check. -/
def State.jumps (s : State) (h : Hd) (q : BitVec 4) : R Bool := do
  let bad := s.differ fun t => s.guard h t
  need (bad = 0) Code.uniformViolation bad
  .ok (s.guard h (lowest s.cb.active) && s.cb.kc q)

/-- Write a link pair with the fall-through address. -/
def Beam.link (b : Beam) (n : Nat) : Beam :=
  let ft := b.fall.toNat
  (b.setK n (BitVec.ofNat 32 ft)).setK (n + 1) (BitVec.ofNat 32 (ft / 2 ^ 32))

def jmpEffect (h : Hd) (f : BF) (s : State) : R (State × Flow) := do
  let go ← s.jumps h f.q1
  .ok (s, .goto (if go then s.cb.target f.off else s.cb.fall))

def callEffect (h : Hd) (f : BF) (s : State) : R (State × Flow) := do
  let go ← s.jumps h f.q1
  let b := s.cb
  if go then .ok (s.modCb fun b => b.link f.a.num, .goto (b.target f.off)) else .ok (s, .goto b.fall)

/-- JMPI, CALLI and RET: a target from a k pair, and a link for CALLI. The target is read first. -/
def jumpReg (h : Hd) (f : BF) (link : Option Nat) (s : State) : R (State × Flow) := do
  let go ← s.jumps h f.q1
  let b := s.cb
  if go then do
    let a := b.kPair f.a.num
    s.aligned a
    let s := match link with
      | some n => s.modCb fun b => b.link n
      | none => s
    .ok (s, .goto (BitVec.ofNat 64 a))
  else .ok (s, .goto b.fall)

/-- RECONV (R154). -/
def reconvEffect (f : BF) (s : State) : R (State × Flow) := do
  let b := s.cb
  let jn := b.target f.off
  let st := s.cwg.stack
  match (currentIdx st b.b).bind fun i => st[i]? with
  | some e =>
    if e.kind ≠ .loop ∧ e.jn = jn then do
      let s ← s.pathEnd s.sched.cur 33
      .ok (s, .stay)
    else .ok (s, .goto jn)
  | none => .ok (s, .goto jn)

/-- LOOP, predicate form (R155). -/
def loopEffect (h : Hd) (f : BF) (s : State) : R (State × Flow) := do
  let b := s.cb
  let tg := b.target f.off
  let ft := b.fall
  let c := s.part h
  let x := b.active &&& ~~~c
  let st := s.cwg.stack
  let own := (ownTopIdx st b.b).bind fun i => match st[i]? with
    | some e => if e.kind = .loop ∧ e.ft = ft then some (i, e) else none
    | none => none
  if c = 0 then
    match own with
    | some (i, e) =>
      let s := s.modCwg fun g => { g with stack := g.stack.eraseIdx i }
      .ok (s.modCb fun b => { b with active := (e.m.getD 0 0 ||| x) &&& b.live }, .goto ft)
    | none => .ok (s, .goto ft)
  else if x = 0 then .ok (s, .goto tg)
  else do
    let s ← match own with
      | some (i, e) => .ok (s.modCwg fun g => { g with stack := g.stack.set i { e with m := [e.m.getD 0 0 ||| x] } })
      | none => s.pushEntryR { beam := b.b, kind := .loop, rmask := b.active, m := [x], next := 0, jn := ft, tg := 0, ft := ft }
    .ok (s.modCb fun b => { b with active := c }, .goto tg)

/-- LOOP, counter form (R155). -/
def loopKEffect (f : BF) (s : State) : R (State × Flow) :=
  let b := s.cb
  let v := b.getK f.a.num - 1
  .ok (s.modCb fun b => b.setK f.a.num v, .goto (if v = 0 then b.fall else b.target f.off))

/-- YIELD (R160): ask the lane for another beam, and flush the partial spawn beam. -/
def yieldEffect (h : Hd) (s : State) : R (State × Flow) :=
  let ft := s.cb.fall
  if s.acts h then
    let s := s.flushSpawn
    let s := match s.cb.lane with
      | some l => s.modCore s.cc fun c => { c with lanes := put c.lanes l { (look c.lanes l).getD {} with switch := true } }
      | none => s
    .ok (s, .goto ft)
  else .ok (s, .goto ft)

/-- WAITF (R160): the counter mask in off[11:0], the threshold in bx[5:0]. -/
def waitfEffect (h : Hd) (f : BF) (s : State) : R (State × Flow) :=
  let b := s.cb
  let m : BitVec 12 := f.off.extractLsb' 0 12
  let n := f.bx.toNat % 64
  if s.acts h then
    if (List.range 12).all fun i => !m.getLsbD i || b.getCtr i ≤ n then
      match b.raisable m with
      | some (c, r) => .error (.deferred c r)
      | none => .ok (s, .goto b.fall)
    else .error (.wait .waiting (.waitf m n))
  else .ok (s, .goto b.fall)

/-- NOP (R159). -/
def execNop (_ : Hd) (_ : ZF) (s : State) : Host.Outcome State Fault Refusal := issue s fun s => .ok s
/-- BR (R151). -/
def execBr (h : Hd) (f : BF) (s : State) : Host.Outcome State Fault Refusal := issueTo s (brEffect h f)
/-- BRU (R152). -/
def execBru (h : Hd) (f : BF) (s : State) : Host.Outcome State Fault Refusal := issueTo s (bruEffect h f)
/-- BRM (R153). -/
def execBrm (h : Hd) (f : BF) (s : State) : Host.Outcome State Fault Refusal := issueTo s (brmEffect h f)
/-- BRW (R156, R157). -/
def execBrw (h : Hd) (f : BF) (s : State) : Host.Outcome State Fault Refusal := issueTo s (brwEffect h f)
/-- JMP (R158). -/
def execJmp (h : Hd) (f : BF) (s : State) : Host.Outcome State Fault Refusal := issueTo s (jmpEffect h f)
/-- JMPI (R158). -/
def execJmpi (h : Hd) (f : BF) (s : State) : Host.Outcome State Fault Refusal := issueTo s (jumpReg h f none)
/-- CALL (R158). -/
def execCall (h : Hd) (f : BF) (s : State) : Host.Outcome State Fault Refusal := issueTo s (callEffect h f)
/-- CALLI (R158): the link pair in bx[5:0]. -/
def execCalli (h : Hd) (f : BF) (s : State) : Host.Outcome State Fault Refusal :=
  issueTo s (jumpReg h f (some (f.bx.toNat % 64)))
/-- RET (R158). -/
def execRet (h : Hd) (f : BF) (s : State) : Host.Outcome State Fault Refusal := issueTo s (jumpReg h f none)
/-- RECONV (R154). -/
def execReconv (_ : Hd) (f : BF) (s : State) : Host.Outcome State Fault Refusal := issueTo s (reconvEffect f)
/-- LOOP (R155). -/
def execLoop (h : Hd) (f : BF) (s : State) : Host.Outcome State Fault Refusal := issueTo s (loopEffect h f)
/-- LOOP.k (R155). -/
def execLoopK (_ : Hd) (f : BF) (s : State) : Host.Outcome State Fault Refusal := issueTo s (loopKEffect f)
/-- YIELD (R160). -/
def execYield (h : Hd) (_ : BF) (s : State) : Host.Outcome State Fault Refusal := issueTo s (yieldEffect h)
/-- WAITF (R160). -/
def execWaitf (h : Hd) (f : BF) (s : State) : Host.Outcome State Fault Refusal := issueTo s (waitfEffect h f)

end Sys2Proof.Machine
end

