-- ==== Sys2Proof/Machine/Float.lean ====
section
/-! DEFINITION. Elementwise floating-point arithmetic and the special functions (R180 to R192), and the
generator and fx instructions (R201 to R204). -/

namespace Sys2Proof.Machine

open Sys2Proof.ZF

/-- The format of an elementwise type. -/
def fmtD (t : Ty) : Fmt := (fmtOf t).getD .f32

/-- An element function on exact values: the value to round, and the flags found before rounding. -/
abbrev FpFn := XV → XV → XV → WithFx XV

/-- A source of a Z-form floating-point row. -/
def fSrcs (z : ZF) (n : Nat) : List Src := [srcA z (.ty z.ty), srcB z (.ty z.ty), srcC z (.ty z.ty)].take n

/-- The decoded operands of an element, under FTZ (R99). -/
def State.fArgs (s : State) (f : Fmt) (l : List Nat) : XV × XV × XV :=
  (decodeF f s.ftz (e0 l), decodeF f s.ftz (e1 l), decodeF f s.ftz (e2 l))

/-- A rounding row of R183 (R184): n sources, one rounding by rm, SR from the generator or from c
(R189). -/
def fltRow (n : Nat) (approx : Bool) (fn : FpFn) (h : Hd) (z : ZF) (s : State) : R State := do
  let f := fmtD z.ty
  let rm := if approx then Rm.rz else z.rm
  let ext := z.x4
  if ext then s.regIn z.c z.V else .ok ()
  let blk := if ext then some fun t => (s.regOf { f := z.c, v := z.V, want := .bits 32 } t).1 else none
  s.elementwise h z.d z.V (fSrcs z n) z.ty.width (Sys2Proof.Ty.tag z.ty) (rm = .sr && !ext) blk fun l w r =>
    let (a, b, c) := s.fArgs f l
    let (x, fl) := fn a b c
    let (v, g) := roundX f rm approx s.ftz w r x
    (v, fl ||| g)

/-- An exact sum rounds a zero of opposite signs by the mode. -/
def isRd (rm : Rm) : Bool := rm == .rd

def xAdd (rm : Rm) : FpFn := fun a b _ => (a.add (isRd rm) b, 0)
def xSub (rm : Rm) : FpFn := fun a b _ => (a.add (isRd rm) b.neg, 0)
def xMul : FpFn := fun a b _ => (a.mul b, 0)
def xFma (rm : Rm) : FpFn := fun a b c => ((a.mul b).add (isRd rm) c, 0)
def xFms (rm : Rm) : FpFn := fun a b c => ((a.mul b).add (isRd rm) c.neg, 0)
def xFnm (rm : Rm) : FpFn := fun a b c => ((a.mul b).neg.add (isRd rm) c, 0)
def xDiv : FpFn := fun a b _ => a.div b
def xFun (g : Fun) : FpFn := fun a _ _ => funX g a

/-- A row that returns a value without rounding (R185, R187). -/
def pickRow (n : Nat) (fn : FpFn) (h : Hd) (z : ZF) (s : State) : R State :=
  let f := fmtD z.ty
  s.elementwise h z.d z.V (fSrcs z n) z.ty.width (Sys2Proof.Ty.tag z.ty) false none fun l _ _ =>
    let (a, b, c) := s.fArgs f l
    let (x, fl) := fn a b c
    (encodeF f x, fl)

def xMinmax (mx : Bool) : FpFn := fun a b _ => (minmax mx a b, minmaxFx a b)

/-- FCLAMP (R187). -/
def xClamp : FpFn := fun a b c =>
  if a.isNan then (.nan false, if a.isSig then Fx.iv else 0)
  else
    let y := minmax true a b
    (minmax false y c, minmaxFx a b ||| minmaxFx y c)

/-- A row that changes only sign bits (R188). -/
def signRow (n : Nat) (fn : Nat → Nat → Nat → Nat) (h : Hd) (z : ZF) (s : State) : R State :=
  let w := z.ty.width
  s.elementwise h z.d z.V ((fSrcs z n).map fun x => { x with ftz := false, raw := true }) w (Sys2Proof.Ty.tag z.ty) false none
    fun l _ _ => (fn w (e0 l) (e1 l), 0)

def sAbs (w a _ : Nat) : Nat := a % 2 ^ (w - 1)
def sNeg (w a _ : Nat) : Nat := a ^^^ 2 ^ (w - 1)
def sSign (x : Bool) (w a b : Nat) : Nat :=
  if x then a ^^^ (b / 2 ^ (w - 1) % 2 * 2 ^ (w - 1)) else a % 2 ^ (w - 1) + b / 2 ^ (w - 1) % 2 * 2 ^ (w - 1)

/-- FCMP (R186). -/
def fcmpEffect (h : Hd) (z : ZF) (s : State) : R State :=
  let f := fmtD z.ty
  let w := z.ty.width
  s.elementwise h z.d z.V (fSrcs z 2) w (if w = 32 then 9 else 13) false none fun l _ _ =>
    let (a, b, _) := s.fArgs f l
    let (c, fl) := condF z.x30 a b
    (if c then 2 ^ w - 1 else 0, fl)

/-- FADD and FMUL with an immediate (R190). -/
def fltImm (fn : Rm → FpFn) (h : Hd) (f : IF) (s : State) : R State :=
  let rm := (Rm.ofBits (f.imx.extractLsb' 0 3)).getD .rn
  s.elementwise h f.d f.V [{ f := f.a, v := f.V, want := .ty .f32, ftz := true }] 32 8 (rm = .sr) none fun l w r =>
    let a := decodeF .f32 s.ftz (e0 l)
    let b := decodeF .f32 s.ftz f.imm.toNat
    let (x, fl) := fn rm a b (XV.zero false)
    let (v, g) := roundF .f32 rm s.ftz w r x
    (v, fl ||| g)

/-! ### The generator (R201 to R203) and fx (R204) -/

/-- RNGDRAW (R201). -/
def rngdrawEffect (h : Hd) (z : ZF) (s : State) : R State := do
  s.regIn z.d z.V
  s.canDraw true
  let uni := fun w => let m := w / 2 ^ 8; (rn32 (.num false m 1 (-24))).1
  let n := if z.V then 8 else 1
  let out := fun t =>
    let b := s.block t
    if z.opx.getLsbD 0 then { val := ofElems 32 ((elems b 32 n).map uni), tag := 8 : Out }
    else { val := b % 2 ^ (32 * n), tag := 15 }
  .ok ((s.putOut h z.d z.V out).drew true)

/-- RNGSET (R203). -/
def rngsetEffect (h : Hd) (z : ZF) (s : State) : R State :=
  if s.acts h then
    let n := s.cb.kPair z.b.num % 2 ^ 61
    let k := BitVec.ofNat 64 (s.cb.kPair z.a.num)
    .ok (s.modCb fun b => { b.setK z.d.num (BitVec.ofNat 32 n) with genKey := k, genCtr := n })
  else .ok s

/-- RNGSKIP (R203). -/
def rngskipEffect (h : Hd) (z : ZF) (s : State) : R State :=
  if s.acts h then
    let n := s.cb.genCtr + s.cb.kPair z.a.num
    if n ≥ 2 ^ 61 then trap Code.rngExhausted
    else .ok (s.modCb fun b => { b.setK z.d.num (BitVec.ofNat 32 n) with genCtr := n })
  else .ok s

/-- FXRD (R204). -/
def fxrdEffect (h : Hd) (z : ZF) (s : State) : R State := do
  s.sIn z.d
  .ok (s.putD (s.part h) z.d (fun t => (s.th t).fx.zeroExtend 32) 9)

/-- FXCLR (R204). -/
def fxclrEffect (h : Hd) (z : ZF) (s : State) : R State :=
  let keep : BitVec 8 := ~~~(z.opx.zeroExtend 8)
  .ok (eachT (s.part h) s fun s t => s.modTh t fun x => { x with fx := x.fx &&& keep })

/-- FADD (R183). -/
def execFadd (h : Hd) (f : ZF) (s : State) : Host.Outcome State Fault Refusal := issue s (fltRow 2 false (xAdd f.rm) h f)
/-- FADD with an immediate (R190). -/
def execFaddI (h : Hd) (f : IF) (s : State) : Host.Outcome State Fault Refusal := issue s (fltImm xAdd h f)
/-- FSUB (R183). -/
def execFsub (h : Hd) (f : ZF) (s : State) : Host.Outcome State Fault Refusal := issue s (fltRow 2 false (xSub f.rm) h f)
/-- FMUL (R183). -/
def execFmul (h : Hd) (f : ZF) (s : State) : Host.Outcome State Fault Refusal := issue s (fltRow 2 false xMul h f)
/-- FMUL with an immediate (R190). -/
def execFmulI (h : Hd) (f : IF) (s : State) : Host.Outcome State Fault Refusal := issue s (fltImm (fun _ => xMul) h f)
/-- FFMA (R183, R184). -/
def execFfma (h : Hd) (f : ZF) (s : State) : Host.Outcome State Fault Refusal := issue s (fltRow 3 false (xFma f.rm) h f)
/-- FFMS. -/
def execFfms (h : Hd) (f : ZF) (s : State) : Host.Outcome State Fault Refusal := issue s (fltRow 3 false (xFms f.rm) h f)
/-- FFNM. -/
def execFfnm (h : Hd) (f : ZF) (s : State) : Host.Outcome State Fault Refusal := issue s (fltRow 3 false (xFnm f.rm) h f)
/-- FMIN (R185). -/
def execFmin (h : Hd) (f : ZF) (s : State) : Host.Outcome State Fault Refusal := issue s (pickRow 2 (xMinmax false) h f)
/-- FMAX (R185). -/
def execFmax (h : Hd) (f : ZF) (s : State) : Host.Outcome State Fault Refusal := issue s (pickRow 2 (xMinmax true) h f)
/-- FABS (R188). -/
def execFabs (h : Hd) (f : ZF) (s : State) : Host.Outcome State Fault Refusal := issue s (signRow 1 sAbs h f)
/-- FNEG (R188). -/
def execFneg (h : Hd) (f : ZF) (s : State) : Host.Outcome State Fault Refusal := issue s (signRow 1 sNeg h f)
/-- FCMP (R186). -/
def execFcmp (h : Hd) (f : ZF) (s : State) : Host.Outcome State Fault Refusal := issue s (fcmpEffect h f)
/-- FCLAMP (R187). -/
def execFclamp (h : Hd) (f : ZF) (s : State) : Host.Outcome State Fault Refusal := issue s (pickRow 3 xClamp h f)
/-- FRCP (R191). -/
def execFrcp (h : Hd) (f : ZF) (s : State) : Host.Outcome State Fault Refusal :=
  issue s (fltRow 1 (f.opx.getLsbD 0) (xFun .rcp) h f)
/-- FRSQ (R191). -/
def execFrsq (h : Hd) (f : ZF) (s : State) : Host.Outcome State Fault Refusal :=
  issue s (fltRow 1 (f.opx.getLsbD 0) (xFun .rsq) h f)
/-- FSQRT (R191). -/
def execFsqrt (h : Hd) (f : ZF) (s : State) : Host.Outcome State Fault Refusal := issue s (fltRow 1 false (xFun .sqrt) h f)
/-- FDIV (R183). -/
def execFdiv (h : Hd) (f : ZF) (s : State) : Host.Outcome State Fault Refusal := issue s (fltRow 2 false xDiv h f)
/-- FEXP2 (R191). -/
def execFexp2 (h : Hd) (f : ZF) (s : State) : Host.Outcome State Fault Refusal :=
  issue s (fltRow 1 (f.opx.getLsbD 0) (xFun .exp2) h f)
/-- FLOG2 (R191). -/
def execFlog2 (h : Hd) (f : ZF) (s : State) : Host.Outcome State Fault Refusal :=
  issue s (fltRow 1 (f.opx.getLsbD 0) (xFun .log2) h f)
/-- FSIN (R191). -/
def execFsin (h : Hd) (f : ZF) (s : State) : Host.Outcome State Fault Refusal :=
  issue s (fltRow 1 (f.opx.getLsbD 0) (xFun .sin) h f)
/-- FCOS (R191). -/
def execFcos (h : Hd) (f : ZF) (s : State) : Host.Outcome State Fault Refusal :=
  issue s (fltRow 1 (f.opx.getLsbD 0) (xFun .cos) h f)
/-- FSIGN (R188). -/
def execFsign (h : Hd) (f : ZF) (s : State) : Host.Outcome State Fault Refusal :=
  issue s (signRow 2 (sSign (f.opx.getLsbD 0)) h f)
/-- RNGDRAW (R201). -/
def execRngdraw (h : Hd) (f : ZF) (s : State) : Host.Outcome State Fault Refusal := issue s (rngdrawEffect h f)
/-- RNGSET (R203). -/
def execRngset (h : Hd) (f : ZF) (s : State) : Host.Outcome State Fault Refusal := issue s (rngsetEffect h f)
/-- RNGSKIP (R203). -/
def execRngskip (h : Hd) (f : ZF) (s : State) : Host.Outcome State Fault Refusal := issue s (rngskipEffect h f)
/-- FXRD (R204). -/
def execFxrd (h : Hd) (f : ZF) (s : State) : Host.Outcome State Fault Refusal := issue s (fxrdEffect h f)
/-- FXCLR (R204). -/
def execFxclr (h : Hd) (f : ZF) (s : State) : Host.Outcome State Fault Refusal := issue s (fxclrEffect h f)

end Sys2Proof.Machine
end

