-- ==== Sys2Proof/Machine/Convert.lean ====
section
/-! DEFINITION. Conversion and codebook instructions (R212, R213, R215 to R222) and writing through a
format slot (R109). -/

namespace Sys2Proof.Machine

open Sys2Proof.ZF

/-! ### Writing through a slot (R109) -/

/-- A bound of a slot as an exact value. -/
def Fs.bound (f : Fs) (b : Nat) : XV := if Ty.isInt f.ty then .ofInt (sext 32 b) else decodeF .f32 false b

/-- Hold a rounded value to the bounds, with SAT where it is clamped. DEDUCED, unsafe (log 25). -/
def clampTo (lo hi : XV) (v : XV) (enc : XV → Nat) (r : WithFx Nat) : WithFx Nat :=
  if v.cmp hi = .gt then (enc hi, r.2 ||| Fx.sat) else if v.cmp lo = .lt then (enc lo, r.2 ||| Fx.sat) else r

/-- Round into efmt and clamp: a ±∞ or overflowed result goes to the bound on its own side with SAT, and
OF is not set. DEDUCED, unsafe (log 25). -/
def slotRound (f : Fs) (rm : Rm) (ftz : Bool) (w rnd : Nat) (x : XV) : WithFx Nat :=
  let r := roundT f.ty rm ftz w rnd none x
  if !f.sate then r
  else
    let lo := f.bound f.smin
    let hi := f.bound f.smax
    match fmtOf f.ty with
    | some fm =>
      let enc := fun v => (roundF fm .rz false 16 0 v).1
      if x.isNan then r
      else if r.2 / Fx.of % 2 = 1 || x == .inf false || x == .inf true then (enc (if x.negative then lo else hi), Fx.sat)
      else clampTo lo hi (decodeF fm false r.1) enc r
    | none =>
      let enc := fun v => match v with
        | .num s n _ _ => wrap f.ty.width (if s then -(n : Int) else n)
        | _ => 0
      if x.isNan then clampTo lo hi (.ofInt 0) enc r
      else if r.2 = Fx.iv then (enc (if x.negative then lo else hi), Fx.sat)
      else clampTo lo hi (.ofInt (intOf f.ty r.1)) enc r

/-! ### CVT (R216) -/

/-- CVT. -/
def cvtEffect (h : Hd) (z : ZF) (s : State) : R State := do
  let sty := z.sty
  let a : Src := { f := z.a, v := z.V, want := .ty sty, ftz := true }
  let draw := z.rm == .sr
  s.regIn z.d z.V
  s.checkSrcs (s.part h) [a]
  s.canDraw draw
  let ns := z.count sty.width
  let nd := z.count z.ty.width
  let k := min ns nd
  let w := z.ty.width
  let out := fun t =>
    let x := s.srcElems a t
    let blk := if draw then s.block t else 0
    let rs := (List.range k).map fun i =>
      roundT z.ty z.rm s.ftz (srWidth k) (elem blk (srWidth k) i) (if Ty.isInt sty then some sty.width else none)
        (decodeX sty s.ftz (x.1.getD (i + if z.hiA then k else 0) 0))
    let vs := rs.map (·.1)
    let old := elems (s.regOf { f := z.d, v := z.V, want := .bits w } t).1 w nd
    let els := if z.hiC then old.take k ++ vs ++ old.drop (2 * k) else vs
    { val := ofElems w els, fl := orAll (rs.map (·.2)) ||| x.2, tag := Sys2Proof.Ty.tag z.ty : Out }
  .ok ((s.putOut h z.d z.V out).drew draw)

/-! ### CVTS (R217) -/

/-- The slot number and group of CVTS. -/
def cvtsSlot (z : ZF) : Nat := z.ty.code
def cvtsGroup (z : ZF) : Nat := z.opx.toNat % 8

/-- The canonical NaN of an element format, or +0. -/
def slotNan (f : Fs) : Nat := match fmtOf f.ty with
  | some fm => fm.nan
  | none => 0

/-- One encoded element. -/
def encElem (f : Fs) (rm : Rm) (ftz : Bool) (w rnd : Nat) (a xs : XV) : WithFx Nat :=
  if xs.isZero then (0, 0)
  else match xs with
  | .num false _ _ _ => slotRound f rm ftz w rnd (a.div xs).1
  | _ => (slotNan f, Fx.iv)

def cvtsEncEffect (h : Hd) (z : ZF) (s : State) : R State := do
  let f := s.fslot (cvtsSlot z)
  let g := cvtsGroup z
  let w := f.width
  let a := srcA z (.ty .f32)
  let b := { srcB z (.ty .f32) with v := false }
  let draw := z.rm == .sr
  need (f.efmt ≠ 7 && f.efmt ≠ 8 && g < 256 / (8 * w)) Code.illegalInstruction
  s.vIn z.d
  s.checkSrcs (s.part h) [a, b]
  s.canDraw draw
  let out := fun t =>
    let x := s.srcElems a t
    let y := s.srcElems b t
    let blk := if draw then s.block t else 0
    let xs := decodeF .f32 s.ftz (e0 y.1)
    let rs := (List.range 8).map fun i =>
      encElem f z.rm s.ftz 16 (elem blk 16 i) (decodeF .f32 s.ftz (x.1.getD i 0)) xs
    let old := elems (s.regOf { f := z.d, v := true, want := .bits w } t).1 w (256 / w)
    { val := ofElems w (old.take (8 * g) ++ rs.map (·.1) ++ old.drop (8 * g + 8)),
      fl := orAll (rs.map (·.2)) ||| x.2 ||| y.2, tag := BitVec.ofNat 4 (cvtsSlot z) : Out }
  .ok ((s.putOut h z.d true out).drew draw)

/-- CVTS decode; the scale +0 is that of an NQ4 block of code 0, every element of which is +0 (R92); of an entry with
several values the first is y_i. DEDUCED, unsafe (log 101). DEDUCED, unsafe (log 21). -/
def cvtsDecEffect (h : Hd) (z : ZF) (s : State) : R State := do
  let f := s.fslot (cvtsSlot z)
  let g := cvtsGroup z
  let w := f.width
  let book := f.efmt = 7 || f.efmt = 8
  let a := srcA z (.slot (cvtsSlot z))
  let b := { srcB z (.ty .f32) with v := false }
  let draw := z.rm == .sr
  need (g < 256 / (8 * w)) Code.illegalInstruction
  s.vIn z.d
  ready (!(book && s.cbBusy s.cc f.cbank))
  s.checkSrcs (s.part h) [a, b]
  let idx := fun t => (List.range 8).map fun i => (f.cbank, (s.srcElems a t).1.getD (8 * g + i) 0)
  if book then s.idxCheck (s.part h) idx else .ok ()
  s.canDraw draw
  let val := fun x => if book then decodeF .f16 s.ftz (((s.cbEntry s.cc s.cwg.launch f.cbank x).getD []).headD 0) else decodeX f.ty s.ftz x
  let out := fun t =>
    let x := s.srcElems a t
    let y := s.srcElems b t
    let blk := if draw then s.block t else 0
    let xs := decodeF .f32 s.ftz (e0 y.1)
    let none_ := f.efmt = 7 && xs == .zero false
    let rs := (List.range 8).map fun i =>
      roundF .f32 z.rm s.ftz 16 (elem blk 16 i) (if none_ then .zero false else (val (x.1.getD (8 * g + i) 0)).mul xs)
    { val := ofElems 32 (rs.map (·.1)), fl := orAll (rs.map (·.2)) ||| x.2 ||| y.2, tag := 8 : Out }
  .ok ((s.putOut h z.d true out).drew draw)

/-! ### PACK, UNPACK and tags (R218, R219) -/

def State.vBits (s : State) (f : RF) (t : Nat) : Nat := (s.regOf { f := f, v := true, want := .bits 32 } t).1

/-- A move of whole v registers read as bits. -/
def packRow (tag : BitVec 4) (fn : Nat → Nat → Nat) (h : Hd) (z : ZF) (s : State) : R State := do
  s.vIn z.d
  s.vIn z.a
  s.vIn z.b
  .ok (s.putOut h z.d true fun t => { val := fn (s.vBits z.a t) (s.vBits z.b t), tag := tag })

def pack4 (a b : Nat) : Nat :=
  ofElems 4 ((elems a 8 32).map (· % 16) ++ (elems b 8 32).map (· % 16))
def unpack4 (hi : Bool) (a : Nat) : Nat := ofElems 8 (elems (if hi then a / 2 ^ 128 else a) 4 32)

/-- TAGSET (R219): the tag alone. -/
def tagsetEffect (h : Hd) (z : ZF) (s : State) : R State := do
  s.regIn z.d z.V
  .ok (s.putOut h z.d z.V fun t => { val := (s.regOf { f := z.d, v := z.V, want := .bits 32 } t).1, tag := BitVec.ofNat 4 z.x30 })

/-- TAGRD. -/
def tagrdEffect (h : Hd) (z : ZF) (s : State) : R State := do
  s.sIn z.d
  s.regIn z.a z.V
  .ok (s.putOut h z.d false fun t => { val := (s.regOf { f := z.a, v := z.V, want := .bits 32 } t).2.toNat, tag := 9 })

/-! ### CBX, QNT and SCLQ (R220 to R222) -/

/-- CBX (R220): an expansion with a destination; rm rounds BF16. DEDUCED, unsafe (log 27). -/
def cbxEffect (h : Hd) (z : ZF) (s : State) : R State := do
  let a := srcA z (.ty z.ty)
  let draw := z.rm == .sr
  s.regIn z.d z.V
  s.checkSrcs (s.part h) [a]
  s.canDraw draw
  let n := s.cnt a
  let out := fun t =>
    let blk := if draw then s.block t else 0
    let es := s.expand z.cbk.toNat (s.regOf a t).1 n a.cbHi
    let rs := (es.zip (List.range n)).map fun p =>
      roundT z.ty z.rm s.ftz (srWidth n) (elem blk (srWidth n) p.2) none (decodeF .f16 s.ftz p.1)
    { val := ofElems z.ty.width (rs.map (·.1)), fl := orAll (rs.map (·.2)), tag := Sys2Proof.Ty.tag z.ty : Out }
  .ok ((s.putOut h z.d z.V out).drew draw)

/-- The candidates of QNT (R221): index and value, NaN entries skipped. -/
def State.candidates (s : State) (n : Nat) : List (Nat × XV) :=
  (List.range (if (s.bank s.cc n).iw = 0 then 16 else 256)).filterMap fun i =>
    match s.cbEntry s.cc s.cwg.launch n i with
    | some (e :: _) => let v := decodeF .f16 false e; if v.isNan then none else some (i, v)
    | _ => none

/-- The first candidate that no other is better than. -/
def bestOf (better : XV → XV → Bool) : List (Nat × XV) → Nat
  | [] => 0
  | c :: cs => (cs.foldl (fun m x => if better x.2 m.2 then x else m) c).1

/-- The index chosen for an element (R221): of an infinite x with a bad or a zero x_s the x_s decides.
DESIGN CHOICE, unsafe (log 118). -/
def quantise (cs : List (Nat × XV)) (x xs : XV) : WithFx Nat :=
  let low := (cs.headD (0, XV.zero false)).1
  let bad := x.isNan || (match xs with
    | .num s n _ _ => s && n ≠ 0
    | _ => true)
  if bad then (low, Fx.iv)
  else if xs.isZero then (low, 0)
  else match x with
    | .inf false => (bestOf (fun a b => a.cmp b == .gt) cs, 0)
    | .inf true => (bestOf (fun a b => a.cmp b == .lt) cs, 0)
    | _ =>
      let dist := fun v => (x.add false (xs.mul v).neg).abs
      (bestOf (fun a b => (dist a).cmp (dist b) == .lt) cs, 0)

/-- QNT (R221). DEDUCED, unsafe (log 26). -/
def qntEffect (h : Hd) (z : ZF) (s : State) : R State := do
  let n := z.cbk.toNat
  let b := s.bank s.cc n
  let g := z.opx.toNat % 8
  let a := { srcA z (.ty .f32) with cb := none }
  let sc := { srcB z (.ty .f32) with v := false, cb := none }
  s.vIn z.d
  ready (!s.cbBusy s.cc n)
  need (b.ew = 0 && g < (if b.iw = 0 then 8 else 4)) Code.illegalInstruction
  s.checkSrcs (s.part h) [a, sc]
  let m := s.part h
  let cs := s.candidates n
  if cs = [] && m ≠ 0 then .error (.trap { code := Code.invalidIndex, mask := m, d0 := n }) else .ok ()
  let w := if b.iw = 0 then 4 else 8
  .ok (s.putOut h z.d true fun t =>
    let x := s.srcElems a t
    let y := s.srcElems sc t
    let xs := decodeF .f32 false (e0 y.1)
    let rs := (List.range 8).map fun i => quantise cs (decodeF .f32 false (x.1.getD i 0)) xs
    let old := elems (s.vBits z.d t) w (256 / w)
    { val := ofElems w (old.take (8 * g) ++ rs.map (·.1) ++ old.drop (8 * g + 8)),
      fl := orAll (rs.map (·.2)) ||| x.2 ||| y.2, tag := 12 })

/-- T[j] = Round(2^(j/8), FP32, RN) (R92). -/
def scaleT (j : Nat) : Nat := (rn32 (exp2X false j 1 (-3))).1

/-- The exact S × T[j] × 2^q of a code (R92); code 0 is +0. -/
def nq4Exact (sup : XV) (e : Nat) : XV :=
  if e = 0 then XV.zero false
  else
    let m : Int := e - 255
    let q := m / 8
    let j := (m - 8 * q).toNat
    (sup.mul (decodeF .f32 false (scaleT j))).mul (.num false 1 1 q)

/-- The decoded block scale b of a code, with flags. -/
def nq4Scale (sup : XV) (e : Nat) : WithFx Nat := rn32 (nq4Exact sup e)

/-- The smallest code from e on whose scale reaches a. -/
def codeFrom (sup a : XV) : Nat → Nat → Nat
  | 0, e => e
  | n + 1, e => if (decodeF .f32 false (nq4Scale sup e).1).cmp a == .lt then codeFrom sup a n (e + 1) else e

/-- SCLQ.enc of one element (R222, R93): of a bad a with a bad S the S decides. DESIGN CHOICE, unsafe (log 118). -/
def sclqEnc (a sup : XV) : WithFx Nat :=
  match sup with
  | .num false (_ + 1) _ _ =>
    match a with
    | .num _ 0 _ _ => (0, 0)
    | .num _ _ _ _ => if a.abs.cmp sup == .gt then (255, Fx.sat) else (codeFrom sup a.abs 254 1, 0)
    | _ => (255, Fx.iv)
  | _ => (0, Fx.iv)

/-- SCLQ.dec of one element. -/
def sclqDec (a : Nat) (sup : XV) : WithFx Nat :=
  if a ≥ 256 then (Fmt.f32.nan, Fx.iv) else nq4Scale sup a

/-- SCLQ (R222): S comes from an s or k register; under CONVERT a mismatched a of SCLQ.dec becomes a natural number.
DEDUCED, unsafe (log 26). DESIGN CHOICE, unsafe (log 123). -/
def sclqEffect (dec : Bool) (h : Hd) (z : ZF) (s : State) : R State := do
  let a := srcA z (.ty (if dec then .n32 else .f32))
  let b := { srcB z (.ty .f32) with v := false }
  s.regIn z.d z.V
  s.checkSrcs (s.part h) [a, b]
  let n := s.cnt a
  .ok (s.putOut h z.d z.V fun t =>
    let x := s.srcElems a t
    let y := s.srcElems b t
    let sup := decodeF .f32 false (e0 y.1)
    let rs := (List.range n).map fun i =>
      let e := x.1.getD i 0
      if dec then sclqDec e sup else sclqEnc (decodeF .f32 false e) sup
    { val := ofElems 32 (rs.map (·.1)), fl := orAll (rs.map (·.2)) ||| x.2 ||| y.2, tag := if dec then 8 else 9 })

/-! ### CBLD and CBSYNC (R212, R213) -/

/-- A byte as the codebook loader reads it: a store that has not yet reached its home slice may be missed (R213).
DESIGN CHOICE, safe (log 108). -/
def State.cbByte (s : State) (loc : Nat) (b : Byte) : Byte :=
  match s.ops.findSome? fun o => look o.old loc with
  | some v => if Config.stale s.sched.clk 4096 loc then v else b
  | none => b

/-- The entry a CBLD reads through a part of its range. -/
def State.cbRead (s : State) (p : Piece) : Except Fail Nat := do
  let bs ← s.readPiece s.cctx none p
  .ok (natOfBytes (match p.x.ap with
    | some _ => bs
    | none => (bs.zip (List.range 16)).map fun x => s.cbByte (p.x.loc + x.2) x.1))

/-- The bank once entries from `first` on have been read: an uncorrectable one is left invalid. -/
def Bank.filled (b : Bank) (first : Nat) (es : List (Except Fail Nat)) : Bank :=
  (es.zip (List.range es.length)).foldl (fun b p => match p.1 with
    | .ok v => { b with entries := put b.entries (first + p.2) v, valid := setBit b.valid (first + p.2) true }
    | .error _ => { b with valid := setBit b.valid (first + p.2) false }) b

/-- Whether the CODEBOOK_CONFLICT of R207 stands against this launch: a role workgroup that has exited early (R362) is
resident no longer. DESIGN CHOICE, unsafe (log 124). -/
def State.cbTaken (s : State) (b : Bank) : Bool :=
  match b.owner with
  | some o => o ≠ s.cwg.launch && s.liveWgs (fun g => g.core == s.cc && g.launch == o) ≠ []
  | none => false

/-- CBLD (R212): a failing part of the range names its own address. DEDUCED, unsafe (log 29). -/
def cbldEffect (h : Hd) (f : TF) (s : State) : R State := do
  let c ← s.flagOf h false
  let va := s.cb.kPair f.a.num
  let kb := (s.cb.getK f.b.num).toNat
  let first := kb % 256
  let cnt := bits kb 16 8
  let n := f.x 0 3
  need (va % 16 == 0 && 1 ≤ cnt && cnt ≤ 256 && first + cnt ≤ 256 && kb / 2 ^ 17 == 0) Code.illegalInstruction
  if !s.acts h then s.offFence f.ord c
  else do
    let b := s.bank s.cc n
    ready (b.loading = 0)
    need (!s.cbTaken b) Code.codebookConflict s.cb.active
    let at_ := fun i => va + 16 * i
    let pieces ← (List.range cnt).mapM fun i => match s.xl s.cctx (at_ i) .read with
      | .error e => .error (.page (at_ i) e s.cb.active)
      | .ok x => (.ok { va := at_ i, x := x, n := 16 } : R Piece)
    s.xlFeatures 1 fun _ => pieces.map (·.x)
    match pieces.find? (s.pieceHazard s.cctx s.cwg.launch) with
    | some p => .error (.trap { code := Code.detReadHazard, mask := s.cb.active, addr := p.va })
    | none => do
      let es := pieces.map s.cbRead
      let stop : Option Fail := es.findSome? fun e => match e with
        | .error (.data _) | .ok _ => none
        | .error x => some x
      match stop with
      | some (.page a c) => .error (.page a c s.cb.active)
      | some (.feature n) => .error (.trap { code := Code.featureDisabled, feature := n })
      | _ => do
        let keep := b.owner == some s.cwg.launch && b.ew == f.x 3 2 && b.iw == f.x 5 1
        let b := { b with valid := if keep then b.valid else 0, ew := f.x 3 2, iw := f.x 5 1, owner := some s.cwg.launch, loading := 1 }
        let b := b.filled first es
        let bad := (List.range cnt).filter fun i => match es[i]? with
          | some (.error _) => true
          | _ => false
        let flt := match bad with
          | [] => none
          | i :: _ => some { code := Code.memoryDataError, addr := at_ i, mask := s.cb.active : FaultRec }
        let cond := (s.condOf false 1 fun _ => pieces.flatMap (s.runsOf s.cctx)).masked s.cb.active
        let s := s.modCore s.cc fun k => { k with banks := put k.banks n b }
        let s := pieces.foldl (fun s p => (s.fillTlb s.cctx p.va).afterEngine s.cctx p) s
        let s := (s.countLost bad fun i => es.getD i (.ok 0)).acquire s.cc f.ord.acqAt
        .ok (s.later c .engineWrite [] flt (.bank s.cc n va first cond.remotes))

/-- CBSYNC (R213): it stalls while a store of the beam is on its way to memory. -/
def cbsyncEffect (s : State) : R State := do
  ready (!(s.opsOf s.sched.cur).any fun o => o.kind == .store && o.old ≠ [])
  .ok s

/-- CVT (R216). -/
def execCvt (h : Hd) (f : ZF) (s : State) : Host.Outcome State Fault Refusal := issue s (cvtEffect h f)
/-- CVTS encode (R217). -/
def execCvtsEnc (h : Hd) (f : ZF) (s : State) : Host.Outcome State Fault Refusal := issue s (cvtsEncEffect h f)
/-- CVTS decode (R217). -/
def execCvtsDec (h : Hd) (f : ZF) (s : State) : Host.Outcome State Fault Refusal := issue s (cvtsDecEffect h f)
/-- PACK.6 (R218). -/
def execPack6 (h : Hd) (f : ZF) (s : State) : Host.Outcome State Fault Refusal := issue s (packRow 15 (fun a _ => pack6 a 8) h f)
/-- PACK.4 (R218). -/
def execPack4 (h : Hd) (f : ZF) (s : State) : Host.Outcome State Fault Refusal := issue s (packRow 12 pack4 h f)
/-- UNPACK.6 (R218). -/
def execUnpack6 (h : Hd) (f : ZF) (s : State) : Host.Outcome State Fault Refusal :=
  issue s (packRow 15 (fun a _ => unpack6 (a % 2 ^ 192) 8) h f)
/-- UNPACK.4 (R218). -/
def execUnpack4 (h : Hd) (f : ZF) (s : State) : Host.Outcome State Fault Refusal :=
  issue s (packRow 14 (fun a _ => unpack4 f.hiA a) h f)
/-- TAGSET (R219). -/
def execTagset (h : Hd) (f : ZF) (s : State) : Host.Outcome State Fault Refusal := issue s (tagsetEffect h f)
/-- TAGRD (R219). -/
def execTagrd (h : Hd) (f : ZF) (s : State) : Host.Outcome State Fault Refusal := issue s (tagrdEffect h f)
/-- CBX (R220). -/
def execCbx (h : Hd) (f : ZF) (s : State) : Host.Outcome State Fault Refusal := issue s (cbxEffect h f)
/-- QNT (R221). -/
def execQnt (h : Hd) (f : ZF) (s : State) : Host.Outcome State Fault Refusal := issue s (qntEffect h f)
/-- SCLQ.enc (R222). -/
def execSclqEnc (h : Hd) (f : ZF) (s : State) : Host.Outcome State Fault Refusal := issue s (sclqEffect false h f)
/-- SCLQ.dec (R222). -/
def execSclqDec (h : Hd) (f : ZF) (s : State) : Host.Outcome State Fault Refusal := issue s (sclqEffect true h f)
/-- CBLD (R212). -/
def execCbld (h : Hd) (f : TF) (s : State) : Host.Outcome State Fault Refusal := issue s (cbldEffect h f)
/-- CBSYNC (R213). -/
def execCbsync (_ : Hd) (_ : ZF) (s : State) : Host.Outcome State Fault Refusal := issue s cbsyncEffect

end Sys2Proof.Machine
end

