-- ==== Sys2Proof/Machine/Place.lean ====
section
/-! DEFINITION. What a core has to give and how workgroups come to stand on it: the fit of R129, the
initial state of beams (R124, R345, R359), and the switch requests of R135. -/

namespace Sys2Proof.Machine

/-! ### A core's resources (R19, R20, R129) -/

/-- What is in use on a core: beam slots, thread slots with their bytes, scratchpad ranges, and the scratchpad
bytes they take. -/
structure CoreUse where
  beams : List Nat
  slots : List (Nat × Nat)
  spad : List (Nat × Nat)
  bytes : Nat
  deriving DecidableEq, Repr

/-- Bytes of a thread slot (R19). -/
def slotBytes (nv ns : Nat) : Nat := 32 * nv + 4 * ns

/-- Scratchpad bytes of a placed workgroup with its save region. -/
def Wg.spadTotal (g : Wg) : Nat := roundUp (g.spadSize + g.regionSize) 4096

/-- The budget of a workgroup that a hold is for. -/
def State.allocVar (s : State) (l : Nat) (a : WgAlloc) : Variant :=
  ((s.launch l).obj.variants[a.variant]?).getD { nv := 64, ns := 64, beams := 1, spad := 0 }

/-- Slots in use and slots held for a switch: one that is both needs the larger of its sizes.
DEDUCED, unsafe (log 49). -/
def joinSlots (own held : List (Nat × Nat)) : List (Nat × Nat) :=
  (own.map fun x => (x.1, max x.2 (((held.find? fun y => y.1 == x.1).map (·.2)).getD 0)))
    ++ held.filter fun y => !own.any fun x => x.1 == y.1

/-- What the beams, threads and workgroups of a core use, with the holds of switch requests. -/
def State.placedUse (s : State) (core : Nat) : CoreUse :=
  let gs := (s.wgs.filter fun g => g.2.core == core && !g.2.freed).map (·.2)
  let sw := gs.filterMap fun g => g.swHold.map fun h => (g, h)
  let vs := fun (g : Wg) => ((s.launch g.launch).obj.variants[bits g.swreq.toNat 2 1]?).getD { nv := g.nv, ns := g.ns, beams := 1, spad := 0 }
  { beams := ((s.beams.filter fun b => coreOf b.1 == core).map fun b => b.1 % 64) ++ sw.flatMap fun p => p.2.beams,
    slots := joinSlots
      ((s.threads.filter fun t => t.1 / 512 == core).map fun t =>
        let g := s.wg t.2.wg
        (t.1 % 512, slotBytes g.nv g.ns))
      (sw.flatMap fun p => p.2.slots.map fun sl => (sl, slotBytes (vs p.1).nv (vs p.1).ns)),
    spad := gs.map (fun g => (g.spadBase, g.spadTotal)) ++ sw.map fun p => (p.2.spadBase, p.2.spadSize),
    bytes := (gs.map fun g => max g.spadTotal ((g.swHold.map (·.spadSize)).getD 0)).foldl (· + ·) 0 }

/-- What the tentative holds of a launch use on a core. -/
def State.heldUse (s : State) (l : Nat) (hs : List WgAlloc) (core : Nat) : CoreUse :=
  let hs := hs.filter fun a => a.core == core
  let need := fun (a : WgAlloc) => spadNeed (s.trapBase (s.launch l).ctx) (s.allocVar l a).spad a.beams.length
  { beams := hs.flatMap (·.beams),
    slots := hs.flatMap fun a => a.slots.map fun sl => (sl, slotBytes (s.allocVar l a).nv (s.allocVar l a).ns),
    spad := hs.map fun a => (a.base, need a),
    bytes := (hs.map need).foldl (· + ·) 0 }

def CoreUse.add (x y : CoreUse) : CoreUse :=
  { beams := x.beams ++ y.beams, slots := x.slots ++ y.slots, spad := x.spad ++ y.spad, bytes := x.bytes + y.bytes }

/-- What is in use with the holds of these launches. -/
def State.useWith (s : State) (core : Nat) (hs : List (Nat × List WgAlloc)) : CoreUse :=
  hs.foldl (fun u h => u.add (s.heldUse h.1 h.2 core)) (s.placedUse core)

def State.allHolds (s : State) : List (Nat × List WgAlloc) := s.launches.map fun l => (l.1, l.2.holds)

/-- The lowest free thread slots of a bank, if it has room for n of a size. DEDUCED, unsafe (log 49). -/
def CoreUse.bankSlots (u : CoreUse) (i n size : Nat) : Option (List Nat) :=
  let used := u.slots.filter fun x => x.1 % 8 == i
  let bytes := (used.map (·.2)).foldl (· + ·) 0
  let free := ((List.range 64).map fun j => i + 8 * j).filter fun sl => !used.any fun x => x.1 == sl
  if bytes + n * size ≤ 65536 ∧ n ≤ free.length then some (free.take n) else none

/-- A range meets no other. -/
def CoreUse.clear (u : CoreUse) (b size : Nat) : Bool :=
  u.spad.all fun x => x.2 == 0 || size == 0 || b + size ≤ x.1 || x.1 + x.2 ≤ b

/-- The lowest place for a scratchpad range, where a limit leaves so many bytes free (R129).
DESIGN CHOICE, safe (log 109). -/
def CoreUse.spadBase (u : CoreUse) (size limit : Nat) : Option Nat :=
  if limit < u.bytes + size then none
  else ((0 :: u.spad.map fun x => x.1 + x.2).filter fun b => u.clear b size).foldl (fun m b => match m with
    | none => some b
    | some a => some (min a b)) none

/-- Beam slots, thread slots beam by beam with thread t in bank t, and a scratchpad place for a budget:
none where it does not fit (R129). DEDUCED, unsafe (log 49). -/
def CoreUse.fit (u : CoreUse) (nv ns beams size limit sresv : Nat) : Option (List Nat × List Nat × Nat) :=
  let free := (List.range 64).filter fun i => !u.beams.contains i
  let banks := (List.range 8).map fun i => u.bankSlots i beams (slotBytes nv ns)
  match u.spadBase size limit with
  | none => none
  | some base =>
    if free.length < beams + sresv || banks.any (·.isNone) then none
    else some (free.take beams,
      (List.range beams).flatMap fun b => (List.range 8).map fun i => (((banks.getD i none).getD []).getD b 0), base)

/-- SPARE_MAP of a core's row. -/
def spareReg (core : Nat) : Nat := 0x510 + 8 * (core % 32 / 16) + core / 32

/-- The physical column of a core (R14). -/
def State.physCol (s : State) (core : Nat) : Nat :=
  let m := (s.reg (spareReg core)).toNat
  let c := core % 16
  if bit m 5 && bits m 4 0 ≤ c then c + 1 else c

/-- A fenced column of a core's row, as the state keeps those that SPARE_MAP has no room for. -/
def fenceKey (core col : Nat) : Nat := 32 * (spareReg core - 0x510) + col

/-- The core stands in a fenced column: the dispatcher treats it as always occupied (R476, R477). -/
def State.coreFenced (s : State) (core : Nat) : Bool :=
  let m := (s.reg (spareReg core)).toNat
  (bit m 11 && bits m 10 6 == s.physCol core) || s.fencedCols.contains (fenceKey core (s.physCol core))

/-- A core with nothing placed on it (R246). -/
def State.emptyCore (s : State) (core : Nat) : Bool :=
  !(s.beams.any fun b => coreOf b.1 == core) && !(s.wgs.any fun g => g.2.core == core && !g.2.freed)

/-- The split of R246 lets a context's workgroup stand on the core, beside what stands there and what these
reservations hold. -/
def State.splitOk (s : State) (core ctx : Nat) (hs : List (Nat × List WgAlloc)) : Bool :=
  !s.coreFenced core && (s.emptyCore core || (s.core core).split == s.split ctx)
    && hs.all fun h => s.split (s.launch h.1).ctx == s.split ctx || !h.2.any fun a => a.core == core

/-- The first variant that fits beside these holds, of those allowed (R129). -/
def State.fitVariant (s : State) (l core : Nat) (hs : List (Nat × List WgAlloc)) (fixed : Option Nat) :
    Option (Nat × List Nat × List Nat × Nat) :=
  let x := s.launch l
  let tb := s.trapBase x.ctx
  let u := s.useWith core hs
  if !s.splitOk core x.ctx hs then none
  else (List.range x.obj.variants.length).findSome? fun i =>
    if fixed.any (· ≠ i) then none
    else (x.obj.variants[i]?).bind fun v =>
      (u.fit v.nv v.ns v.beams (spadNeed tb v.spad v.beams) (65536 * s.split x.ctx) x.lrec.sresv).map fun r => (i, r)

/-! ### Creating a workgroup -/

/-- What the beams of a new workgroup start with. -/
structure Birth where
  pc : Nat
  /-- k registers by number -/
  k : List (Nat × Nat)
  /-- the generator key of beam b -/
  key : Nat → Nat
  /-- TAGMODE -/
  tag : Bool
  /-- the threads of beam b: identity, join reference, s registers with their tags; none for a place that
  is not live -/
  threads : Nat → Nat → Option (Nat × Option JoinRef × List (W32 × BitVec 4))

/-- A workgroup comes to a core: whatever its beams are to see at their first word, no older line of the L1 hides
(R289, R359). An empty core takes the context's split, and its scratchpad reads zero (R246).
DEDUCED, unsafe (log 47). -/
def State.claimCore (s : State) (core ctx : Nat) : State :=
  let s := { s with mem := s.mem.dropCache core }
  if s.emptyCore core then
    let s := s.modCore core fun c => { c with split := s.split ctx }
    { s with mem := { s.mem with
        scratch := clearRange s.mem.scratch (sramKey core 0) sramSpan,
        struck := s.mem.struck.filter fun w => w % 2 == 1 || sramCore (w / 2 * 32) ≠ core } }
  else s

/-- A thread of a new beam; a place that is not live keeps its slot (R21, R344). -/
def newThread (wg : Nat) : Option (Nat × Option JoinRef × List (W32 × BitVec 4)) → Thread
  | none => { alive := false, wg := wg }
  | some (ident, join, regs) =>
    regs.zipIdx.foldl (fun (th : Thread) (r : (W32 × BitVec 4) × Nat) => th.setS r.2 r.1.1 r.1.2)
      { ident := ident, join := join, wg := wg }

/-- One beam of a new workgroup, with a thread slot in each bank (R129). -/
def State.birthBeam (s : State) (core wg b slot : Nat) (slots : List Nat) (x : Birth) : State :=
  let bk := 64 * core + slot
  let (uid, s) := s.fresh
  let s := { s with threads := (List.range 8).foldl (fun (m : NMap Thread) t =>
      put m (512 * core + slots.getD t 0) (newThread wg (x.threads b t))) s.threads }
  let live := mask8 fun t => (x.threads b t).isSome
  let bm : Beam :=
    { uid := uid, wg := wg, b := b, pc := BitVec.ofNat 64 x.pc, age := uid,
      genKey := BitVec.ofNat 64 (x.key b), tagMode := x.tag, live := live, active := live,
      list := (List.range 8).map fun t => slots[t]? }
  let bm := x.k.foldl (fun bm p => bm.setK p.1 (BitVec.ofNat 32 p.2)) bm
  let bm := bm.setK 3 (bm.getK 3 + BitVec.ofNat 32 (256 * b))
  ((s.setBeam bk bm).bind bk).gate bk

/-- A workgroup with its beams in the given slots. -/
def State.birthWg (s : State) (core : Nat) (g : Wg) (beams slots : List Nat) (x : Birth) : State × Nat :=
  let ctx := (s.launch g.launch).ctx
  let s := s.claimCore core ctx
  let (id, s) := s.fresh
  let g := { g with core := core, placed := id, region := s.trapBase ctx ≠ 0, beams := beams.map (64 * core + ·) }
  let s := { s with wgs := put s.wgs id g }
  ((beams.zip (List.range beams.length)).foldl (fun s p => s.birthBeam core id p.2 p.1 (slots.drop (8 * p.2)) x) s, id)

/-- The launch's seed XOR a workgroup's number and the beam's index (R124). -/
def LRec.key (r : LRec) (n b : Nat) : Nat := r.seed ^^^ (n + b)

/-- The creation identity of a launch thread (R310). -/
def launchIdent (g w n : Nat) : Nat := g + 2 ^ 20 * w + 2 ^ 28 * n

/-- s0 of a thread, and nothing else (R124). -/
def firstS (b t : Nat) : List (W32 × BitVec 4) := [(BitVec.ofNat 32 (8 * b + t), 15)]

end Sys2Proof.Machine
end

