-- ==== Sys2Proof/Machine/Time.lean ====
section
/-! DEFINITION. The time unit: TIME, its own steps, and the trigger slots with TRIGARM and TRIGQ (R377 to
R382). -/

namespace Sys2Proof.Machine

def State.modTime (s : State) (f : TimeUnit → TimeUnit) : State := { s with time := f s.time }

/-- NOW as TIME returns it: 0 while VALID is 0 (R378). DEDUCED, unsafe (log 68). -/
def State.timeNow (s : State) : Nat := if s.time.valid then s.now % 2 ^ 64 else 0

/-- TIME (R378): the tick read is the one at issue.
DESIGN CHOICE, unsafe (log 9). DEDUCED, unsafe (log 68). -/
def timeEffect (h : Hd) (f : TF) (s : State) : R State := do
  let c ← s.counterOf h true
  s.sSpan f.d 2
  if f.d.isK && !s.acts h then .ok (s.later c .other [])
  else
    let lo := BitVec.ofNat 32 s.timeNow
    let hi := BitVec.ofNat 32 (s.timeNow / 2 ^ 32)
    let m := s.part h
    .ok (s.later c .other (match f.d with
      | .k n => [.k n.toNat lo, .k (n.toNat + 1) hi]
      | .t n => (bitsOf m).flatMap fun t => [.s (s.tkey t) n.toNat lo 15, .s (s.tkey t) (n.toNat + 1) hi 15]))

/-! ### Firing (R381) -/

def State.trig (s : State) (i : Nat) : Trig := (look s.time.trigs i).getD {}
def State.setTrig (s : State) (i : Nat) (x : Trig) : State := s.modTime fun u => { u with trigs := put u.trigs i x }

/-- A slot pushes its record: a queue that is full, disarmed, another context's or out of reach sets the dropped bit.
DEDUCED, unsafe (log 67). -/
def State.pushTrig (s : State) (i : Nat) (x : Trig) : State :=
  if s.queueTakes x.ctx x.queue then (s.pushEntry x.queue 0 x.record).notify
  else s.setTrig i { s.trig i with dropped := true }

/-- A slot fires: its pins rise, and its record is pushed, which wakes the device (R475). DEDUCED, unsafe (log 67). -/
def State.fireTrig (s : State) (i : Nat) : State :=
  let x := s.trig i
  let s := s.setTrig i { x with st := 2 }
  let s := if x.action = 2 ∨ x.action = 3 then
      s.modTime fun u => { u with pulses := u.pulses ++ ((List.range 4).filter (bit x.pins)).map fun p => (p, s.sched.clk + 2100 * x.width) }
    else s
  if x.action = 1 ∨ x.action = 3 then s.awake.pushTrig i x else s

/-- An armed slot whose time has come. -/
def State.due (s : State) (i : Nat) : Bool := (s.trig i).st == 1 && (s.trig i).t ≤ s.now

/-- Compare every armed slot with NOW, in ascending slot number. -/
def State.compareAll (s : State) : State :=
  (List.range 16).foldl (fun s i => if s.due i then s.fireTrig i else s) s

/-! ### TRIGARM and TRIGQ -/

/-- The limits of an action block (R380). -/
def blockOk (k0 k1 addr : Nat) : Bool :=
  let push := k0 % 2 == 1
  let pins := bit k0 1
  bits k0 7 6 == 0 && bits k0 31 24 == 0
    && (!pins || 1 ≤ bits k0 23 8)
    && (!push || (k1 / 4096 == 0 && addr % 64 == 0))

/-- TRIGARM (R380). DEDUCED, unsafe (log 67). -/
def trigarmEffect (h : Hd) (f : TF) (s : State) : R State := do
  s.needs 6
  let c ← s.flagOf h true
  s.ordered f.ord
  if !s.acts h then s.offFence f.ord c
  else do
    let i := f.x 0 4
    let k0 := (s.cb.getK f.b.num).toNat
    let k1 := (s.cb.getK (f.b.num + 1)).toNat
    let addr := s.cb.kPair (f.b.num + 2)
    need (blockOk k0 k1 addr) Code.illegalInstruction
    let a := s.cb.active
    let p ← s.checkPieces s.cctx s.cwg.launch (if k0 % 2 = 1 then a else 0) .read fun _ => [(addr, 64)]
    let ps := if k0 % 2 = 1 then p (lowest a) else []
    let d := s.readPieces s.cctx none ps
    pagesOk a fun _ => d
    let runs := ps.flatMap (s.runsOf s.cctx)
    ready (s.farReady runs)
    let (s, gone) := (s.acquire s.cc f.ord.acqAt).farRead runs
    let s := ps.foldl (fun s q => (s.fillTlb s.cctx q.va).afterEngine s.cctx q) s
    let unread := fun (s : State) => s.later c .load [] (some { code := Code.memoryDataError, addr := addr, mask := a })
    match d with
    | .error _ => .ok (unread (s.countLost [0] fun _ => d))
    | .ok record =>
      if gone then .ok (unread s) else
      let x := s.trig i
      let kp := fun (s : State) v => s.later c .load [.kp f.d.num v]
      if x.st ≠ 0 ∧ x.ctx ≠ s.cctx then .ok (kp s false)
      else
        let s := s.setTrig i { st := if k0 % 4 = 0 then 0 else 1, owned := true, ctx := s.cctx, t := s.cb.kPair f.a.num, action := k0 % 4,
                               pins := bits k0 5 2, width := bits k0 23 8, queue := k1 % 4096, record := record, dropped := false }
        .ok (kp (if s.due i then s.fireTrig i else s) true)

/-- The value of a selector of TRIGQ (R382). A slot that no TRIGARM has written since reset has no owner.
DEDUCED, unsafe (log 67). -/
def Trig.value (x : Trig) (ctx sel : Nat) : Nat :=
  match sel with
  | 0 => x.st + 4 * b2n x.dropped + 8 * b2n (x.owned && x.ctx ≠ ctx) + 16 * x.pins
  | 1 => x.t % 2 ^ 32
  | _ => x.t / 2 ^ 32 % 2 ^ 32

/-- TRIGQ (R382). -/
def trigqEffect (h : Hd) (f : TF) (s : State) : R State := do
  let c ← s.counterOf h true
  s.sIn f.d
  if f.d.isK && !s.acts h then .ok (s.later c .other [])
  else
    let v := (s.trig (f.x 0 4)).value s.cctx (f.x 4 2)
    .ok (s.later c .other (s.wrD (s.part h) f.d (fun _ => BitVec.ofNat 32 v) 9))

/-! ### Registers as they are read (R412, R463, R482) -/

/-- The numbers of device, stack, die and port instances that may be read. -/
def devReads (n : Nat) : Bool :=
  (0x300 ≤ n && n ≤ 0x304) || n == 0x310 || n == 0x311
    || (0x314 ≤ n && n ≤ 0x317) || n == 0x320
    || (0x400 ≤ n && n < 0x480 && n % 16 ≤ 9) || (0x480 ≤ n && n ≤ 0x4A5)
    || (0x500 ≤ n && n ≤ 0x509) || n == 0x50B || (0x510 ≤ n && n ≤ 0x521) || (0x530 ≤ n && n ≤ 0x533)
    || (0x543 ≤ n && n ≤ 0x546)

/-- A device register as it is read: the time unit has its own (R377). DEDUCED, unsafe (log 68). -/
def State.devRead (s : State) (n : Nat) : Nat :=
  if n = 0x310 then b2n s.time.run + 2 * b2n s.time.ppsen + 4 * b2n s.time.valid
  else if n = 0x311 then wrap 32 s.time.rate
  else if n = 0x314 then s.now % 2 ^ 32
  else if n = 0x315 then s.now / 2 ^ 32 % 2 ^ 32
  else if n = 0x316 then s.time.pps
  else if n = 0x317 then s.time.pps / 2 ^ 32
  else (s.reg n).toNat

/-- PMARK_LAST and PMARK_CNT of a core (R418). -/
def State.coreRead (s : State) (core n : Nat) : Nat :=
  if n = 0x380 then (s.core core).pmarkLast.toNat else (s.core core).pmarkCnt.toNat

/-! ### The unit's own steps -/

/-- Add nanoseconds to NOW. -/
def TimeUnit.addNs (u : TimeUnit) (d : Int) : TimeUnit :=
  let n : Int := (u.sec * 1000000000 + u.ns : Nat) + d
  let n := (n % (2 ^ 48 * 1000000000 : Nat)).toNat
  { u with sec := n / 1000000000, ns := n % 1000000000 }

/-- TIME_TICK (R377): one nanosecond of the reference, by 1 + RATE·2⁻³², carrying fractions. -/
def timeTick (s : State) : Option State :=
  if s.time.run then
    let f : Int := 2 ^ 32 + s.time.rate + s.time.frac
    some (s.modTime fun u => { u.addNs (f / 2 ^ 32) with frac := (f % 2 ^ 32).toNat }).compareAll
  else none

/-- PPS_EDGE (R377): NOW is latched while PPSEN is set. -/
def ppsEdge (s : State) : Option State :=
  if s.time.ppsen then some (s.modTime fun u => { u with pps := s.now % 2 ^ 64 }) else none

/-- TIME_STEP (R377, R381): a write of TIME_STEP_HI adds the signed pair to NOW; a step past T fires. It wakes the
device as every register write of the host does (R475). -/
def timeStep (hi : Nat) (s : State) : State :=
  (s.awake.modTime fun u => u.addNs (sext 64 (u.stepLo + 2 ^ 32 * (hi % 2 ^ 32)))).compareAll

/-- TRIGGER_FIRE (R381): an armed slot whose time has come. -/
def triggerFire (s : State) : Option State :=
  if s.due s.sched.arg.a then some (s.fireTrig s.sched.arg.a) else none

/-- PIN_PULSE_END (R381): the pulses of a pin whose width has passed end.
DESIGN CHOICE, unsafe (log 15). DEDUCED, unsafe (log 67). -/
def pinPulseEnd (s : State) : Option State :=
  let expired := fun (p : Nat × Nat) => p.1 == s.sched.arg.a && p.2 ≤ s.sched.clk
  if s.time.pulses.any expired then some (s.modTime fun u => { u with pulses := u.pulses.filter fun p => !expired p }) else none

/-- TIME (R378). -/
def execTime (h : Hd) (f : TF) (s : State) : Host.Outcome State Fault Refusal := issue s (timeEffect h f)
/-- TRIGARM (R380). -/
def execTrigarm (h : Hd) (f : TF) (s : State) : Host.Outcome State Fault Refusal := issue s (trigarmEffect h f)
/-- TRIGQ (R382). -/
def execTrigq (h : Hd) (f : TF) (s : State) : Host.Outcome State Fault Refusal := issue s (trigqEffect h f)
/-- TIME_TICK (R377). -/
def execTimeTick (s : State) : Host.Outcome State Fault Refusal := event s timeTick
/-- PPS_EDGE (R377). DESIGN CHOICE, safe (log 89). -/
def execPpsEdge (s : State) : Host.Outcome State Fault Refusal := event s ppsEdge
/-- TIME_STEP (R377): the host's write of TIME_STEP_HI. -/
def execTimeStep (s : State) : Host.Outcome State Fault Refusal := event s fun s => some (timeStep s.sched.arg.value.toNat s)
/-- TRIGGER_FIRE (R381). -/
def execTriggerFire (s : State) : Host.Outcome State Fault Refusal := event s triggerFire
/-- PIN_PULSE_END (R381). -/
def execPinPulseEnd (s : State) : Host.Outcome State Fault Refusal := event s pinPulseEnd

end Sys2Proof.Machine
end

