-- ==== Sys2Proof/Machine/Variant.lean ====
section
/-! DEFINITION. The pending-launch pool and its instructions LAUNCH, LWAIT and LPOLL (R137 to R140),
VSWITCH (R136) and ROLE (R141). -/

namespace Sys2Proof.Machine

/-! ### The pending-launch pool (R137) -/

/-- An entry's generation number; the first is 1. DESIGN CHOICE, unsafe (log 7). -/
def State.genOf (s : State) (e : Nat) : Nat := (look s.poolGen e).getD 1
/-- The lowest free entry. -/
def State.freeEntry (s : State) : Option Nat :=
  ((List.range (s.pool.length + 1)).find? fun e => (look s.pool e).isNone).filter fun e => decide (e < 4096)
/-- Free an entry: its generation rises by one modulo 2^20, skipping 0. -/
def State.freePool (s : State) (e : Nat) : State :=
  let g := (s.genOf e + 1) % 2 ^ 20
  { s with pool := del s.pool e, poolGen := put s.poolGen e (if g = 0 then 1 else g) }
/-- The entry a handle names: none when it is bad (R139). DESIGN CHOICE, unsafe (log 7). -/
def State.handle (s : State) (ctx h : Nat) : Option PoolEntry :=
  match look s.pool (h % 4096) with
  | some p => if p.gen = h / 4096 ∧ p.ctx = ctx then some p else none
  | none => none

/-! ### LAUNCH -/

/-- The 512 bytes of a record as LAUNCH reads them (R138), the parts they were read in, or why they cannot be
read. -/
def State.readRecord (s : State) (addr : Nat) : R (Except Fail (List Byte) × List Piece) := do
  let m := s.cb.active
  let p ← s.checkPieces s.cctx s.cwg.launch m .read fun _ => partsOf 65536 addr 512
  let ps := p (lowest m)
  let d := s.readPieces s.cctx none ps
  pagesOk m fun _ => d
  .ok (d, ps)

/-- Fill a pool entry with a child of the issuing launch; its handle. DEDUCED, unsafe (log 83). -/
def State.pushChild (s : State) (e : Nat) (raw : List Byte) : State × Nat :=
  let lid := s.cwg.launch
  let (id, s) := s.fresh
  let r := lrecOf raw
  let child : Launch := { ctx := s.cctx, raw := raw, lrec := r, age := id, owner := r.die, pool := some e }
  let p : PoolEntry := { gen := s.genOf e, launch := id, parent := lid, ctx := s.cctx }
  let s := { s with pool := put s.pool e p, launches := put s.launches id child }
  (s.modLaunch lid fun x => { x with quotaUsed := x.quotaUsed + 1 }, p.gen * 4096 + e)

/-- LAUNCH (R138). Its release is performed before the record is read; under MIR it waits for its turn before it
does anything (R312). A record that cannot be read takes no quota and no entry; a failure is made as recorded. DEDUCED, unsafe (log 83). -/
def launchEffect (h : Hd) (f : TF) (s : State) : R State := do
  s.needs 2
  let c ← s.flagOf h true
  let rel := f.ord.relOr .dev
  s.released rel
  if !s.acts h then .ok (s.fenceOp (.rel rel) c)
  else do
    let addr := s.cb.kPair f.a.num
    need (addr % 64 == 0) Code.illegalInstruction
    let l := s.cl
    let roomy := decide (l.lrec.nest + 1 ≤ min 8 l.lrec.dmax) && decide (l.quotaUsed < l.lrec.quota)
    let out := fun (s : State) (v : Nat) (ok : Bool) (flt : Option FaultRec) =>
      s.later c .other [.k f.d.num (BitVec.ofNat 32 v), .kp (f.x 0 2) ok] flt
    let failed := l.mir && (l.nextRec 7 0).any fun r => r.src == s.srcUni && r.chc == 0
    match (if roomy && !failed then s.freeEntry else none) with
    | none => do
      let s ← s.choose 7 0 s.srcUni 0
      .ok (out s 0 false none)
    | some e => do
      let (d, ps) ← s.readRecord addr
      let runs := ps.flatMap (s.runsOf s.cctx)
      ready (s.farReady runs)
      let (s, gone) := s.farRead runs
      let s ← s.choose 7 0 s.srcUni (match d with
        | .ok _ => b2n !gone
        | .error _ => 0)
      let s := ps.foldl (fun s q => (s.fillTlb s.cctx q.va).afterEngine s.cctx q) s
      let none_ := fun (s : State) => out s 0 false (some { code := Code.memoryDataError, addr := addr, mask := s.cb.active })
      match d with
      | .error _ => .ok (none_ (s.countLost [0] fun _ => d))
      | .ok raw =>
        if gone then .ok (none_ s)
        else
          let (s, hd) := s.pushChild e (raw.set 68 (BitVec.ofNat 8 (l.lrec.nest + 1)))
          .ok (out s hd true none)

/-! ### LWAIT and LPOLL -/

/-- LWAIT returns a child's status and frees its entry. -/
def State.childEnded (s : State) (d hd st : Nat) : State :=
  let s := match s.handle s.cctx hd with
    | some _ => s.freePool (hd % 4096)
    | none => s
  s.modCb fun b => b.setK d (BitVec.ofNat 32 st)

/-- The status a beam that waited in LWAIT was woken with. -/
def Beam.endedAs (b : Beam) : Option Nat :=
  match b.wait with
  | .ended st => some st
  | _ => none

/-- LWAIT (R139): its acquire follows the end of the child; guarded off, it is a fence of that acquire (R41). -/
def lwaitEffect (h : Hd) (f : TF) (s : State) : R (State × Flow) := do
  s.needs 2
  s.unheld
  let acq := some (f.ord.acqOr .dev)
  let past := fun (s : State) => (s.acquire s.cc acq, Flow.goto s.cb.fall)
  if !s.acts h then do
    s.raised
    .ok (past s)
  else
    let hd := (s.cb.getK f.a.num).toNat
    match s.cb.endedAs with
    | some st => .ok (past (s.childEnded f.d.num hd st))
    | none =>
      match s.handle s.cctx hd with
      | none => .ok (s.modCb fun b => b.setK f.d.num 8, .goto s.cb.fall)
      | some p =>
        if s.loadsOut s.sched.cur then .ok (s.waitAs .waiting .loads, .stay)
        else if p.status ≠ 0 then .ok (past (s.childEnded f.d.num hd p.status))
        else .ok (s.waitAs .parked (.child hd), .stay)

/-- LPOLL (R140): it answers from the pool as it stands at issue. DESIGN CHOICE, unsafe (log 102). -/
def lpollEffect (h : Hd) (f : TF) (s : State) : R State := do
  s.needs 2
  let c ← s.flagOf h true
  let acq := f.ord.acqOr .dev
  if !s.acts h then s.offFence (.acq acq) c
  else
    let hd := (s.cb.getK f.a.num).toNat
    let out := fun (s : State) (v : Nat) (p : Bool) => s.later c .other [.k f.d.num (BitVec.ofNat 32 v), .kp (f.x 0 2) p]
    match s.handle s.cctx hd with
    | none => .ok (out s 8 true)
    | some p =>
      if p.status ≠ 0 then .ok (out ((s.freePool (hd % 4096)).acquire s.cc (some acq)) p.status true) else .ok (out s 0 false)

/-! ### VSWITCH and ROLE -/

/-- VSWITCH (R136): the open BRW entry of a compacted beam counts as an entry of its own (R146), so the switch moves
whole original beams. DEDUCED, unsafe (log 72). -/
def vswitchEffect (h : Hd) (f : TF) (s : State) : R (State × Flow) := do
  let k := f.tx.toNat
  need (bit s.cl.obj.swmask k) Code.illegalInstruction
  if !s.cwg.swreq.getLsbD 0 || s.part h == 0 then .ok (s, .goto s.cb.fall)
  else do
    s.drained
    s.released .wg
    let b := s.cb
    need (b.live == b.active && (currentIdx s.cwg.stack b.b).isNone) Code.illegalConvergence (b.live &&& ~~~b.active)
    .ok ((s.waitAs .waiting (.vswitch k)).meet b.wg, .stay)

/-- The role of a workgroup (R141). -/
def Wg.role (g : Wg) : Nat :=
  match g.kind with
  | .launch r => r
  | _ => 0

/-- ROLE (R141). -/
def roleEffect (h : Hd) (f : TF) (s : State) : R State := do
  s.sIn f.d
  if !(if f.d.isK then s.acts h else s.part h != 0) then .ok s
  else .ok (s.putD (s.part h) f.d (fun _ => BitVec.ofNat 32 s.cwg.role) 9)

/-- LAUNCH (R138). -/
def execLaunch (h : Hd) (f : TF) (s : State) : Host.Outcome State Fault Refusal := issue s (launchEffect h f)
/-- LWAIT (R139). -/
def execLwait (h : Hd) (f : TF) (s : State) : Host.Outcome State Fault Refusal := issueTo s (lwaitEffect h f)
/-- LPOLL (R140). -/
def execLpoll (h : Hd) (f : TF) (s : State) : Host.Outcome State Fault Refusal := issue s (lpollEffect h f)
/-- VSWITCH (R136). -/
def execVswitch (h : Hd) (f : TF) (s : State) : Host.Outcome State Fault Refusal := issueTo s (vswitchEffect h f)
/-- ROLE (R141). -/
def execRole (h : Hd) (f : TF) (s : State) : Host.Outcome State Fault Refusal := issue s (roleEffect h f)

end Sys2Proof.Machine
end

