-- ==== Sys2Proof/Machine/Dispatcher.lean ====
section
/-! DEFINITION. The dispatchers: taking launches (R126, R336), reservations (R127, R128), the end of a
launch (R121, R125, R137, R311) and of a trapped one (R411). -/

namespace Sys2Proof.Machine

/-! ### The end of a launch -/

/-- A write the dispatcher makes at virtual addresses. Where a page does not translate for writing its bytes are not
written: the spec gives the write no other fate. DESIGN CHOICE, unsafe (log 110). -/
def State.vwrite (s : State) (ctx va : Nat) (bs : List Byte) : State :=
  (pageParts va bs.length).foldl (fun s p => match s.xlPlain ctx (p.1 % 2 ^ 64) .write with
    | .ok x => if x.isAp then s else (s.storeRange { nc := x.nc || x.isPeer } x.loc ((bs.drop (p.1 - va)).take p.2)).1
    | .error _ => s) s

/-- The 16 bytes of a completion record (R121). DEDUCED, unsafe (log 48). -/
def State.writeRecord (s : State) (l status detail : Nat) : State :=
  let x := s.launch l
  s.vwrite x.ctx x.lrec.done (bytesOfNat 4 status ++ bytesOfNat 4 detail ++ bytesOfNat 8 s.timeNow)

/-- Bytes of a log record (R310). -/
def LogRec.bytes (r : LogRec) : List Byte := bytesOfNat 1 r.kind ++ bytesOfNat 6 r.key ++ bytesOfNat 5 r.src ++ bytesOfNat 4 r.chc

/-- The order log with its header (R310, R311). DEDUCED, unsafe (log 39). -/
def State.writeLog (s : State) (l : Nat) : State :=
  let x := s.launch l
  if x.log? then
    s.vwrite x.ctx x.lrec.olog (bytesOfNat 8 x.log.length ++ List.replicate 56 0 ++ x.log.flatMap LogRec.bytes)
  else s

/-- A launch whose completion is final. -/
def LaunchSt.final : LaunchSt → Bool
  | .done | .refused => true
  | _ => false

/-- Waiting parents learn a child's status (R139). -/
def State.wakeParents (s : State) (handle status : Nat) : State :=
  { s with beams := s.beams.map fun x => if x.2.wait = .child handle then (x.1, { x.2 with wait := .ended status }) else x }

/-- A launch has ended: its record is written, its pool entry holds the status, entries that nobody can
ask for any more are freed (R137), and its collectives are forgotten (R388, R436). -/
def State.endLaunch (s : State) (l status detail : Nat) (st : LaunchSt) : State :=
  let x := s.launch l
  let s := s.writeRecord l status detail
  let s := s.modLaunch l fun x =>
    { x with st := st, status := status, detail := detail, log := [], mirror := [], bins := [], holds := [], plan := [], todo := [],
             trapped := none }
  let s := { s with wgs := s.wgs.filter fun g => g.2.launch ≠ l, gangs := s.gangs.filter fun g => g.2.launch ≠ l }
  let s := match x.pool with
    | some e =>
      match look s.pool e with
      | some p =>
        let s := { s with pool := upd s.pool e fun p => { p with status := status } }
        let s := s.wakeParents (p.gen * 4096 + e) status
        if (s.launch p.parent).st.final then s.freePool e else s
      | none => s
    | none => s
  let ended := (s.pool.filter fun p => p.2.parent == l && p.2.status ≠ 0).map (·.1)
  (ended.foldl State.freePool s).dropColls l

/-! ### Taking a launch (R126, R336) -/

/-- A host launch entry at the head of a queue. -/
inductive Head where
  | bad
  /-- the record cannot be read: its address and the cause -/
  | unreadable (rec_ cause : Nat)
  | ok (rec_ die : Nat) (raw : List Byte)
  deriving DecidableEq, Repr

/-- Read the head entry of a launch queue and the record it names. DEDUCED, unsafe (log 48). -/
def State.headOf (s : State) (q : Nat) : Option (Nat × Head) :=
  let x := s.queue q
  match (if s.engineDown q then [] else x.entries) with
  | [] => none
  | e :: _ =>
    let l := s.mem.read (x.ring + 64 * (e.1 % x.cap)) 64
    let rec_ := field l 0 8
    let die := byteAt l 8
    if rec_ % 64 ≠ 0 || 1 < die || !(l.drop 9).all (· == 0) then some (0, .bad)
    else match s.dread x.ctx rec_ 512 with
      | .error c => some (die, .unreadable rec_ c)
      | .ok raw => some (die, .ok rec_ die raw)

/-- What a dispatcher may take next: priority, age, rank of its source. -/
structure Cand where
  prio : Nat
  age : Nat
  rank : Nat
  /-- a queue, or a launch in the pool -/
  src : Nat ⊕ Nat
  deriving DecidableEq, Repr

def Cand.before (x y : Cand) : Bool :=
  x.prio < y.prio || (x.prio == y.prio && (x.age < y.age || (x.age == y.age && x.rank < y.rank)))

/-- The launches waiting for a die's dispatcher. -/
def State.cands (s : State) (die : Nat) : List Cand :=
  (s.queues.filterMap fun q =>
    if q.2.type = 2 then
      match s.headOf q.1, q.2.entries.head? with
      | some (d, .ok _ _ raw), some e => if d = die then some { prio := (lrecOf raw).prio, age := e.2.1, rank := q.1, src := .inl q.1 } else none
      | _, _ => none
    else none)
  ++ s.launches.filterMap fun l =>
    if l.2.st = .queued ∧ l.2.owner = die then some { prio := l.2.lrec.prio, age := l.2.age, rank := 4096, src := .inr l.1 } else none

/-- A queue whose head this dispatcher discards. -/
def State.discardable (s : State) (die : Nat) : Option (Nat × Head) :=
  s.queues.findSome? fun q =>
    if q.2.type = 2 then
      match s.headOf q.1 with
      | some (d, .bad) => if d = die then some (q.1, Head.bad) else none
      | some (d, .unreadable r c) => if d = die then some (q.1, Head.unreadable r c) else none
      | _ => none
    else none

/-- The head entry of a queue goes, counted as discarded. DEDUCED, unsafe (log 48). -/
def State.discardHead (s : State) (q : Nat) : State :=
  match s.popEntry q with
  | some (_, s) => { s with queues := upd s.queues q fun x => { x with discard := (x.discard + 1) % 2 ^ 32 } }
  | none => s

/-- The launch of the head entry of a queue comes into the hands of a die's dispatcher: its number, and the die that the
entry names. -/
def State.takeHead (s : State) (q die age : Nat) : Option (Nat × Nat × State) :=
  match s.headOf q, s.popEntry q with
  | some (_, .ok _ d raw), some (_, s1) =>
    let (id, s1) := s1.fresh
    let x : Launch := { ctx := (s.queue q).ctx, raw := raw, lrec := lrecOf raw, st := .checking, owner := die, age := age, src := q }
    some (id, d, { s1 with launches := put s1.launches id x })
  | _, _ => none

/-- An event of a dispatcher, which is no unit of a core. DEDUCED, unsafe (log 48). -/
def dispatcherEvent (kind cause addr die done : Nat) : List Byte :=
  (eventRecord kind cause 0 addr 0 0 0 done).set 16 (BitVec.ofNat 8 die)

/-- The checks of R122: the launch goes to PLACING, or is refused with its record written.
DEDUCED, unsafe (log 38). -/
def State.check (s : State) (l : Nat) (die : Option Nat) : State :=
  let x := s.launch l
  match s.accept x.ctx x.raw x.lrec die with
  | .ok (o, m) => s.modLaunch l fun x => { x with obj := o, mirror := m, st := .placing }
  | .error (st, d) => s.endLaunch l st d .refused

/-- DISPATCHER_TAKE (R126): a bad or unreadable head entry is discarded (R123, R336); otherwise the next
launch in order is taken and checked. DEDUCED, unsafe (log 48). -/
def dispatcherTake (s : State) : Option State :=
  let die := s.sched.arg.a
  match s.discardable die with
  | some (q, .unreadable r c) =>
    let ctx := (s.queue q).ctx
    if s.evRoom ctx die then some ((s.discardHead q).pushEvent ctx die (dispatcherEvent 6 c r die 0)) else none
  | some (q, _) => some (s.discardHead q)
  | none =>
    let best := (s.cands die).foldl (fun m c => match m with
      | none => some c
      | some b => if c.before b then some c else some b) (none : Option Cand)
    match best with
    | none => none
    | some c =>
      match c.src with
      | .inr l => some (s.check l none)
      | .inl q => (s.takeHead q die c.age).map fun x => x.2.2.check x.1 (some x.2.1)

/-! ### Reservations (R127, R128) -/

/-- The aligned origins of a gang shape in the footprint, in row-major order (R117, R118).
DEDUCED, unsafe (log 46). -/
def Launch.origins (x : Launch) : List (Nat × Nat) :=
  let (w, h) := shapeOf x.lrec.gshp
  (List.range (2 ^ x.lrec.fh / h)).flatMap fun j =>
    (List.range (2 ^ x.lrec.fw / w)).map fun i => (x.lrec.x0 + i * w, x.lrec.y0 + j * h)

/-- The cores of a gang at an origin, by position. -/
def Launch.coresAt (x : Launch) (o : Nat × Nat) : List Nat :=
  let (w, h) := shapeOf x.lrec.gshp
  (List.range (w * h)).map fun c => 32 * (o.2 + c / w) + o.1 + c % w

/-- Cores that the gangs of a launch stand on, and those of every launch. -/
def State.gangCores (s : State) (l : Nat) : List Nat :=
  (s.gangs.filter fun g => g.2.launch == l && g.2.st ≠ .saved).flatMap fun g =>
    (List.range (g.2.w * g.2.h)).map g.2.coreAt
def State.takenCores (s : State) : List Nat :=
  (s.gangs.filter fun g => g.2.st ≠ .saved).flatMap fun g => (List.range (g.2.w * g.2.h)).map g.2.coreAt

/-- Hold one core of gang G: an allocation for each workgroup at the position, in ascending W, beside what
stands there and the given holds. DEDUCED, unsafe (log 46). -/
def State.holdCore (s : State) (l G core pos : Nat) (others : List (Nat × List WgAlloc)) (own : List WgAlloc) : Option (List WgAlloc) :=
  let x := s.launch l
  let ws := (List.range x.lrec.wgs).filter fun w => x.lrec.posOf w == pos
  ws.foldl (fun acc w => acc.bind fun hs =>
    let (_, r) := x.lrec.roleOf w
    let fixed := r.bind fun r => if r.variant = 255 then none else some r.variant
    (s.fitVariant l core (others ++ [(l, own ++ hs)]) fixed).map fun f =>
      hs ++ [{ g := G, w := w, core := core, variant := f.1, role := (x.lrec.roleOf w).1, fixed := fixed.isSome,
               beams := f.2.1, slots := f.2.2.1, base := f.2.2.2 }]) (some [])

/-- Holds for a whole gang at an origin. -/
def State.holdGang (s : State) (l G : Nat) (o : Nat × Nat) (own : List WgAlloc) : Option (List WgAlloc) :=
  ((s.launch l).coresAt o).zipIdx.foldl (fun acc p => acc.bind fun hs =>
    (s.holdCore l G p.1 p.2 [] (own ++ hs)).map fun h => hs ++ h) (some [])

/-- The first origin of a list for which a function answers, one on whose cores no gang stands before all others
(R118, R430); beside a gang of another launch where there is no such (R406, R444), never beside one of its own.
DEDUCED, unsafe (log 46). -/
def State.firstOrigin {α : Type} (s : State) (l : Nat) (own : List Nat) (cores : Nat × Nat → List Nat) (os : List (Nat × Nat))
    (f : Nat × Nat → Option α) : Option α :=
  let at_ := fun (busy : List Nat) => os.findSome? fun o => if (cores o).any busy.contains then none else f o
  (at_ (own ++ s.takenCores)).orElse fun _ => at_ (own ++ s.gangCores l)

/-- The origin of each of n gangs from G on, beside those already planned. -/
def State.planGangs (s : State) (l : Nat) : Nat → Nat → List Nat → List WgAlloc → Option (List (Nat × Nat × Nat))
  | 0, _, _, _ => some []
  | n + 1, G, busy, own =>
    let x := s.launch l
    match s.firstOrigin l busy x.coresAt x.origins fun o => (s.holdGang l G o own).map fun h => (o, h) with
    | none => none
    | some (o, h) => (s.planGangs l n (G + 1) (busy ++ x.coresAt o) (own ++ h)).map fun r => (G, o.1, o.2) :: r

/-- How many gangs one reservation is for: all with COR (R127). -/
def Launch.toReserve (x : Launch) : Nat := if x.lrec.cor then x.lrec.gcnt - x.nextG else 1

/-- Cores in ascending die and core number. -/
def coreOrder (l : List (Nat × Nat)) : List (Nat × Nat) :=
  (List.range 2).flatMap fun d => (List.range 256).flatMap fun c => l.filter fun p => p.2 == c && c % 32 / 16 == d

/-- A reservation gives up its holds; one that lost to another backs off (R128). -/
def State.release (s : State) (l : Nat) (lost : Bool) : State :=
  s.modLaunch l fun x =>
    let x := { x with holds := [], plan := [], todo := [] }
    if lost then { x with losses := x.losses + 1, backoff := s.sched.clk + min (64 * 2 ^ x.losses) 8192 + 32 * x.owner } else x

/-- A launch workgroup (R124). -/
def State.placeWg (s : State) (l gang : Nat) (a : WgAlloc) : State :=
  let x := s.launch l
  let v := s.allocVar l a
  let e := ((x.lrec.roleOf a.w).2).elim 0 (·.entry)
  let pc := x.lrec.code + (((x.obj.entries[e]?).map (·.offs)).getD []).getD a.variant 0
  let b : Birth :=
    { pc := pc,
      k := [(0, x.lrec.parm), (1, x.lrec.parm / 2 ^ 32), (2, a.g), (3, a.w + 2 ^ 16 * v.beams + 2 ^ 24 * x.lrec.wgs),
            (4, a.variant + 4 * a.role + 16 * x.lrec.nest)],
      key := x.lrec.key (a.g * 2 ^ 20 + a.w * 2 ^ 5),
      tag := bit x.lrec.flags 4,
      threads := fun b t => some (launchIdent a.g a.w (8 * b + t), none, firstS b t) }
  let g : Wg :=
    { gang := gang, launch := l, w := a.w, kind := .launch a.role, variant := a.variant, fixedVar := a.fixed, nv := v.nv, ns := v.ns,
      spadBase := a.base, spadSize := 4096 * v.spad }
  (s.birthWg a.core g a.beams a.slots b).1

/-- The holds become allocations (R127). -/
def State.commit (s : State) (l : Nat) : State :=
  let x := s.launch l
  let (w, h) := shapeOf x.lrec.gshp
  let s := x.plan.foldl (fun s p =>
    let (id, s) := s.fresh
    let s := { s with gangs := put s.gangs id { launch := l, g := p.1, x := p.2.1, y := p.2.2, w := w, h := h, placed := id } }
    (x.holds.filter fun a => a.g == p.1).foldl (fun s a => s.placeWg l id a) s) s
  s.modLaunch l fun y =>
    { y with nextG := y.nextG + x.plan.length, losses := 0, plan := [], holds := [], todo := [],
             st := if y.nextG + x.plan.length = y.lrec.gcnt then .running else .placing }

/-- A launch with a gang to place: a preempted gang of it comes first (R409). DEDUCED, unsafe (log 46). -/
def State.unplaced (s : State) (l : Nat) : Bool :=
  let x := s.launch l
  x.st == .placing && x.trapped.isNone && !x.suspended && !(s.gangs.any fun g => g.2.launch == l && g.2.st ≠ .placed)
/-- It may reserve now: it does not back off (R128). -/
def State.mayReserve (s : State) (l : Nat) : Bool := s.unplaced l && (s.launch l).backoff == 0

/-- RESERVATION_BACKOFF (R128): the wait is over. -/
def reservationBackoff (s : State) : Option State :=
  let l := s.sched.arg.a
  let x := s.launch l
  if x.backoff ≠ 0 ∧ x.backoff ≤ s.sched.clk then some (s.modLaunch l fun x => { x with backoff := 0 }) else none

/-! ### Completion -/

/-- LAUNCH_COMPLETION_RECORD (R121, R125): the merges are done; the log and then the record are written. -/
def completionRecord (s : State) : Option State :=
  let l := s.sched.arg.a
  let x := s.launch l
  if x.st = .ending ∧ x.trapped.isNone ∧ !(s.mem.partials.any fun p => p.launch == l) then
    some ((s.writeLog l).endLaunch l 1 0 .done)
  else none

/-! ### Launch-level traps (R411) -/

/-- Operations a trapped launch need not wait for: their condition is gone with the launch. -/
def OpCond.dropped : OpCond → Bool
  | .held | .coll _ _ _ _ _ _ | .rpkt _ _ _ | .copyEnd _ _ _ _ | .copyAt _ _ _ _ _ _ _ | .drain _ _ _ _ => true
  | _ => false

/-- The gangs of a trapped launch have drained: no operation is under way, and its channels stand at a boundary
(R407, R410). -/
def State.quiet (s : State) (p : Wg → Bool) (gangs : List Nat) : Bool :=
  !(s.ops.any fun o => (match look s.beams o.beam with
      | some b => b.uid == o.uid && p (s.wg b.wg)
      | none => false) && o.emit == [] && !o.cond.dropped)
    && s.cores.all fun c => c.2.chans.all fun x =>
      !(x.2.holder.any gangs.contains) || x.2.stalled.isSome || x.2.running.all fun r => s.copyHeld r || r.done == r.len

/-- The gangs of a launch. -/
def State.gangsOf (s : State) (l : Nat) : List Nat := (s.gangs.filter fun g => g.2.launch == l).map (·.1)

/-- A queue without a launch's spilled threads. -/
def Queue.dropLaunch (q : Queue) (l : Nat) : Queue :=
  let keep := q.spill.filter fun i => i.2.launch ≠ l
  { q with spill := keep, pop := (q.pop + (q.spill.length - keep.length)) % 2 ^ 32 }

/-- A workgroup that ends with its launch. -/
def Wg.discard (g : Wg) : Wg := { g with retired := true, freed := true, beams := [], drains := [], swHold := none, swreq := 0 }

/-- A copy channel given up. -/
def Chan.drop (x : Chan) : Chan := { x with holder := none, queue := [], running := none, stalled := none }

/-- A core without a launch and its gangs. -/
def Core.dropLaunch (c : Core) (l : Nat) (gs : List Nat) : Core :=
  { c with
    spawnQ := c.spawnQ.filter fun i => i.launch ≠ l,
    groups := c.groups.filter fun g => g.launch ≠ l,
    accHold := if c.accHold.any gs.contains then none else c.accHold,
    banks := c.banks.map fun b => if b.2.owner = some l then (b.1, { b.2.release with loading := 0 }) else b,
    chans := c.chans.map fun x => if x.2.holder.any gs.contains then (x.1, x.2.drop) else x }

/-- Everything of a launch that its cores, queues and tables hold is discarded. -/
def State.discardLaunch (s : State) (l : Nat) : State :=
  let gs := s.gangsOf l
  let bks := s.beamsOf fun g => g.launch == l
  let s := { s with
    ops := s.ops.filter fun o => !((look s.beams o.beam).any fun (b : Beam) => b.uid == o.uid && (s.wg b.wg).launch == l) && !o.emit.any fun e => e.launch == l,
    threads := s.threads.filter fun t => (s.wg t.2.wg).launch ≠ l,
    beams := s.beams.filter fun b => !bks.contains b.1,
    tickets := s.tickets.filter fun t => t.2.launch ≠ l,
    mem := { s.mem with partials := s.mem.partials.filter fun p => p.launch ≠ l },
    queues := s.queues.map fun (q : Nat × Queue) => (q.1, q.2.dropLaunch l),
    wgs := s.wgs.map fun (g : Nat × Wg) => if g.2.launch = l then (g.1, g.2.discard) else g,
    cores := (s.cores.filter fun (c : Nat × Core) => c.1 < 256 || !gs.contains (c.1 / 16 - 16)).map fun (c : Nat × Core) => (c.1, c.2.dropLaunch l gs) }
  s.dropColls l

/-- LAUNCH_LEVEL_TRAP (R312, R411): a launch whose replay has lost a party diverges; of one that has trapped, what it still held is discarded, the log header and the record are
written, and an event of kind 4 is pushed. -/
def launchLevelTrap (s : State) : Option State :=
  let l := s.sched.arg.a
  let x := s.launch l
  match x.trapped with
  | none => if s.mirrorLost l then some (s.launchTrap l Code.mirrorDiverge 0) else none
  | some d =>
    if x.st.final || !s.quiet (fun g => g.launch == l) (s.gangsOf l) || !s.evRoom x.ctx x.owner then none
    else
      let s := s.discardLaunch l
      let s := (s.writeLog l).endLaunch l 7 d .done
      some (s.pushEvent x.ctx x.owner (dispatcherEvent 4 (d % 256) 0 x.owner x.lrec.done))

/-- DISPATCHER_TAKE (R126). -/
def execDispatcherTake (s : State) : Host.Outcome State Fault Refusal := event s dispatcherTake
/-- RESERVATION_BACKOFF (R128). -/
def execReservationBackoff (s : State) : Host.Outcome State Fault Refusal := event s reservationBackoff
/-- LAUNCH_COMPLETION_RECORD (R121). -/
def execLaunchCompletionRecord (s : State) : Host.Outcome State Fault Refusal := event s completionRecord
/-- LAUNCH_LEVEL_TRAP (R411). -/
def execLaunchLevelTrap (s : State) : Host.Outcome State Fault Refusal := event s launchLevelTrap

end Sys2Proof.Machine
end

