-- ==== Sys2Proof/Machine/Film.lean ====
section
/-! DEFINITION. The film path: FACC, FRES and FCLR (R104, R371 to R376). A film command is performed at the
home slice of its pixel as its word issues. -/

namespace Sys2Proof.Machine

/-! ### Bins (R104, R371) -/

/-- A pixel's bytes. -/
def pixelBytes : Nat := 128

/-- |a| ≥ |b| for values that are no NaNs. -/
def absGe (a b : Nat) : Bool := (decodeF .f32 false a).abs.cmp (decodeF .f32 false b).abs ≠ .lt

/-- Round(x - y, FP32, RN). -/
def sub32 (x y : Nat) : Nat := add32 x (y ^^^ 2 ^ 31)

/-- One sample into a bin, as s + 2^32·c (R104). -/
def filmAdd (bin x : Nat) : Nat :=
  let s := bin % 2 ^ 32
  let c := bin / 2 ^ 32
  let t := add32 s x
  let c := match decodeF .f32 false t with
    | .num _ _ _ _ => if absGe s x then add32 c (add32 (sub32 s t) x) else add32 c (add32 (sub32 x t) s)
    | _ => c
  t + 2 ^ 32 * c

/-- A bin's s and then its c added into another. DEDUCED, unsafe (log 66). -/
def filmMerge (a b : Nat) : Nat := filmAdd (filmAdd a (b % 2 ^ 32)) (b / 2 ^ 32)

/-- The value a bin resolves to. -/
def filmValue (bin : Nat) : Nat := add32 (bin % 2 ^ 32) (bin / 2 ^ 32)

/-- The bin of a wavelength; none for one that is dropped. -/
def binOf (lam : Nat) : Option Nat :=
  match decodeF .f32 false lam with
  | .num false n d e =>
    let l := (quant n d e 0).1
    if 380 ≤ l ∧ l < 780 then some ((l - 380) / 25) else none
  | _ => none

/-! ### Pixels -/

/-- The pixel address of a thread. -/
def State.pixel (s : State) (f : TF) (t : Nat) : Nat := s.addrOf f.rp true t

/-- The checks of R252 on the pixels: aligned, translated with WR, no Aperture. -/
def State.pixels (s : State) (f : TF) (m : BitVec 8) : R (Nat → Xl) := do
  let va := s.pixel f
  stepCheck m (fun t => va t % pixelBytes == 0) Code.misaligned va
  let x ← s.xlAll s.cctx m .write va
  s.xlFeatures m fun t => [x t]
  stepCheck m (fun t => !(x t).isAp) Code.apertureWrite va
  .ok x

/-- The samples of a thread that fall in a bin: the bin and the sample, in ascending i. -/
def filmSamples (vals lams : List Nat) : List (Nat × Nat) :=
  (vals.zip lams).filterMap fun p => (binOf p.2).map fun k => (k, p.1)

/-- FILM_DROP of the issuing launch. -/
def State.drop (s : State) (n : Nat) : State := s.modCl fun l => { l with filmDrop := min (l.filmDrop + n) (2 ^ 32 - 1) }

/-- Add one sample to a beam's partial of a bin (R373). -/
def Mem.filmPart (m : Mem) (launch wg b loc x : Nat) : Mem :=
  if m.partials.any fun p => samePart p loc 4 wg b then
    { m with partials := m.partials.map fun q => if samePart q loc 4 wg b then { q with val := filmAdd q.val x } else q }
  else { m with partials := m.partials ++ [{ loc := loc, op := 4, launch := launch, wg := wg, beam := b, drain := none, val := filmAdd 0 x }] }

/-- Add one sample to bin k of a pixel in memory. -/
def State.addSample (s : State) (a : Agent) (pixel k x : Nat) : State :=
  let loc := pixel + 8 * k
  s.poke a loc (bytesOfNat 8 (filmAdd (natOfBytes (s.mem.read loc 8)) x))

/-- The sources of FACC. -/
def faccSrcs (f : TF) : List Src := [{ f := f.a, v := true, want := .ty .f32 }, { f := f.b, v := true, want := .ty .f32 }]

/-- FACC (R372, R373): it sets no fx bit and ignores FTZ. DEDUCED, unsafe (log 66). DEDUCED, unsafe (log 82). -/
def faccEffect (h : Hd) (f : TF) (s : State) : R State := do
  let c ← s.flagOf h false
  s.sSpan f.rp 2
  s.vIn f.a
  s.vIn f.b
  let m := s.part h
  if m = 0 then s.offFence f.ord c
  else do
    s.checkSrcs m (faccSrcs f)
    let x ← s.pixels f m
    let smp := fun t => match faccSrcs f with
      | [a, b] => filmSamples (s.srcElems a t).1 (s.srcElems b t).1
      | _ => []
    let dm := mask8 fun t => m.getLsbD t && (x t).det
    stepCheck (m &&& ~~~dm) (fun t => !s.hazard s.cwg.launch (x t).loc pixelBytes) Code.detReadHazard (s.pixel f)
    s.detCheckL ((bitsOf dm).flatMap fun t => (smp t).map fun p => (t, (x t).loc + 8 * p.1)) 4 8
    s.ordered f.ord
    let bad := (bitsOf (m &&& ~~~dm)).filter fun t => s.badBytes (x t).loc pixelBytes
    let dropped := (bitsOf m).foldl (fun n t => n + (8 - (smp t).length)) 0
    let cond := s.condOf true m fun t => [{ va := s.pixel f t, loc := (x t).loc, n := pixelBytes }]
    let s1 := (s.fillAll s.cctx m (s.pixel f)).drop dropped
    let s1 := ((bad.map fun t => (x t).loc).eraseDups).foldl (fun s l => s.countUe (s.firstBad l pixelBytes)) s1
    let s1 := (bitsOf m).foldl (fun (s1 : State) t =>
      if bad.contains t then s1
      else (smp t).foldl (fun s1 p =>
        if (x t).det then { s1 with mem := s1.mem.filmPart s.cwg.launch s.cb.wg s.cb.b ((x t).loc + 8 * p.1) p.2 }
        else s1.addSample (s.engineOf (x t)) (x t).loc p.1 p.2) s1) s1
    .ok (s1.later c .engineWrite [] (lostFault bad (s.pixel f)) cond)

/-- The sixteen bins of a pixel. -/
def State.bins (s : State) (loc : Nat) : List Nat := (List.range 16).map fun k => natOfBytes (s.mem.read (loc + 8 * k) 8)

/-- FRES (R374). Threads that clear one pixel do so in ascending t (R10); an acquire acts on the L1 (R283, R287). -/
def fresEffect (h : Hd) (f : TF) (s : State) : R State := do
  let c ← s.flagOf h true
  s.sSpan f.rp 2
  s.vSpan f.d 2
  let m := s.part h
  if m = 0 then s.offFence f.ord c
  else do
    let x ← s.pixels f m
    stepCheck m (fun t => !s.hazard s.cwg.launch (x t).loc pixelBytes) Code.detReadHazard (s.pixel f)
    s.ordered f.ord
    let s := s.acquire s.cc f.ord.acqAt
    let clr := f.x 7 1 == 1
    let bad := (bitsOf m).filter fun t => s.badBytes (x t).loc pixelBytes
    let cond := s.condOf clr m fun t => [{ va := s.pixel f t, loc := (x t).loc, n := pixelBytes }]
    let s1 := s.fillAll s.cctx m (s.pixel f)
    let s1 := ((bad.map fun t => (x t).loc).eraseDups).foldl (fun s l => s.countUe (s.firstBad l pixelBytes)) s1
    let (s1, ws) := (bitsOf m).foldl (fun (r : State × List RegWrite) t =>
      if bad.contains t then r
      else
        let vs := (r.1.bins (x t).loc).map filmValue
        let half := fun (i : Nat) => RegWrite.v (s.tkey t) (f.d.num + i) (BitVec.ofNat 256 (ofElems 32 ((vs.drop (8 * i)).take 8))) (-1) 8 32
        (if clr then r.1.poke (s.engineOf (x t)) (x t).loc (List.replicate pixelBytes 0) else r.1.touch (x t).loc pixelBytes,
          r.2 ++ [half 0, half 1])) (s1, [])
    .ok (s1.later c (if clr then .engineWrite else .engineRead) ws (lostFault bad (s.pixel f)) cond)

/-- FCLR (R374): every page of the range is translated before anything is cleared.
DEDUCED, unsafe (log 66). -/
def fclrEffect (h : Hd) (f : TF) (s : State) : R State := do
  let c ← s.flagOf h false
  s.sSpan f.rp 2
  s.sIn f.b
  let m := s.part h
  if m = 0 then s.offFence f.ord c
  else do
    let n := fun t => match f.b with
      | .k r => (s.cb.getK r.toNat).toNat
      | .t r => ((s.th t).getS r.toNat).toNat
    let wrong := mask8 fun t => m.getLsbD t && !(1 ≤ n t && n t ≤ 65536)
    need (wrong = 0) Code.illegalInstruction wrong
    let va := s.pixel f
    stepCheck m (fun t => va t % pixelBytes == 0) Code.misaligned va
    let parts := fun t => pageParts (va t) (pixelBytes * n t)
    let xs := fun t => (parts t).map fun p => (p, s.xl s.cctx (p.1 % 2 ^ 64) .write)
    let flt := fun t => (xs t).findSome? fun p => match p.2 with
      | .error e => some (p.1.1 % 2 ^ 64, e)
      | .ok _ => none
    let pf := mask8 fun t => m.getLsbD t && (flt t).isSome
    match flt (lowest pf) with
    | some (a, e) => if pf ≠ 0 then .error (.page a e pf) else .ok ()
    | none => .ok ()
    let locs := fun t => (xs t).filterMap fun p => match p.2 with
      | .ok x => some (x, p.1.2)
      | .error _ => none
    if (bitsOf m).any fun t => (locs t).any fun p => p.1.isPeer then s.needs 7 else .ok ()
    if (bitsOf m).any fun t => (locs t).any fun p => p.1.isAp then s.needs 9 else .ok ()
    stepCheck m (fun t => !(locs t).any fun p => p.1.isAp) Code.apertureWrite va
    s.ordered f.ord
    let rs := fun t => (locs t).map fun p => (p.1.loc, p.2)
    let cond := s.condOf true m fun t => (rs t).map fun p => { va := va t, loc := p.1, n := p.2 }
    let s1 := (bitsOf m).foldl (fun s t => (parts t).foldl (fun s p => s.fillTlb s.cctx (p.1 % 2 ^ 64)) s) s
    let (s1, lost) := (bitsOf m).foldl (fun (r : State × List (Nat × Nat)) t =>
      (locs t).foldl (fun (q : State × List (Nat × Nat)) p =>
        let (s1, b) := q.1.storePart (s.engineOf p.1) ((bitsOf m).flatMap rs) p.1.loc (List.replicate p.2 0)
        (s1, q.2 ++ b.map fun l => (t, l))) r) (s1, [])
    .ok ((s1.countUes (lost.map (·.2))).later c .engineWrite [] (lostFault ((lost.map (·.1)).eraseDups) va) cond)

/-- FACC (R372). -/
def execFacc (h : Hd) (f : TF) (s : State) : Host.Outcome State Fault Refusal := issue s (faccEffect h f)
/-- FRES (R374). -/
def execFres (h : Hd) (f : TF) (s : State) : Host.Outcome State Fault Refusal := issue s (fresEffect h f)
/-- FCLR (R374). -/
def execFclr (h : Hd) (f : TF) (s : State) : Host.Outcome State Fault Refusal := issue s (fclrEffect h f)

end Sys2Proof.Machine
end

