-- ==== Sys2Proof/Machine/Drain.lean ====
section
/-! DEFINITION. DET_APPLICATION: merging a workgroup's DET partials and applying them to memory in key
order (R295, R305, R306, R373). -/

namespace Sys2Proof.Machine

/-! ### Who comes first (R306) -/

/-- A DET order key. -/
abbrev Key := Nat × Nat × Nat

/-- Keys of a launch that exist and have not been placed: spawn groups formed and bins fired. -/
def State.formedKeys (s : State) (l : Nat) : List Key :=
  (s.cores.flatMap fun c => (c.2.groups.filter fun g => g.launch == l).map fun g => (1, g.e, g.num))
    ++ ((s.launch l).bins.filter (·.fired)).map fun b => (2, b.node, b.num)

/-- Keys a Mirror run is still to form, from the records left (R306). -/
def Launch.comingKeys (x : Launch) : List Key :=
  x.mirror.filterMap fun r =>
    if r.kind = 6 ∧ r.key / 2 ^ 47 = 1 then some (1, r.key % 32, r.chc / 256)
    else if r.kind = 5 then some (2, r.key % 256, r.key / 256)
    else none

/-- Every workgroup of lower key has retired and been applied: launch workgroups not yet placed come before
every spawn and bin workgroup. -/
def State.isFirst (s : State) (wg : Nat) (g : Wg) : Bool :=
  let x := s.launch g.launch
  let k := s.detKey g
  !(s.wgs.any fun y => y.1 ≠ wg && y.2.launch == g.launch && keyLt (s.detKey y.2) k && s.unapplied y.1 y.2)
    && (k.1 == 0 || (x.nextG == x.lrec.gcnt && !(s.formedKeys g.launch).any fun y => keyLt y k))
    && (!x.mir || !x.comingKeys.any fun y => keyLt y k)

/-! ### Merging (R305, R373) -/

/-- The partials of one word and operation merged, in ascending beam order. -/
def mergeParts (op : Nat) (vals : List Nat) : Nat :=
  if op = 4 then vals.foldl filmMerge 0
  else match vals with
    | [] => 0
    | v :: vs => vs.foldl (combine op) v

/-- A merged value combined with what memory holds. -/
def applyTo (op m v : Nat) : Nat :=
  match op with
  | 3 => (roundF .bf16 .rn false 16 0 ((decodeF .bf16 false m).add false (decodeF .f32 false v))).1
  | 4 => filmMerge m v
  | _ => combine op m v

/-- Ascending order of partials by beam. -/
def byBeam (ps : List Partial) : List Partial :=
  (List.range 32).flatMap fun b => ps.filter fun p => p.beam == b

/-- Apply the partials of a workgroup that satisfy a test: they leave the tables, and its core's caches follow, since its
beams' own contributions come before what they read next (R277). A word that cannot be read stays as it is (R303).
DEDUCED, unsafe (log 69). -/
def State.applyParts (s : State) (wg : Nat) (sel : Partial → Bool) : State :=
  let ps := s.mem.partials.filter fun p => p.wg == wg && sel p
  let s := { s with mem := { s.mem with partials := s.mem.partials.filter fun p => !(p.wg == wg && sel p) } }
  let words := (ps.map fun p => (p.loc, p.op)).eraseDups
  words.foldl (fun s w =>
    let mine := byBeam (ps.filter fun p => p.loc == w.1 && p.op == w.2)
    match mine with
    | [] => s
    | p :: _ => (rmw { core := some (s.wg wg).core } w.1 p.size (fun m => some (applyTo w.2 m (mergeParts w.2 (mine.map (·.val))))) s).1) s

/-- The releases that a drain performs as it is applied cover accesses that have been performed (R296). -/
def State.drainReady (s : State) (wg num : Nat) : Bool :=
  s.ops.all fun o => match o.cond with
    | .drain w n _ (some c) => w ≠ wg || n ≠ num || s.fenceDone o (.rel c)
    | _ => true

/-- DET_APPLICATION (R305): a workgroup's drains one after the other, and its retirement merge last. -/
def detApplication (s : State) : Option State :=
  let wg := s.sched.arg.a
  match look s.wgs wg with
  | none => none
  | some g =>
    if !s.isFirst wg g then none
    else match g.drains with
      | d :: ds =>
        if !s.drainReady wg d.num then none
        else
          let s := s.applyParts wg fun p => p.drain == some d.num
          some (s.modWg wg fun g => { g with drains := ds })
      | [] =>
        if g.retired && s.mem.partials.any (fun p => p.wg == wg) then some (s.applyParts wg fun _ => true) else none

/-- DET_APPLICATION (R305). -/
def execDetApplication (s : State) : Host.Outcome State Fault Refusal := event s detApplication

end Sys2Proof.Machine
end

