-- ==== Sys2Proof/Machine/Groups.lean ====
section
/-! DEFINITION. Work that comes to a core on its own: the gatherer's timer and refill (R344, R346), placing
spawn groups with eviction and reload (R345, R354, R355), bins (R357, R359), and switch requests (R135). -/

namespace Sys2Proof.Machine

/-! ### The gatherer -/

/-- SPAWN_GATHER_TIMER (R344): the oldest waiting thread of an entry was accepted 256 clk ago. Of several such entries
of a core the one whose thread was accepted first goes first (R442). DESIGN CHOICE, unsafe (log 15). -/
def gatherTimer (s : State) : Option State :=
  let core := s.sched.arg.a
  let l := s.sched.arg.b
  let e := s.sched.arg.c
  if 256 ≤ core || !s.overdue core l e || s.overdueFirst core ≠ some (l, e) then none
  else some (s.formGroup core l e ((s.waitingAt core l e).take ((s.launch l).groupSize e)))

/-- SPILL_REFILL (R346): threads come back from a core's FIFO in a spill queue as room frees, and may complete
groups. -/
def spillRefill (s : State) : Option State :=
  let core := s.sched.arg.a
  let q := s.sched.arg.b
  if s.spilled q core = [] || 2048 ≤ (s.core core).spawnQ.length || 256 ≤ core then none
  else
    let s := s.refillSpawn q core 2048
    some ((((s.core core).spawnQ.map fun i => (i.launch, i.e)).eraseDups).foldl (fun s p => s.gather core p.1 p.2 false 2049) s)

/-! ### Eviction and reload (R354, R355) -/

/-- The size of a beam's park record. -/
def parkRecord (nv ns : Nat) : Nat := roundUp (8 * slotBytes nv ns + 512) 1024

/-- Bytes of a context's park area on a die that records take. DEDUCED, unsafe (log 51). -/
def State.parkUsed (s : State) (ctx die : Nat) : Nat :=
  (s.beams.filter fun b => b.2.evicted ≠ [] && coreOf b.1 < 256 && coreOf b.1 % 32 / 16 == die && s.bctx b.1 == ctx).foldl
    (fun n b => n + parkRecord (s.wg b.2.wg).nv (s.wg b.2.wg).ns) 0
/-- Bytes of the park area (R247). -/
def State.parkSize (s : State) (ctx : Nat) : Nat := 4 * 2 ^ 20 * bits (s.ctxReg ctx 0x103).toNat 7 4

/-- PARKED beams of a context on a core, longest-parked first (R354): of launched workgroups as of spawned ones.
DEDUCED, unsafe (log 51). -/
def State.evictable (s : State) (core ctx : Nat) : List Nat :=
  let bs := s.beams.filter fun b =>
    coreOf b.1 == core && b.2.st == .parked && s.bctx b.1 == ctx && !s.loadsOut b.1
  ((List.range bs.length).foldl (fun (r : List (Nat × Beam) × List (Nat × Beam)) _ =>
    match r.1.foldl (fun m x => match m with
      | none => some x
      | some y => if x.2.parkedAt < y.2.parkedAt then some x else some y) (none : Option (Nat × Beam)) with
    | some x => (r.1.filter fun y => y.1 ≠ x.1, r.2 ++ [x])
    | none => r) (bs, [])).2.map (·.1)

/-- The number that stands for the slot of an evicted beam's thread t in the lists of an open BRW (MODEL). -/
def awaySlot (uid t : Nat) : Nat := 512 + 8 * uid + t

/-- Evict a beam: its threads go to the park record. DEDUCED, unsafe (log 51). -/
def State.evict (s : State) (bk : Nat) : State :=
  let b := s.beam bk
  let ts := (List.range 8).map fun t => match b.list.getD t none with
    | some sl => look s.threads (coreOf bk * 512 + sl)
    | none => none
  let ths := (List.range 8).foldl (fun m t => match b.list.getD t none with
    | some sl => del m (coreOf bk * 512 + sl)
    | none => m) s.threads
  let out := fun (sl : Nat) => match b.list.idxOf? (some sl) with
    | some t => awaySlot b.uid t
    | none => sl
  let s := { s with threads := ths }.modWg b.wg fun g => { g with brw := g.brw.map fun (w : Brw) => w.renamed out }
  s.modBeam bk fun b => { b with st := .evicted, evicted := ts, list := [] }

/-- One thread slot in each bank for a beam of a budget: none where they do not fit. -/
def State.oneBeam (s : State) (core nv ns : Nat) : Option (List Nat) :=
  let u := s.useWith core s.allHolds
  let banks := (List.range 8).map fun i => u.bankSlots i 1 (slotBytes nv ns)
  if banks.any (·.isNone) then none else some (banks.map fun x => (x.getD []).headD 0)

/-- Put an evicted beam's threads back into slots. -/
def State.reload (s : State) (bk : Nat) (slots : List Nat) (w : Wait) : State :=
  let b := s.beam bk
  let core := coreOf bk
  let ths := (List.range 8).foldl (fun m t => match b.evicted.getD t none with
    | some x => put m (core * 512 + slots.getD t 0) x
    | none => m) s.threads
  let back := fun (sl : Nat) => if awaySlot b.uid 0 ≤ sl ∧ sl < awaySlot b.uid 8 then slots.getD (sl - awaySlot b.uid 0) 0 else sl
  let s := { s with threads := ths }.modWg b.wg fun g => { g with brw := g.brw.map fun (w : Brw) => w.renamed back }
  (s.modBeam bk fun b =>
    { b with st := .ready, wait := w, evicted := [],
             list := (List.range 8).map fun t => if (b.evicted.getD t none).isSome then slots[t]? else none }).bind bk

/-- PARK_RELOAD (R354): the oldest evicted beam whose event has happened comes back, when its slots fit.
DEDUCED, unsafe (log 51). -/
def parkReload (s : State) : Option State :=
  let core := s.sched.arg.a
  match oldest (s.beams.filter fun b => coreOf b.1 == core && b.2.st == .evicted && (s.eventCome b.1).isSome) with
  | none => none
  | some (bk, b) =>
    match s.eventCome bk, s.oneBeam core (s.wg b.wg).nv (s.wg b.wg).ns with
    | some w, some slots => some (s.reload bk slots w)
    | _, _ => none

/-! ### Placing spawn groups (R345) -/

/-- Beams of a formed group. DEDUCED, unsafe (log 50). -/
def Group.beams (g : Group) : Nat := (g.items.length + 7) / 8

/-- Resources for a group on its core. -/
def State.groupFit (s : State) (core : Nat) (g : Group) : Option (List Nat × List Nat × Nat) :=
  let x := s.launch g.launch
  match x.obj.spawns[g.e]? with
  | none => none
  | some en =>
    if s.splitOk core x.ctx s.allHolds then
      (s.useWith core s.allHolds).fit en.nv en.ns g.beams (spadNeed (s.trapBase x.ctx) en.spad g.beams) (65536 * s.split x.ctx) 0
    else none

/-- A spawn workgroup (R345). DEDUCED, unsafe (log 50). -/
def State.placeGroup (s : State) (core : Nat) (g : Group) (f : List Nat × List Nat × Nat) : State :=
  let x := s.launch g.launch
  match x.obj.spawns[g.e]? with
  | none => s
  | some en =>
    let b : Birth :=
      { pc := x.lrec.code + en.pc,
        k := [(0, x.lrec.parm), (1, x.lrec.parm / 2 ^ 32), (2, g.num), (3, 2 ^ 16 * g.beams), (4, 16 * x.lrec.nest + 256 * g.e)],
        key := x.lrec.key (2 ^ 62 + g.e * 2 ^ 57 + g.num % 2 ^ 50 * 2 ^ 5),
        tag := bit x.lrec.flags 4,
        threads := fun b t => (g.items[8 * b + t]?).map fun it => (spawnIdent it.num, it.join, it.payload) }
    let w : Wg :=
      { gang := g.gang, launch := g.launch, kind := .spawn g.e g.num, fixedVar := true, nv := en.nv, ns := en.ns,
        spadBase := f.2.2, spadSize := 4096 * en.spad }
    let s := s.modCore core fun c => { c with groups := c.groups.drop 1 }
    (s.birthWg core w f.1 f.2.1 b).1

/-- Place a group, evicting beams one by one where register space is short: none where nothing helps. -/
def State.tryGroup (s : State) (core : Nat) (g : Group) : Nat → Option State
  | 0 => none
  | n + 1 =>
    match s.groupFit core g with
    | some f => some (s.placeGroup core g f)
    | none =>
      let x := s.launch g.launch
      let es := s.evictable core x.ctx
      match es with
      | [] => none
      | bk :: _ =>
        if ((es.foldl State.evict s).groupFit core g).isNone then none
        else
          let w := s.wg (s.beam bk).wg
          if s.parkUsed x.ctx (core % 32 / 16) + parkRecord w.nv w.ns > s.parkSize x.ctx then
            some (s.launchTrap g.launch Code.parkExhausted 0)
          else (s.evict bk).tryGroup core g n

/-- SPAWN_GROUP_PLACE (R344, R345): groups are placed in the order they were formed. -/
def groupPlace (s : State) : Option State :=
  let core := s.sched.arg.a
  match (s.core core).groups with
  | [] => none
  | g :: _ => if (s.gang g.gang).st = .placed && (s.launch g.launch).trapped.isNone then s.tryGroup core g 65 else none

/-! ### Bins (R357, R359) -/

/-- BIN_FIRE_TIMER (R357): not under MIR. DESIGN CHOICE, unsafe (log 15). DEDUCED, unsafe (log 50). -/
def binTimer (s : State) : Option State :=
  let l := s.sched.arg.a
  let x := s.launch l
  match x.openBin s.sched.arg.b, x.obj.nodes[s.sched.arg.b]? with
  | some b, some n => if !x.mir && b.opened + 1000 * n.timer ≤ s.now then some (s.fireBin l b true) else none
  | _, _ => none

/-- The cores of a footprint in row-major order. -/
def LRec.cores (r : LRec) : List Nat :=
  (List.range (2 ^ r.fh)).flatMap fun j => (List.range (2 ^ r.fw)).map fun i => 32 * (r.y0 + j) + r.x0 + i

/-- A workgroup for a fired bin on a core, with its records in the scratchpad (R359).
DEDUCED, unsafe (log 50). -/
def State.placeBin (s : State) (l core : Nat) (b : Bin) (n : Node) (f : Nat × List Nat × List Nat × Nat) : State :=
  let x := s.launch l
  let v := (x.obj.variants[f.1]?).getD { nv := 64, ns := 64, beams := 1, spad := 0 }
  let pc := x.lrec.code + (((x.obj.entries[n.entry]?).map (·.offs)).getD []).getD f.1 0
  let k2 := b.num % 2 ^ 32
  let bi : Birth :=
    { pc := pc,
      k := [(0, x.lrec.parm), (1, x.lrec.parm / 2 ^ 32), (2, k2), (3, 2 ^ 16 * v.beams), (4, 16 * x.lrec.nest + 256 * b.node)],
      key := x.lrec.key (2 ^ 63 + b.node * 2 ^ 55 + k2 % 2 ^ 50 * 2 ^ 5),
      tag := bit x.lrec.flags 4,
      threads := fun b' t => some (launchIdent (b.num % 2 ^ 20) 0 (8 * b' + t), none, firstS b' t) }
  let (id, s) := s.fresh
  let s := { s with gangs := put s.gangs id { launch := l, x := core % 32, y := core / 32, placed := id } }
  let g : Wg :=
    { gang := id, launch := l, kind := .bin b.node b.num b.recs.length b.byTimer, variant := f.1, nv := v.nv, ns := v.ns,
      spadBase := f.2.2.2, spadSize := 4096 * v.spad }
  let (s, _) := s.birthWg core g f.2.1 f.2.2.1 bi
  let slot := n.ring + b.slot * n.slotSize
  let recs := s.mem.read slot (b.recs.length * n.size * 16)
  let s := s.storeS ((List.range recs.length).map fun i => sramKey core f.2.2.2 + i) recs
  s.modLaunch l fun x => { x with bins := x.bins.filter fun y => !y.same b }

/-- BIN_LAUNCH (R359): fired bins in firing order. -/
def binLaunch (s : State) : Option State :=
  let l := s.sched.arg.a
  let x := s.launch l
  let first := (x.bins.filter (·.fired)).foldl (fun m b => match m with
    | none => some b
    | some y => if b.order < y.order then some b else some y) (none : Option Bin)
  match first with
  | none => none
  | some b =>
    match x.obj.nodes[b.node]? with
    | none => none
    | some n =>
      if x.trapped.isSome || x.suspended then none
      else (x.lrec.cores.findSome? fun c => (s.fitVariant l c s.allHolds none).map fun f => (c, f)).map fun r =>
        s.placeBin l r.1 b n r.2

/-! ### Switch requests (R135) -/

/-- A workgroup that may be asked to switch: of a variant, not fixed, its core free of requests. -/
def State.maySwitch (s : State) (g : Wg) : Bool :=
  (match g.kind with
    | .spawn _ _ => false
    | _ => true)
  && !g.retired && !g.fixedVar && !(s.wgs.any fun y => y.2.core == g.core && y.2.swreq.getLsbD 0)
  && (s.gang g.gang).st == .placed

/-- What a core uses without one workgroup's own beams, threads and scratchpad. -/
def State.useWithout (s : State) (wg core : Nat) : CoreUse :=
  let s' := { s with beams := s.beams.filter fun b => b.2.wg ≠ wg, threads := s.threads.filter fun t => t.2.wg ≠ wg,
                     wgs := del s.wgs wg }
  s'.useWith core s'.allHolds

/-- The target's resources for a workgroup, beside what its core has in use and holds, and the place of its
scratchpad where the target's size fits there (R129, R135, R136). DEDUCED, unsafe (log 52). -/
def State.switchFit (s : State) (wg m : Nat) : Option SwHold :=
  let g := s.wg wg
  let x := s.launch g.launch
  match x.obj.variants[m]? with
  | none => none
  | some v =>
    let u := s.useWithout wg g.core
    let size := roundUp (4096 * v.spad + g.regionSize) 4096
    let base := (u.spadBase size (65536 * s.split x.ctx)).map fun b => if u.clear g.spadBase size then g.spadBase else b
    let banks := (List.range 8).map fun i => u.bankSlots i v.beams (slotBytes v.nv v.ns)
    let own := g.beams.map (· % 64)
    let free := (List.range 64).filter fun i => !u.beams.contains i
    if free.length < v.beams + x.lrec.sresv || banks.any (·.isNone) then none
    else base.map fun base =>
      { beams := (free.filter fun i => !own.contains i).take (v.beams - own.length),
        slots := (List.range v.beams).flatMap fun b => (List.range 8).map fun i => (((banks.getD i none).getD []).getD b 0),
        spadBase := base, spadSize := size }

/-- Set the request and hold the target's resources. DEDUCED, unsafe (log 52). -/
def State.setSwreq (s : State) (wg m : Nat) (h : SwHold) : State :=
  s.modWg wg fun g => { g with swreq := BitVec.ofNat 8 (1 + 2 * m), swHold := some h }

/-- The oldest launch whose next gang waits for this core, be it in its backoff. -/
def State.waiterAt (s : State) (core : Nat) : Option (Nat × Launch) :=
  (s.launches.filter fun l => s.unplaced l.1 && l.2.lrec.cores.contains core).foldl (fun m x => match m with
    | none => some x
    | some y => if x.2.age < y.2.age then some x else some y) none

/-- The waiter's workgroups of the gang that would cover this core fit, once a workgroup has switched. -/
def State.helps (s : State) (l : Nat) (x : Launch) (wg m : Nat) (h : SwHold) : Bool :=
  let g := s.wg wg
  let v := (((s.launch g.launch).obj.variants[m]?).getD { nv := 0, ns := 0, beams := 0, spad := 0 })
  let (w, hh) := shapeOf x.lrec.gshp
  let pos := (g.core / 32 % hh) * w + g.core % 32 % w
  let s' := s.modWg wg fun g => { g with nv := v.nv, ns := v.ns, spadBase := h.spadBase, spadSize := 4096 * v.spad, swHold := some { h with slots := [] } }
  let s' := (s'.endPast wg v.beams).moveThreads (g.beams.take v.beams) h.slots
  (s.holdCore l x.nextG g.core pos s.allHolds []).isNone && (s'.holdCore l x.nextG g.core pos s'.allHolds []).isSome

/-- The running workgroup a dispatcher asks to make room: of the lowest priority, and of those the most
recently placed, chosen among all that may be asked. DEDUCED, unsafe (log 52). DESIGN CHOICE, unsafe (log 124). -/
def State.shrinkable (s : State) (core prio : Nat) : Option Nat :=
  let gs := s.wgs.filter fun g => g.2.core == core && s.maySwitch g.2 && prio ≤ (s.launch g.2.launch).lrec.prio
  (gs.foldl (fun m x => match m with
    | none => some x
    | some y =>
      let px := (s.launch x.2.launch).lrec.prio
      let py := (s.launch y.2.launch).lrec.prio
      if py < px || (px == py && y.2.placed < x.2.placed) then some x else some y) (none : Option (Nat × Wg))).map (·.1)

/-- SWREQ_SET (R135): up to the lowest variant that fits, or down to the lowest that makes room.
DEDUCED, unsafe (log 52). -/
def swreqSet (s : State) : Option State :=
  let wg := s.sched.arg.a
  match look s.wgs wg with
  | none => none
  | some g =>
    if !s.maySwitch g then none
    else
      let up := (List.range g.variant).findSome? fun m => (s.switchFit wg m).map fun h => (m, h)
      match up with
      | some (m, h) => some (s.setSwreq wg m h)
      | none =>
        match s.waiterAt g.core with
        | none => none
        | some (l, x) =>
          if s.shrinkable g.core x.lrec.prio ≠ some wg then none
          else
            let n := (s.launch g.launch).obj.variants.length
            ((List.range n).findSome? fun m =>
              if m ≤ g.variant then none
              else (s.switchFit wg m).bind fun h => if s.helps l x wg m h then some (m, h) else none).map fun r => s.setSwreq wg r.1 r.2

/-- SPAWN_GATHER_TIMER (R344). -/
def execSpawnGatherTimer (s : State) : Host.Outcome State Fault Refusal := event s gatherTimer
/-- SPAWN_GROUP_PLACE (R345). -/
def execSpawnGroupPlace (s : State) : Host.Outcome State Fault Refusal := event s groupPlace
/-- PARK_RELOAD (R354). -/
def execParkReload (s : State) : Host.Outcome State Fault Refusal := event s parkReload
/-- SPILL_REFILL (R346). -/
def execSpillRefill (s : State) : Host.Outcome State Fault Refusal := event s spillRefill
/-- BIN_FIRE_TIMER (R357). -/
def execBinFireTimer (s : State) : Host.Outcome State Fault Refusal := event s binTimer
/-- BIN_LAUNCH (R359). -/
def execBinLaunch (s : State) : Host.Outcome State Fault Refusal := event s binLaunch
/-- SWREQ_SET (R135). -/
def execSwreqSet (s : State) : Host.Outcome State Fault Refusal := event s swreqSet

end Sys2Proof.Machine
end

