-- ==== Sys2Proof/Machine/Predicate.lean ====
section
/-! DEFINITION. The predicate instructions of chapter 6: PSET, the predicate logic, PMOV, VOTE, ELECT and
ACTMASK (R161 to R164). -/

namespace Sys2Proof.Machine

/-- A predicate position in thread t (R65): a kp source is broadcast; codes 4 to 6 of a uniform position
are no predicate, 7 is true. -/
def State.predOf (s : State) (f : RF) (t : Nat) : Bool :=
  match f with
  | .t n => (s.th t).getP n.toNat
  | .k n => s.cb.getKp n.toNat

/-- Write a predicate: p in each taking-part thread, kp once. -/
def State.putPred (s : State) (h : Hd) (d : RF) (f : Nat → Bool) : State :=
  match d with
  | .k n => if s.acts h then s.modCb fun b => b.setKp n.toNat (f (lowest (s.part h))) else s
  | .t n => (bitsOf (s.part h)).foldl (fun r t => r.modTh t fun x => x.setP n.toNat (f t)) s

/-- The condition of PSET on two 32-bit elements of ty (R162). -/
def psetCond (ty : Ty) (c a b : Nat) : WithFx Bool :=
  match ty with
  | .f32 => condF c (decodeF .f32 false a) (decodeF .f32 false b)
  | .n32 => (condOrd c (compare (a % 2 ^ 32) (b % 2 ^ 32)), 0)
  | _ => (condI c 32 a b, 0)

/-- PSET (R162). -/
def psetEffect (h : Hd) (z : ZF) (s : State) : R State := do
  let a : Src := { f := z.a, v := false, want := .ty z.ty }
  let b : Src := { f := z.b, v := false, want := .ty z.ty }
  s.checkSrcs (s.part h) [a, b]
  let res := fun t =>
    let x := s.srcElems a t
    let y := s.srcElems b t
    let r := psetCond z.ty z.x30 (e0 x.1) (e0 y.1)
    let c := s.predOf z.c t
    let comb := z.opx.toNat / 16
    ((if comb = 1 then r.1 && c else if comb = 2 then r.1 || c else r.1), r.2 ||| x.2 ||| y.2)
  let s' := s.putPred h z.d fun t => (res t).1
  .ok (if z.d.isK && !s.acts h then s else s'.orFx (s.part h) fun t => (res t).2)

/-- PAND, POR, PXOR (R161). -/
def logicEffect (op : Bool → Bool → Bool) (h : Hd) (z : ZF) (s : State) : R State :=
  .ok (s.putPred h z.d fun t =>
    op (s.predOf z.a t != z.opx.getLsbD 0) (s.predOf z.b t != z.opx.getLsbD 1))

/-- PMOV (R163). -/
def pmovEffect (h : Hd) (z : ZF) (s : State) : R State :=
  match z.opx.toNat with
  | 0 => .ok (s.putPred h z.d fun t => s.predOf z.a t)
  | 1 => do
    s.sIn z.d
    if z.d.isK && !s.acts h then .ok s
    else .ok (s.putD (s.part h) z.d
      (fun t => if z.d.isK then s.cb.kp.zeroExtend 32 else (s.th t).p.zeroExtend 32) 9)
  | _ => do
    s.sIn z.a
    match z.a with
    | .k n => .ok (if s.acts h then s.modCb fun b => { b with kp := (b.getK n.toNat).setWidth 4 } else s)
    | .t n => .ok (eachT (s.part h) s fun s t => s.modTh t fun x => { x with p := (x.getS n.toNat).setWidth 7 })

/-- The value VOTE looks at in a thread (R164). -/
def State.voteOf (s : State) (z : ZF) (t : Nat) : Bool :=
  let src := z.opx.toNat % 8
  if src = 0 then s.predOf z.a t else (s.th t).fx.getLsbD (src - 1)

/-- VOTE (R164). A p or s destination is written in every taking-part thread; a kp or k destination
once, where the word takes effect. DEDUCED, unsafe (log 28). -/
def voteEffect (h : Hd) (z : ZF) (s : State) : R State := do
  let m := s.part h
  let yes := mask8 fun t => m.getLsbD t && s.voteOf z t
  let cnt := (bitsOf yes).length
  let some_ := fun v : Bool => .ok (s.putPred h z.d fun _ => v)
  let word := fun v : W32 => do
    s.sIn z.d
    if z.d.isK && !s.acts h then .ok s else .ok (s.putD m z.d (fun _ => v) 9)
  match z.opx.toNat / 8 with
  | 0 => some_ (yes ≠ 0)
  | 1 => some_ (yes == m)
  | 2 => some_ (yes == m || yes == 0)
  | 3 => word (BitVec.ofNat 32 cnt)
  | _ => word (yes.zeroExtend 32)

/-- ELECT (R164). DEDUCED, unsafe (log 28). -/
def electEffect (h : Hd) (z : ZF) (s : State) : R State :=
  let m := s.part h
  if z.opx = 0 then .ok (s.putPred h z.d fun t => z.d.isK || t == lowest m)
  else .ok (if s.acts h then s.putD m z.d (fun _ => BitVec.ofNat 32 (lowest m)) 9 else s)

/-- ACTMASK (R164). -/
def actmaskEffect (h : Hd) (z : ZF) (s : State) : R State := do
  s.sIn z.d
  let v : W32 := (if z.opx.getLsbD 0 then s.cb.live else s.cb.active).zeroExtend 32
  if z.d.isK && !s.acts h then .ok s else .ok (s.putD (s.part h) z.d (fun _ => v) 9)

/-- PSET (R162). -/
def execPset (h : Hd) (f : ZF) (s : State) : Host.Outcome State Fault Refusal := issue s (psetEffect h f)
/-- PAND (R161). -/
def execPand (h : Hd) (f : ZF) (s : State) : Host.Outcome State Fault Refusal := issue s (logicEffect (· && ·) h f)
/-- POR (R161). -/
def execPor (h : Hd) (f : ZF) (s : State) : Host.Outcome State Fault Refusal := issue s (logicEffect (· || ·) h f)
/-- PXOR (R161). -/
def execPxor (h : Hd) (f : ZF) (s : State) : Host.Outcome State Fault Refusal := issue s (logicEffect (· != ·) h f)
/-- PNOT (R161). -/
def execPnot (h : Hd) (f : ZF) (s : State) : Host.Outcome State Fault Refusal :=
  issue s fun s => .ok (s.putPred h f.d fun t => !s.predOf f.a t)
/-- PMOV (R163). -/
def execPmov (h : Hd) (f : ZF) (s : State) : Host.Outcome State Fault Refusal := issue s (pmovEffect h f)
/-- VOTE (R164). -/
def execVote (h : Hd) (f : ZF) (s : State) : Host.Outcome State Fault Refusal := issue s (voteEffect h f)
/-- ELECT (R164). -/
def execElect (h : Hd) (f : ZF) (s : State) : Host.Outcome State Fault Refusal := issue s (electEffect h f)
/-- ACTMASK (R164). -/
def execActmask (h : Hd) (f : ZF) (s : State) : Host.Outcome State Fault Refusal := issue s (actmaskEffect h f)

end Sys2Proof.Machine
end

