-- ==== Sys2Proof/Machine/Integer.lean ====
section
/-! DEFINITION. The integer and address instructions of chapter 7 (R165 to R179). -/

namespace Sys2Proof.Machine

open Sys2Proof.ZF

/-- An element function: operands, then the element width. -/
abbrev ElemFn := Ty → Nat → Nat → Nat → WithFx Nat

/-- Write an exact result: clamped with SAT under .sat, wrapped otherwise (R170). -/
def fit (ty : Ty) (sat : Bool) (r : Int) : WithFx Nat :=
  if sat then let (v, o) := clampI ty r; (wrap ty.width v, if o then Fx.sat else 0) else (wrap ty.width r, 0)

def shiftAmount (w b : Nat) : Nat := b % w

/-- a / 2^n rounded to nearest, ties to even (R173). -/
def sraRn (a : Int) (n : Nat) : Int :=
  let q := a / 2 ^ n
  let r := a % 2 ^ n
  if 2 * r > 2 ^ n ∨ (2 * r = 2 ^ n ∧ q % 2 = 1) then q + 1 else q

/-- Truncating division with the corner cases of R172. -/
def divI (ty : Ty) (a b : Int) : Int :=
  if b = 0 then (if Ty.isSigned ty then -1 else maxOf ty) else a.tdiv b
def remI (a b : Int) : Int := if b = 0 then a else a.tmod b
/-- The cases that IDIVTRAP traps. -/
def divBad (ty : Ty) (a b : Int) : Bool := b == 0 || (Ty.isSigned ty && a == minOf ty && b == -1)

def clz (w x : Nat) : Nat := w - (if x % 2 ^ w = 0 then 0 else Nat.log2 (x % 2 ^ w) + 1)
def popc (w x : Nat) : Nat := popBelow x w
def brev (w x : Nat) : Nat := (List.range w).foldl (fun r j => if bit x j then r + 2 ^ (w - 1 - j) else r) 0
def rot (w x n : Nat) : Nat := let y := x % 2 ^ w; (y * 2 ^ n + y / 2 ^ (w - n)) % 2 ^ w

/-- pos and L of a bit field (R175). -/
def fieldPos (b : Nat) : Nat := b % 32
def fieldLen (b : Nat) : Nat := min (bits b 13 8) (32 - fieldPos b)

/-- The natural reading of an element. -/
def natF (f : Ty → Nat → Nat → Nat) : ElemFn := fun ty a b _ => (f ty a b % 2 ^ ty.width, 0)
/-- The exact signed or natural result, wrapped or saturated. -/
def intF (sat : Bool) (f : Int → Int → Int → Int) : ElemFn :=
  fun ty a b c => fit ty sat (f (intOf ty a) (intOf ty b) (intOf ty c))

/-- What a source of an integer row is checked as (R167): arithmetic rows by type, bits rows not at all. -/
def wantOf (bits : Bool) (ty : Ty) : Want := if bits then .bits ty.width else .ty ty

/-- A Z-form integer row. -/
def intRow (h : Hd) (z : ZF) (a b c : Option Want) (fn : ElemFn) (s : State) : R State :=
  let xs := [(a.map (srcA z)), (b.map (srcB z)), (c.map (srcC z))].filterMap id
  s.elementwise h z.d z.V xs z.ty.width (Sys2Proof.Ty.tag z.ty) false none fun l _ _ => fn z.ty (e0 l) (e1 l) (e2 l)

/-- A row of one or two checked sources. -/
def arith2 (fn : ElemFn) (h : Hd) (z : ZF) (s : State) : R State := intRow h z (some (.ty z.ty)) (some (.ty z.ty)) none fn s
def arith1 (fn : ElemFn) (h : Hd) (z : ZF) (s : State) : R State := intRow h z (some (.ty z.ty)) none none fn s
/-- A row of bits sources. -/
def bits2 (fn : ElemFn) (h : Hd) (z : ZF) (s : State) : R State :=
  intRow h z (some (.bits z.ty.width)) (some (.bits z.ty.width)) none fn s
def bits1 (fn : ElemFn) (h : Hd) (z : ZF) (s : State) : R State := intRow h z (some (.bits z.ty.width)) none none fn s

/-! ### Element functions of R169 -/

def fAdd (sat : Bool) : ElemFn := intF sat fun a b _ => a + b
def fSub (sat : Bool) : ElemFn := intF sat fun a b _ => a - b
def fMul (sat : Bool) : ElemFn := intF sat fun a b _ => a * b
def fMad (sat : Bool) : ElemFn := intF sat fun a b c => a * b + c
def fMulh : ElemFn := fun ty a b _ => (wrap ty.width (intOf ty a * intOf ty b / 2 ^ ty.width), 0)
def fMin : ElemFn := intF false fun a b _ => min a b
def fMax : ElemFn := intF false fun a b _ => max a b
def fDiv : ElemFn := fun ty a b _ => (wrap ty.width (divI ty (intOf ty a) (intOf ty b)), 0)
def fRem : ElemFn := fun ty a b _ => (wrap ty.width (remI (intOf ty a) (intOf ty b)), 0)
def fAnd : ElemFn := natF fun _ a b => a &&& b
def fOr : ElemFn := natF fun _ a b => a ||| b
def fXor : ElemFn := natF fun _ a b => a ^^^ b
def fNot : ElemFn := natF fun ty a _ => 2 ^ ty.width - 1 - a % 2 ^ ty.width
def fShl : ElemFn := natF fun ty a b => a * 2 ^ shiftAmount ty.width b
def fShr : ElemFn := natF fun ty a b => a / 2 ^ shiftAmount ty.width b
def fRot : ElemFn := natF fun ty a b => rot ty.width a (shiftAmount ty.width b)
def fSra (rn : Bool) : ElemFn := fun ty a b _ =>
  let n := shiftAmount ty.width b
  (wrap ty.width (if rn then sraRn (sext ty.width a) n else sext ty.width a / 2 ^ n), 0)
def fIset (c : Nat) : ElemFn := fun ty a b _ => (if condI c ty.width a b then 2 ^ ty.width - 1 else 0, 0)

/-! ### Rows with rules of their own -/

/-- IADDC (R170). -/
def iaddcEffect (h : Hd) (z : ZF) (s : State) : R State :=
  intRow h z (some (.ty z.ty)) (some (.ty z.ty)) (some (.ty z.ty))
    (fun _ a b c => let r := a + b + c % 2; (if z.opx.getLsbD 0 then r / 2 ^ 32 else r % 2 ^ 32, 0)) s

/-- IDIV and IREM (R172): INT_DIVIDE under IDIVTRAP, tags and indices being tested first.
DESIGN CHOICE, unsafe (log 123). -/
def divEffect (fn : ElemFn) (h : Hd) (z : ZF) (s : State) : R State := do
  let a := srcA z (.ty z.ty)
  let b := srcB z (.ty z.ty)
  s.regIn z.d z.V
  s.checkSrcs (s.part h) [a, b]
  let bad := fun t => ((s.srcElems a t).1.zip (s.srcElems b t).1).any fun p => divBad z.ty (intOf z.ty p.1) (intOf z.ty p.2)
  let m := mask8 fun t => (s.part h).getLsbD t && bad t
  need (!s.cb.idivTrap || m = 0) Code.intDivide m
  arith2 fn h z s

/-- What a move copies from a source: bits and tag; a k source has tag 15, and fills every 32-bit element of a v
register, whatever ty is. DEDUCED, unsafe (log 22). -/
def State.copied (s : State) (x : Src) (t : Nat) : Out :=
  let r := s.regOf x t
  if x.f.isK then { val := if x.v then ofElems 32 (List.replicate 8 r.1) else r.1, tag := 15 } else { val := r.1, tag := r.2 }

/-- MOV (R174): bits and tag. -/
def movEffect (h : Hd) (z : ZF) (s : State) : R State := do
  s.regIn z.d z.V
  s.regIn z.a z.V
  .ok (s.putOut h z.d z.V (s.copied (srcA z (.bits 32))))

/-- SEL (R174). -/
def selEffect (h : Hd) (z : ZF) (s : State) : R State := do
  s.regIn z.d z.V
  s.regIn z.a z.V
  s.regIn z.b z.V
  .ok (s.putOut h z.d z.V fun t =>
    s.copied (if s.predOf z.c t then srcA z (.bits 32) else srcB z (.bits 32)) t)

/-- BFX and BFI (R175): lengths above 32 are illegal, tags and indices being tested first.
DESIGN CHOICE, unsafe (log 123). -/
def fieldEffect (ins : Bool) (h : Hd) (z : ZF) (s : State) : R State := do
  let chk : Want := if z.ty = .b32 then .bits 32 else .ty z.ty
  let a := srcA z chk
  let b := srcB z (.bits 32)
  let c := srcC z chk
  s.regIn z.d z.V
  s.checkSrcs (s.part h) (if ins then [a, b, c] else [a, b])
  let m := mask8 fun t => (s.part h).getLsbD t && (s.srcElems b t).1.any fun y => bits y 13 8 > 32
  need (m = 0) Code.illegalInstruction m
  intRow h z (some chk) (some (.bits 32)) (if ins then some chk else none) (fun _ a b c =>
    let p := fieldPos b
    let l := fieldLen b
    if ins then (c - c / 2 ^ p % 2 ^ l * 2 ^ p + a % 2 ^ l * 2 ^ p, 0)
    else if l = 0 then (0, 0)
    else (if z.ty = .s32 then wrap 32 (sext l (a / 2 ^ p)) else a / 2 ^ p % 2 ^ l, 0)) s

/-- The body of IDP2: 16-bit operands come as halves, so it works on whole registers. A k source fills both halves
with its low bits. DEDUCED, unsafe (log 104). -/
def idp2 (a b c : List Nat) (n : Nat) : WithFx Nat :=
  let rs := (List.range n).map fun i =>
    let p := fun j => sext 16 (a.getD j 0) * sext 16 (b.getD j 0)
    fit .s32 true (sext 32 (c.getD i 0) + p (2 * i) + p (2 * i + 1))
  (ofElems 32 (rs.map (·.1)), orAll (rs.map (·.2)))

def idp2Row (h : Hd) (z : ZF) (s : State) : R State := do
  let a := srcA z (.ty .s16)
  let b := srcB z (.ty .s16)
  let c := srcC z (.ty .s32)
  s.regIn z.d z.V
  s.checkSrcs (s.part h) [a, b, c]
  .ok (s.putOut h z.d z.V fun t =>
    let x := s.srcElems a t
    let y := s.srcElems b t
    let w := s.srcElems c t
    let r := idp2 x.1 y.1 w.1 (if z.V then 8 else 1)
    { val := r.1, fl := r.2 ||| x.2 ||| y.2 ||| w.2, tag := 9 })

/-- The wider type INARROW reads (R178). -/
def widerTy (ty : Ty) (natural : Bool) : Ty :=
  if ty.width = 16 then (if natural then .n32 else .s32) else (if natural then .n16 else .s16)

/-- INARROW (R178): the elements of a, then those of b, clamped to ty. -/
def inarrowEffect (h : Hd) (z : ZF) (s : State) : R State := do
  let wt := widerTy z.ty (z.opx.getLsbD 0)
  let a := srcA z (.ty wt)
  let b := srcB z (.ty wt)
  s.regIn z.d z.V
  s.checkSrcs (s.part h) [a, b]
  .ok (s.putOut h z.d z.V fun t =>
    let x := s.srcElems a t
    let y := s.srcElems b t
    let rs := (x.1 ++ y.1).map fun e => fit z.ty true (intOf wt e)
    { val := ofElems z.ty.width (rs.map (·.1)), fl := orAll (rs.map (·.2)) ||| x.2 ||| y.2, tag := Sys2Proof.Ty.tag z.ty })

/-! ### Pair forms (R171) -/

/-- A pair field as 64 bits. -/
def State.pairOf (s : State) (f : RF) (t : Nat) : Nat :=
  match f with
  | .k n => s.cb.kPair n.toNat
  | .t n => (s.th t).sPair n.toNat

/-- Write a 64-bit result and flags to a pair, with tag 15. -/
def State.putPairF (s : State) (h : Hd) (d : RF) (f : Nat → WithFx Nat) : State :=
  let m := s.part h
  match d with
  | .k n =>
    if s.acts h then
      let r := f 0
      (s.modCb fun b => (b.setK n.toNat (BitVec.ofNat 32 r.1)).setK (n.toNat + 1) (BitVec.ofNat 32 (r.1 / 2 ^ 32))).orFx m fun _ => r.2
    else s
  | .t n => (bitsOf m).foldl (fun q t =>
      let r := f t
      q.modTh t fun x => ((x.orFx r.2).setS n.toNat (BitVec.ofNat 32 r.1) 15).setS (n.toNat + 1) (BitVec.ofNat 32 (r.1 / 2 ^ 32)) 15) s

/-- IMUL64: the single sources are checked as 32-bit integers. -/
def imul64Effect (h : Hd) (z : ZF) (s : State) : R State := do
  let a := srcA z (.ty z.ty)
  let b := srcB z (.ty z.ty)
  s.sSpan z.d 2
  s.checkSrcs (s.part h) [a, b]
  .ok (s.putPairF h z.d fun t =>
    let x := s.srcElems a t
    let y := s.srcElems b t
    (wrap 64 (intOf z.ty (e0 x.1) * intOf z.ty (e0 y.1)), x.2 ||| y.2))

/-- IADD64. -/
def iadd64Effect (h : Hd) (z : ZF) (s : State) : R State := do
  s.sSpan z.d 2
  s.sSpan z.a 2
  s.sSpan z.b 2
  .ok (s.putPairF h z.d fun t => ((s.pairOf z.a t + s.pairOf z.b t) % 2 ^ 64, 0))

/-- LEA (R171). -/
def leaEffect (h : Hd) (z : ZF) (s : State) : R State := do
  let b := srcB z (.ty z.ty)
  s.sSpan z.d 2
  s.sSpan z.a 2
  s.checkSrcs (s.part h) [b]
  .ok (s.putPairF h z.d fun t =>
    let y := s.srcElems b t
    (wrap 64 ((s.pairOf z.a t : Nat) + intOf z.ty (e0 y.1) * 2 ^ (z.opx.toNat % 8)), y.2))

/-! ### Immediate forms (R179) -/

/-- An I form: a from a register, checked or as bits, b from the immediate. -/
def immRow (h : Hd) (f : IF) (ty : Ty) (want : Want) (tag : BitVec 4) (fn : ElemFn) (s : State) : R State :=
  s.elementwise h f.d f.V [{ f := f.a, v := f.V, want := want, ftz := true }] 32 tag false none fun l _ _ =>
    fn ty (e0 l) f.imm.toNat 0

/-- .s32, or .n32 where imx[1] is set. -/
def immTy (f : IF) : Ty := if f.imx.getLsbD 1 then .n32 else .s32

/-- MOVI: the pattern in every element, tag 15. -/
def moviEffect (h : Hd) (f : IF) (s : State) : R State := do
  s.regIn f.d f.V
  .ok (s.putOut h f.d f.V fun _ => { val := ofElems 32 (List.replicate (if f.V then 8 else 1) f.imm.toNat), tag := 15 })

/-- ISET with an immediate: only s and k registers, so imx holds the condition. -/
def isetIEffect (h : Hd) (f : IF) (s : State) : R State :=
  let c := f.imx.toNat
  s.elementwise h f.d false [{ f := f.a, v := false, want := .ty .s32, ftz := true }] 32 9 false none fun l _ _ =>
    (if condI c 32 (e0 l) f.imm.toNat then 2 ^ 32 - 1 else 0, 0)

/-- LEA with a signed addend. -/
def leaIEffect (h : Hd) (f : IF) (s : State) : R State := do
  s.sSpan f.d 2
  s.sSpan f.a 2
  .ok (s.putPairF h f.d fun t => (wrap 64 ((s.pairOf f.a t : Nat) + sext 32 f.imm.toNat), 0))

/-- MOV (R174). -/
def execMov (h : Hd) (f : ZF) (s : State) : Host.Outcome State Fault Refusal := issue s (movEffect h f)
/-- MOVI (R179). -/
def execMovi (h : Hd) (f : IF) (s : State) : Host.Outcome State Fault Refusal := issue s (moviEffect h f)
/-- IADD (R169). -/
def execIadd (h : Hd) (f : ZF) (s : State) : Host.Outcome State Fault Refusal := issue s (arith2 (fAdd f.x4) h f)
/-- IADD with an immediate (R179). -/
def execIaddI (h : Hd) (f : IF) (s : State) : Host.Outcome State Fault Refusal :=
  issue s (immRow h f (immTy f) (.ty (immTy f)) 9 (fAdd (f.imx.getLsbD 2)))
/-- ISUB (R169). -/
def execIsub (h : Hd) (f : ZF) (s : State) : Host.Outcome State Fault Refusal := issue s (arith2 (fSub f.x4) h f)
/-- IADDC (R170). -/
def execIaddc (h : Hd) (f : ZF) (s : State) : Host.Outcome State Fault Refusal := issue s (iaddcEffect h f)
/-- IMUL (R169). -/
def execImul (h : Hd) (f : ZF) (s : State) : Host.Outcome State Fault Refusal := issue s (arith2 (fMul f.x4) h f)
/-- IMUL with an immediate (R179). -/
def execImulI (h : Hd) (f : IF) (s : State) : Host.Outcome State Fault Refusal :=
  issue s (immRow h f (immTy f) (.ty (immTy f)) 9 (fMul (f.imx.getLsbD 2)))
/-- IMULH (R169). -/
def execImulh (h : Hd) (f : ZF) (s : State) : Host.Outcome State Fault Refusal := issue s (arith2 fMulh h f)
/-- IMAD (R169, R170). -/
def execImad (h : Hd) (f : ZF) (s : State) : Host.Outcome State Fault Refusal :=
  issue s (intRow h f (some (.ty f.ty)) (some (.ty f.ty)) (some (.ty f.ty)) (fMad f.x4))
/-- IMUL64 (R171). -/
def execImul64 (h : Hd) (f : ZF) (s : State) : Host.Outcome State Fault Refusal := issue s (imul64Effect h f)
/-- IADD64 (R171). -/
def execIadd64 (h : Hd) (f : ZF) (s : State) : Host.Outcome State Fault Refusal := issue s (iadd64Effect h f)
/-- IDIV (R172). -/
def execIdiv (h : Hd) (f : ZF) (s : State) : Host.Outcome State Fault Refusal := issue s (divEffect fDiv h f)
/-- IREM (R172). -/
def execIrem (h : Hd) (f : ZF) (s : State) : Host.Outcome State Fault Refusal := issue s (divEffect fRem h f)
/-- IMIN (R169). -/
def execImin (h : Hd) (f : ZF) (s : State) : Host.Outcome State Fault Refusal := issue s (arith2 fMin h f)
/-- IMAX (R169). -/
def execImax (h : Hd) (f : ZF) (s : State) : Host.Outcome State Fault Refusal := issue s (arith2 fMax h f)
/-- IABS (R169, R170). -/
def execIabs (h : Hd) (f : ZF) (s : State) : Host.Outcome State Fault Refusal :=
  issue s (arith1 (intF f.x4 fun a _ _ => a.natAbs) h f)
/-- INEG (R169, R170). -/
def execIneg (h : Hd) (f : ZF) (s : State) : Host.Outcome State Fault Refusal :=
  issue s (arith1 (intF f.x4 fun a _ _ => -a) h f)
/-- AND (R169). -/
def execAnd (h : Hd) (f : ZF) (s : State) : Host.Outcome State Fault Refusal := issue s (bits2 fAnd h f)
/-- AND with an immediate (R179). -/
def execAndI (h : Hd) (f : IF) (s : State) : Host.Outcome State Fault Refusal := issue s (immRow h f .n32 (.bits 32) 15 fAnd)
/-- OR (R169). -/
def execOr (h : Hd) (f : ZF) (s : State) : Host.Outcome State Fault Refusal := issue s (bits2 fOr h f)
/-- OR with an immediate (R179). -/
def execOrI (h : Hd) (f : IF) (s : State) : Host.Outcome State Fault Refusal := issue s (immRow h f .n32 (.bits 32) 15 fOr)
/-- XOR (R169). -/
def execXor (h : Hd) (f : ZF) (s : State) : Host.Outcome State Fault Refusal := issue s (bits2 fXor h f)
/-- XOR with an immediate (R179). -/
def execXorI (h : Hd) (f : IF) (s : State) : Host.Outcome State Fault Refusal := issue s (immRow h f .n32 (.bits 32) 15 fXor)
/-- NOT (R169). -/
def execNot (h : Hd) (f : ZF) (s : State) : Host.Outcome State Fault Refusal := issue s (bits1 fNot h f)
/-- SHL (R169). -/
def execShl (h : Hd) (f : ZF) (s : State) : Host.Outcome State Fault Refusal := issue s (bits2 fShl h f)
/-- SHL with an immediate (R179). -/
def execShlI (h : Hd) (f : IF) (s : State) : Host.Outcome State Fault Refusal := issue s (immRow h f .n32 (.bits 32) 9 fShl)
/-- SHR (R169): a checked as its type, the amount with it. -/
def execShr (h : Hd) (f : ZF) (s : State) : Host.Outcome State Fault Refusal := issue s (arith2 fShr h f)
/-- SHR with an immediate (R179). -/
def execShrI (h : Hd) (f : IF) (s : State) : Host.Outcome State Fault Refusal := issue s (immRow h f .n32 (.ty .s32) 9 fShr)
/-- SRA (R173). -/
def execSra (h : Hd) (f : ZF) (s : State) : Host.Outcome State Fault Refusal := issue s (arith2 (fSra (f.opx.getLsbD 0)) h f)
/-- SRA with an immediate (R179). -/
def execSraI (h : Hd) (f : IF) (s : State) : Host.Outcome State Fault Refusal :=
  issue s (immRow h f .s32 (.ty .s32) 9 (fSra (f.imx.getLsbD 0)))
/-- ROT (R169). -/
def execRot (h : Hd) (f : ZF) (s : State) : Host.Outcome State Fault Refusal := issue s (bits2 fRot h f)
/-- CLZ (R169). -/
def execClz (h : Hd) (f : ZF) (s : State) : Host.Outcome State Fault Refusal := issue s (bits1 (natF fun ty a _ => clz ty.width a) h f)
/-- POPC (R169). -/
def execPopc (h : Hd) (f : ZF) (s : State) : Host.Outcome State Fault Refusal := issue s (bits1 (natF fun ty a _ => popc ty.width a) h f)
/-- BREV (R169). -/
def execBrev (h : Hd) (f : ZF) (s : State) : Host.Outcome State Fault Refusal := issue s (bits1 (natF fun ty a _ => brev ty.width a) h f)
/-- BFX (R175). -/
def execBfx (h : Hd) (f : ZF) (s : State) : Host.Outcome State Fault Refusal := issue s (fieldEffect false h f)
/-- BFI (R175). -/
def execBfi (h : Hd) (f : ZF) (s : State) : Host.Outcome State Fault Refusal := issue s (fieldEffect true h f)
/-- SEL (R174). -/
def execSel (h : Hd) (f : ZF) (s : State) : Host.Outcome State Fault Refusal := issue s (selEffect h f)
/-- ISET (R176). -/
def execIset (h : Hd) (f : ZF) (s : State) : Host.Outcome State Fault Refusal := issue s (arith2 (fIset f.x30) h f)
/-- ISET with an immediate (R179). -/
def execIsetI (h : Hd) (f : IF) (s : State) : Host.Outcome State Fault Refusal := issue s (isetIEffect h f)
/-- LEA (R171). -/
def execLea (h : Hd) (f : ZF) (s : State) : Host.Outcome State Fault Refusal := issue s (leaEffect h f)
/-- LEA with an immediate (R179). -/
def execLeaI (h : Hd) (f : IF) (s : State) : Host.Outcome State Fault Refusal := issue s (leaIEffect h f)
/-- IDP2 (R177). -/
def execIdp2 (h : Hd) (f : ZF) (s : State) : Host.Outcome State Fault Refusal := issue s (idp2Row h f)
/-- INARROW (R178). -/
def execInarrow (h : Hd) (f : ZF) (s : State) : Host.Outcome State Fault Refusal := issue s (inarrowEffect h f)

end Sys2Proof.Machine
end

