-- ==== Sys2Proof/Machine/Preempt.lean ====
section
/-! DEFINITION. Pre-emption (R406 to R410): choosing victims, halting, saving and resuming gangs, and the
order in which launches reserve cores (R126, R127). A saved
gang stands on cores of numbers 256 and up, one for each of its positions, which nothing else uses
(MODEL): the image of R408 is that part of the state. -/

namespace Sys2Proof.Machine

/-- Where position c of a saved gang stands (MODEL). DESIGN CHOICE, unsafe (log 24). -/
def savedCore (gang c : Nat) : Nat := 256 + 16 * gang + c

/-- Workgroups of a gang that have something on a core. -/
def State.wgsAt (s : State) (gang core : Nat) : List (Nat × Wg) :=
  s.wgs.filter fun g => g.2.gang == gang && g.2.core == core && !g.2.freed

/-! ### Moving a gang's part of a core -/

/-- From one core to another: beam slots, thread slots and scratchpad places by their old ones. -/
structure Reloc where
  src : Nat
  dst : Nat
  beams : NMap Nat := []
  slots : NMap Nat := []
  /-- by workgroup -/
  bases : NMap Nat := []
  deriving DecidableEq, Repr

def Reloc.slot (r : Reloc) (sl : Nat) : Nat := (look r.slots sl).getD sl
def Reloc.beam (r : Reloc) (bk : Nat) : Nat := if coreOf bk = r.src then 64 * r.dst + (look r.beams (bk % 64)).getD (bk % 64) else bk
def Reloc.tkey (r : Reloc) (tk : Nat) : Nat := if tk / 512 = r.src then 512 * r.dst + r.slot (tk % 512) else tk
def Reloc.core (r : Reloc) (c : Nat) : Nat := if c = r.src then r.dst else c

/-- A place in the core's SRAM, by the workgroup whose allocation holds it. -/
def Reloc.off (r : Reloc) (gs : List (Nat × Wg)) (off : Nat) : Nat :=
  match gs.find? fun g => g.2.spadBase ≤ off && off < g.2.spadBase + g.2.spadTotal with
  | some g => off - g.2.spadBase + (look r.bases g.1).getD g.2.spadBase
  | none => off

/-- DEDUCED, unsafe (log 53). -/
def Reloc.wait (r : Reloc) (gs : List (Nat × Wg)) (w : Wait) : Wait :=
  match w with
  | .barrier c off tok => if c = r.src then .barrier r.dst (r.off gs off) tok else w
  | .sword c off mode cmp => if c = r.src then .sword r.dst (r.off gs off) mode cmp else w
  | _ => w

def Reloc.write (r : Reloc) (w : RegWrite) : RegWrite :=
  match w with
  | .v tk n val m tag ew => .v (r.tkey tk) n val m tag ew
  | .s tk n val tag => .s (r.tkey tk) n val tag
  | .p tk n val => .p (r.tkey tk) n val
  | .fx tk fl => .fx (r.tkey tk) fl
  | _ => w

def Reloc.cond (r : Reloc) (c : OpCond) : OpCond :=
  match c with
  | .copyEnd core ch seq own => .copyEnd (r.core core) ch seq own
  | .copyAt core ch ptr seq d g acq => .copyAt (r.core core) ch ptr seq d g acq
  | _ => c

def Reloc.list (r : Reloc) (l : List (Option Nat)) : List (Option Nat) := l.map fun x => x.map r.slot

/-- A beam of the core. -/
def Reloc.moved (r : Reloc) (b : Beam) : Beam := { b with list := r.list b.list }

/-- An operation of a beam of the gang. -/
def Reloc.op (r : Reloc) (o : Op) : Op :=
  { o with beam := r.beam o.beam, writes := o.writes.map r.write, cond := r.cond o.cond,
           eng := o.eng.map fun e => if coreOf o.beam = r.src then
             { e with beam := r.moved e.beam, threads := e.threads.map fun t => (r.tkey t.1, t.2) } else e }

def Reloc.wg (r : Reloc) (id : Nat) (g : Wg) : Wg :=
  { g with
    core := r.dst, spadBase := (look r.bases id).getD g.spadBase, beams := g.beams.map r.beam, swreq := 0, swHold := none,
    brw := g.brw.map fun (w : Brw) => w.renamed r.slot }

/-- Copy a range of bytes over another. -/
def copyRange (m : NMap Byte) (a n b : Nat) : NMap Byte :=
  (m.filter fun x => a ≤ x.1 && x.1 < a + n).foldl (fun m x => put m (x.1 - a + b) x.2) (clearRange m b n)

/-- Move what a gang has on a core: beams, threads, workgroups with their scratchpad, the places of retired ones
(R257), operations, tickets and spilled threads. What belongs to the core itself moves apart.
DESIGN CHOICE, unsafe (log 24). -/
def State.relocate (s : State) (gang : Nat) (r : Reloc) : State :=
  let gs := s.wgsAt gang r.src
  let mine := fun (wg : Nat) => gs.any fun g => g.1 == wg
  let ours := fun (wg : Nat) => (s.wg wg).gang == gang
  let scratch := gs.foldl (fun m g =>
    copyRange m (sramKey r.src g.2.spadBase) g.2.spadTotal (sramKey r.dst ((look r.bases g.1).getD g.2.spadBase))) s.mem.scratch
  let ths := s.threads.filter fun t => t.1 / 512 == r.src && mine t.2.wg
  let bms := s.beams.filter fun b => coreOf b.1 == r.src && mine b.2.wg
  let stay := s.beams.filter fun b => !(coreOf b.1 == r.src && mine b.2.wg)
  let threads := ths.foldl (fun m t => put m (r.tkey t.1) t.2) (ths.foldl (fun m t => del m t.1) s.threads)
  let beams := bms.foldl (fun m b => put m (r.beam b.1) (r.moved b.2)) stay
  let ofOp := fun (o : Op) => (look s.beams o.beam).any fun b => b.uid == o.uid && ours b.wg
  let tick := fun (t : Ticket) =>
    if t.engine then
      if s.ops.any fun o => o.id == t.uid && coreOf o.beam == r.src && ofOp o then { t with who := r.dst / 2 * 2 } else t
    else if t.kind = 3 then
      if t.who / 8 = r.src ∧ ((s.chan r.src (t.who % 8)).holder = some gang) then { t with who := 8 * r.dst + t.who % 8 } else t
    else if bms.any fun b => b.1 == t.who && b.2.uid == t.uid then { t with who := r.beam t.who } else t
  { s with
    threads := threads,
    beams := beams.map fun b => if ours b.2.wg then (b.1, { b.2 with wait := r.wait gs b.2.wait }) else b,
    wgs := s.wgs.map fun g => if g.2.gang = gang ∧ g.2.core = r.src then (g.1, r.wg g.1 g.2) else g,
    ops := s.ops.map fun o => if ofOp o then r.op o else o,
    tickets := s.tickets.map fun t => (t.1, tick t.2),
    queues := s.queues.map fun q => (q.1, { q.2 with spill := q.2.spill.map fun i =>
      if i.2.gang = gang ∧ i.1 = r.src then (r.dst, i.2) else i }),
    mem := { s.mem with scratch := scratch } }

/-- What of a core goes into a gang's image: the accumulator memory it holds, its launch's banks, which no CBLD is
filling any more (R214), its channels, and its spawned threads (R408). -/
def Core.imageOf (c : Core) (gang launch : Nat) : Core :=
  let acc := c.accHold == some gang
  { split := c.split,
    accHold := if acc then some gang else none,
    acc := if acc then c.acc else [],
    tiles := if acc then c.tiles else [],
    banks := c.banks.filter fun b => b.1 ≠ 0 && b.2.owner == some launch,
    chans := c.chans.filter fun x => x.2.holder == some gang,
    spawnQ := c.spawnQ.filter fun i => i.gang == gang,
    groups := c.groups.filter fun g => g.gang == gang }

/-- What is left on the core: the sequence counters of its channels go on (R320). -/
def Core.withoutGang (c : Core) (gang : Nat) : Core :=
  { c with
    chans := c.chans.map fun x => if x.2.holder = some gang then (x.1, x.2.drop) else x,
    spawnQ := c.spawnQ.filter fun i => i.gang ≠ gang,
    groups := c.groups.filter fun g => g.gang ≠ gang }

/-- A running command goes on from where it stood (R331). -/
def Chan.resume (x : Chan) : Chan := { x with running := x.running.map fun r => if r.cancel then r else { r with stop := none } }

/-- Write an image back (R214, R241, R331). -/
def Core.restore (c i : Core) : Core :=
  { c with
    accHold := if i.accHold.isSome then i.accHold else c.accHold,
    acc := if i.accHold.isSome then i.acc else c.acc,
    tiles := if i.accHold.isSome then i.tiles else c.tiles,
    banks := i.banks.foldl (fun m b => put m b.1 b.2) c.banks,
    chans := i.chans.foldl (fun m x => put m x.1 x.2.resume) c.chans,
    spawnQ := c.spawnQ ++ i.spawnQ,
    groups := c.groups ++ i.groups }

/-! ### Halting (R407, R410) -/

/-- A pending rendezvous trap completes its handler entry first (R410). -/
def State.enterPending (s : State) (bk : Nat) : State :=
  let b := s.beam bk
  match b.pend with
  | some t => (s.modBeam bk fun b => { b with pend := none }).takeTrap bk t b.pc b.pos
  | none => s

/-- A halting beam that waits at a barrier takes its count back (R318). DEDUCED, unsafe (log 43). -/
def State.leaveBarrier (s : State) (bk : Nat) : State :=
  let b := s.beam bk
  match b.wait with
  | .barrier core off _ => if b.st = .waiting then s.barCount (sramKey core off) false else s
  | _ => s

/-- Pre-empt a gang: its beams halt, and its channels go on to their boundaries (R331). -/
def State.preempt (s : State) (gang : Nat) : State :=
  if (s.gang gang).st ≠ .placed then s
  else
    let bks := s.beamsOf fun g => g.gang == gang
    let s := bks.foldl State.enterPending s
    let s := bks.foldl State.leaveBarrier s
    let s := bks.foldl (fun s bk => s.modBeam bk Beam.halt) s
    State.haltCopies { s with gangs := upd s.gangs gang fun g => { g with st := .halting } } fun c => c.gang == gang

/-! ### Saving (R407, R408) -/

/-- An operation that the drain does not wait for: it goes into the image. A command behind such a one
stays with it. -/
def State.stays (s : State) (o : Op) : Bool :=
  o.emit == [] && match o.cond with
    | .held => true
    | .copyEnd _ _ _ _ | .copyAt _ _ _ _ _ _ _ | .drain _ _ _ _ | .fence _ | .pages _ _ => (s.tryComplete o).isNone
    | _ => false

/-- A channel stands where a gang can be saved: stalled, idle, or at the boundary of a command that goes on. -/
def Chan.atRest (x : Chan) : Bool :=
  x.stalled.isSome || x.running.all fun r => r.done ≠ r.len && !r.cancel && r.stop.any fun p => p ≤ r.done

/-- A gang has drained, and no CBLD fills a bank of its launch on its cores (R214). DEDUCED, unsafe (log 53). -/
def State.drainedGang (s : State) (gang : Nat) : Bool :=
  let g := s.gang gang
  (s.ops.all fun o => !((look s.beams o.beam).any fun b => b.uid == o.uid && (s.wg b.wg).gang == gang) || s.stays o)
    && (s.cores.all fun c => c.2.chans.all fun x => x.2.holder ≠ some gang || x.2.atRest)
    && (List.range (g.w * g.h)).all fun p => (s.core (g.coreAt p)).banks.all fun b => b.2.owner ≠ some g.launch || b.2.loading == 0

/-- Bytes of a context's save pool that images take, and whether one more fits.
DESIGN CHOICE, unsafe (log 24). -/
def State.poolRoom (s : State) (ctx : Nat) (more : List Nat) : Bool :=
  let there := (s.gangs.filter fun g => g.2.st ≠ .placed && !more.contains g.1 && (s.launch g.2.launch).ctx == ctx).map (·.1)
  ((there ++ more).map fun g => (Config.imageSize g).toNat).foldl (· + ·) 0 ≤ 2 ^ 20 * (s.ctxReg ctx 0x10A).toNat

/-- The image is written into the save pool at CTX_SAVE: where in it, and which bytes, the spec leaves open.
DESIGN CHOICE, unsafe (log 24). -/
def State.saveBytes (s : State) (ctx gang : Nat) : State :=
  let n := (Config.imageSize gang).toNat
  let (r, s) := s.draw
  let (bs, s) := s.freeBytes n
  s.poke {} (s.ctxReg64 ctx 0x108 + r % (2 ^ 20 * (s.ctxReg ctx 0x10A).toNat - n + 1)) bs

/-- Save one core of a gang. DESIGN CHOICE, unsafe (log 24). -/
def State.saveCore (s : State) (gang launch core c : Nat) : State :=
  let v := savedCore gang c
  let img := (s.core core).imageOf gang launch
  let s := s.relocate gang { src := core, dst := v }
  let s := (s.setCore v img).modCore core fun x => x.withoutGang gang
  s.releaseCore core launch gang

/-- An event of kind 5 once every gang of a suspended launch is saved (R406). -/
def State.savedEvent (s : State) (l : Nat) : State :=
  let x := s.launch l
  if x.owesSaved && (s.gangs.all fun g => g.2.launch ≠ l || g.2.st == .saved) then
    (s.pushEvent x.ctx x.owner (dispatcherEvent 5 0 0 x.owner x.lrec.done)).modLaunch l fun x => { x with owesSaved := false }
  else s

/-- GANG_SAVE (R407). -/
def gangSave (s : State) : Option State :=
  let id := s.sched.arg.a
  let g := s.gang id
  let x := s.launch g.launch
  if g.st ≠ .halting || x.trapped.isSome || !s.drainedGang id || !s.poolRoom x.ctx [id] || (x.owesSaved && !s.evRoom x.ctx x.owner) then none
  else
    let s := (List.range (g.w * g.h)).foldl (fun s c => s.saveCore id g.launch (g.coreAt c) c) s
    let s := ({ s with gangs := upd s.gangs id fun g => { g with st := .saved } }).saveBytes x.ctx id
    some (s.savedEvent g.launch)

/-! ### Resuming (R409) -/

/-- New places for a saved workgroup on a core, under the variant it holds. -/
def State.refitWg (s : State) (core : Nat) (u : CoreUse) (id : Nat) : Option (Reloc × CoreUse) :=
  let g := s.wg id
  let x := s.launch g.launch
  let resv := match g.kind with
    | .launch _ => x.lrec.sresv
    | _ => 0
  let size := slotBytes g.nv g.ns
  let olds := fun i => ((s.threads.filter fun t => t.1 / 512 == g.core && t.2.wg == id).map fun t => t.1 % 512).filter fun sl => sl % 8 == i
  let banks := (List.range 8).map fun i => (u.bankSlots i (olds i).length size).map fun n => (olds i).zip n
  let free := (List.range 64).filter fun i => !u.beams.contains i
  match u.spadBase g.spadTotal (65536 * s.split x.ctx) with
  | none => none
  | some base =>
    if free.length < g.beams.length + resv || banks.any (·.isNone) then none
    else
      let bs := (g.beams.map (· % 64)).zip free
      let ss := banks.flatMap fun x => x.getD []
      some ({ src := g.core, dst := core, beams := bs, slots := ss, bases := [(id, base)] },
        u.add { beams := bs.map (·.2), slots := ss.map fun p => (p.2, size), spad := [(base, g.spadTotal)], bytes := g.spadTotal })

/-- New places for one position of a saved gang: none where something it must take back is not free
(R214, R241, R331). A position without an accumulator hold may stand where another gang holds the memory.
DESIGN CHOICE, unsafe (log 124). -/
def State.refitCore (s : State) (gang core c : Nat) : Option Reloc :=
  let v := savedCore gang c
  let img := s.core v
  let l := (s.gang gang).launch
  let k := s.core core
  let acc := img.accHold.isNone || k.accHold.isNone
  let banks := img.banks.all fun b => match (look k.banks b.1).bind (·.owner) with
    | none => true
    | some o => o == l || (s.liveWgs fun g => g.core == core && g.launch == o) == []
  let chans := img.chans.all fun x => (s.chan core x.1).holder.isNone
  let park := (s.beams.filter fun b => coreOf b.1 == v && b.2.evicted ≠ []).foldl
    (fun n b => n + parkRecord (s.wg b.2.wg).nv (s.wg b.2.wg).ns) 0
  let room := park == 0 || s.parkUsed (s.launch l).ctx (core % 32 / 16) + park ≤ s.parkSize (s.launch l).ctx
  if !(s.splitOk core (s.launch l).ctx s.allHolds && acc && banks && chans && room) then none
  else
    ((s.wgsAt gang v).foldl (fun (a : Option (Reloc × CoreUse)) g => a.bind fun a =>
      (s.refitWg core a.2 g.1).map fun b =>
        ({ src := v, dst := core, beams := a.1.beams ++ b.1.beams, slots := a.1.slots ++ b.1.slots, bases := a.1.bases ++ b.1.bases }, b.2))
      (some ({ src := v, dst := core }, s.useWith core s.allHolds))).map (·.1)

/-- The aligned origins of a gang in its launch's footprint, in row-major order (R117). -/
def State.originsOf (s : State) (g : Gang) : List (Nat × Nat) :=
  let r := (s.launch g.launch).lrec
  (List.range (2 ^ r.fh / g.h)).flatMap fun j => (List.range (2 ^ r.fw / g.w)).map fun i => (r.x0 + i * g.w, r.y0 + j * g.h)

/-- A gang of a fired bin (R359) shares its core with other gangs of its launch. -/
def State.binGang (s : State) (gang : Nat) : Bool := s.wgs.any fun g => g.2.gang == gang && (match g.2.kind with
  | .bin _ _ _ _ => true
  | _ => false)

/-- The first origin where a saved gang fits, chosen as for a new one, and where everything goes.
DEDUCED, unsafe (log 53). -/
def State.resumeAt (s : State) (gang : Nat) : Option ((Nat × Nat) × List Reloc) :=
  let g := s.gang gang
  let cores := fun (o : Nat × Nat) => (List.range (g.w * g.h)).map (({ g with x := o.1, y := o.2 } : Gang).coreAt)
  let fit := fun (o : Nat × Nat) =>
    let rs := (cores o).zipIdx.map fun p => s.refitCore gang p.1 p.2
    if rs.any (·.isNone) then none else some (o, rs.filterMap id)
  if s.binGang gang then (s.originsOf g).findSome? fit else s.firstOrigin g.launch [] cores (s.originsOf g) fit

/-- A beam of a resumed gang (R134, R409): the state it held. One that waited at a barrier issues its word again,
one that HALT stopped stays so until the host answers (R401). -/
def Beam.resume (b : Beam) : Beam :=
  if b.st ≠ .halted then b
  else match b.wait, b.held with
    | .host _, _ => b
    | .barrier _ _ _, .waiting => { b with st := .ready, wait := .none }
    | _, h => { b with st := h }

/-- A beam that held ISSUING goes on at once where no other beam issues on its lane, and is READY otherwise.
DEDUCED, unsafe (log 106). -/
def State.yieldLane (s : State) (bk : Nat) : State :=
  let b := s.beam bk
  if b.st = .issuing && (s.beams.any fun x => x.1 ≠ bk && coreOf x.1 == coreOf bk && x.2.lane == b.lane && x.2.st == .issuing) then
    s.modBeam bk fun b => { b with st := .ready }
  else s

/-- A gang that comes back holds no lanes: an image keeps no binding (R408). -/
def State.unbindGang (s : State) (gang : Nat) : State :=
  { s with beams := s.beams.map fun x => if (s.wg x.2.wg).gang = gang then (x.1, { x.2 with lane := none }) else x }

/-- A beam of a resumed gang is bound to a lane again, unless it waits off its lane (R20, R408): the gang's beams one
after another by core and beam slot, those that come later not counting. DESIGN CHOICE, unsafe (log 95). -/
def State.resumeBeam (s : State) (bk : Nat) : State :=
  let s := s.modBeam bk Beam.resume
  match (s.beam bk).st with
  | .ready | .waiting | .issuing | .halted => (s.bind bk).yieldLane bk
  | _ => s

/-- Restore one core of a gang; the core's L1 and the Prism cache of its pair then hold nothing that the gang might see go
back (R277, R289). -/
def State.restoreCore (s : State) (gang : Nat) (r : Reloc) : State :=
  let img := s.core r.src
  let s := s.claimCore r.dst (s.launch (s.gang gang).launch).ctx
  let gs := s.wgsAt gang r.src
  let s := s.relocate gang r
  let scratch := gs.foldl (fun m g => clearRange m (sramKey r.src g.2.spadBase) g.2.spadTotal) s.mem.scratch
  let s := { s with mem := { (s.mem.dropCache r.dst).dropCache (prismCache r.dst) with scratch := scratch }, cores := del s.cores r.src }
  s.modCore r.dst fun c => c.restore img

/-! ### Dispatch order among launches being placed (R126, R409) -/

/-- The cores that a launch's next gang, or with COR its whole launch, would take now; a saved gang comes first. -/
def State.wouldTake (s : State) (l : Nat) : Option (List Nat) :=
  let x := s.launch l
  let cores := fun (p : List (Nat × Nat × Nat)) => p.flatMap fun q => x.coresAt q.2
  match s.gangs.find? fun g => g.2.launch == l && g.2.st == .saved with
  | some g => (s.resumeAt g.1).map fun p => p.2.map (·.dst)
  | none => if x.plan ≠ [] then some (cores x.plan) else (s.planGangs l x.toReserve x.nextG [] []).map cores

/-- In dispatch order: priority, then age, then the order of arrival. -/
def State.dispatchedBefore (s : State) (l k : Nat) : Bool :=
  let x := s.launch l
  let y := s.launch k
  x.owner == y.owner && (x.lrec.prio < y.lrec.prio ||
    (x.lrec.prio == y.lrec.prio && (x.age < y.age || (x.age == y.age && l < k))))

/-- A launch with a gang to place or to resume that stands in no wait of its own. -/
def State.wantsPlace (s : State) (l : Nat) : Bool :=
  let x := s.launch l
  s.mayReserve l || (!x.suspended && x.trapped.isNone && s.gangs.any fun g => g.2.launch == l && g.2.st == .saved)

/-- No launch ahead in dispatch order could take one of these cores now (R126): one in PLACING blocks nobody on cores
that it cannot yet use. DEDUCED, unsafe (log 46). -/
def State.firstToPlace (s : State) (l : Nat) (cores : List Nat) : Bool :=
  s.launches.all fun k => !(s.dispatchedBefore k.1 l && s.wantsPlace k.1 && (s.wouldTake k.1).any fun cs => cs.any cores.contains)

/-- RESERVATION_HOLD (R127): choose the origins, hold one core after another, commit. -/
def reservationHold (s : State) : Option State :=
  let l := s.sched.arg.a
  if !s.mayReserve l then none
  else
    let x := s.launch l
    match x.plan, x.todo with
    | [], _ =>
      ((s.planGangs l x.toReserve x.nextG [] []).filter fun p => s.firstToPlace l (p.flatMap fun q => x.coresAt q.2)).map fun p =>
        s.modLaunch l fun x => { x with plan := p, todo := coreOrder (p.flatMap fun q => (x.coresAt q.2).map fun c => (q.1, c)) }
    | _, [] => some (s.commit l)
    | p, (G, core) :: rest =>
      let o := ((p.find? fun q => q.1 == G).map (·.2)).getD (0, 0)
      let pos := (x.coresAt o).idxOf core
      let others := s.allHolds.filter fun h => h.1 ≠ l
      match s.holdCore l G core pos others x.holds with
      | some h => some (s.modLaunch l fun x => { x with holds := x.holds ++ h, todo := rest })
      | none => some (s.release l (s.holdCore l G core pos [] x.holds).isSome)

/-- GANG_RESUME (R409): every condition is tested against the state as it now stands; the gang stands at its
launch's place in dispatch order. -/
def gangResume (s : State) : Option State :=
  let id := s.sched.arg.a
  let g := s.gang id
  let x := s.launch g.launch
  if g.st ≠ .saved || x.suspended || x.trapped.isSome then none
  else
    ((s.resumeAt id).filter fun p => s.firstToPlace g.launch (p.2.map (·.dst))).map fun p =>
      let s := p.2.foldl (fun s r => s.restoreCore id r) s
      let (n, s) := s.fresh
      let s := { s with gangs := upd s.gangs id fun g => { g with st := .placed, x := p.1.1, y := p.1.2, placed := n } }
      ((s.beamsOf fun g => g.gang == id).foldl State.resumeBeam (s.unbindGang id)).notify

/-! ### Requests (R406) -/

/-- Without some gangs, as far as room is concerned. -/
def State.without (s : State) (gs : List Nat) : State :=
  let gone := fun (wg : Nat) => gs.contains (s.wg wg).gang
  { s with
    beams := s.beams.filter fun b => !gone b.2.wg,
    threads := s.threads.filter fun t => !gone t.2.wg,
    wgs := s.wgs.filter fun g => !gs.contains g.2.gang,
    gangs := s.gangs.filter fun g => !gs.contains g.1,
    cores := s.cores.map fun (c : Nat × Core) => (c.1, { c.2 with
      accHold := if c.2.accHold.any gs.contains then none else c.2.accHold,
      chans := c.2.chans.map fun x => if x.2.holder.any gs.contains then (x.1, x.2.drop) else x }) }

/-- A launch that may ask for room: priority 0, TC0, with a gang to place. -/
def State.mayPreempt (s : State) (l : Nat) : Bool :=
  let x := s.launch l
  x.lrec.prio == 0 && x.lrec.tc == 0 && x.trapped.isNone && !x.suspended
    && (x.st == .placing || s.gangs.any fun g => g.2.launch == l && g.2.st == .saved)
    && !(s.gangs.any fun g => g.2.launch == l && g.2.st == .halting)

/-- Put an item in its place in a list. -/
def insertBy {α : Type} (lt : α → α → Bool) (x : α) : List α → List α
  | [] => [x]
  | y :: ys => if lt x y then x :: y :: ys else y :: insertBy lt x ys

/-- Units that may be pre-empted, in order: of the lowest priority first, and of those the most recently
placed first; with COR a whole launch. DEDUCED, unsafe (log 53). -/
def State.victims (s : State) : List (List Nat) :=
  let ok := s.gangs.filter fun g =>
    let x := s.launch g.2.launch
    g.2.st == .placed && x.lrec.prio ≠ 0 && x.trapped.isNone
  let prio := fun (g : Nat × Gang) => (s.launch g.2.launch).lrec.prio
  let lt := fun (x y : Nat × Gang) => prio y < prio x || (prio x == prio y && y.2.placed < x.2.placed)
  ((ok.foldl (fun l g => insertBy lt g l) []).map fun g =>
    if (s.launch g.2.launch).lrec.cor then (ok.filter fun h => h.2.launch == g.2.launch).map (·.1) else [g.1]).eraseDups

/-- Choose units in order until the launch would fit. DEDUCED, unsafe (log 53). -/
def State.chooseVictims (s : State) (l : Nat) : List Nat → List (List Nat) → Option (List Nat)
  | _, [] => none
  | got, u :: us =>
    let ctx := (s.launch (s.gang (u.headD 0)).launch).ctx
    let sameCtx := got.filter fun g => (s.launch (s.gang g).launch).ctx == ctx
    if !s.poolRoom ctx (sameCtx ++ u) then s.chooseVictims l got us
    else if ((s.without (got ++ u)).wouldTake l).isSome then some (got ++ u)
    else s.chooseVictims l (got ++ u) us

/-- PREEMPT_REQUEST (R406): gangs that are already on their way out count as gone. -/
def preemptRequest (s : State) : Option State :=
  let l := s.sched.arg.a
  let out := (s.gangs.filter fun g => g.2.st == .halting).map (·.1)
  if !s.mayPreempt l || ((s.without out).wouldTake l).isSome then none
  else ((s.without out).chooseVictims l [] (s.without out).victims).map fun vs => vs.foldl State.preempt s

/-- The launch that PREEMPT_LO and a value of PREEMPT_HI name: the oldest one with this done address that has
not ended. DEDUCED, unsafe (log 53). -/
def State.preemptTarget (s : State) (hi : Nat) : Option Nat :=
  let a := (s.reg 0x307).toNat / 2 * 2 + 2 ^ 32 * (hi % 2 ^ 32)
  (s.launches.find? fun l => !l.2.st.final && l.2.lrec.done == a).map (·.1)

/-- PREEMPT_SUSPEND (R406): bit 0 of the address is clear. -/
def preemptSuspend (s : State) : Option State :=
  if (s.reg 0x307).getLsbD 0 then none
  else (s.preemptTarget s.sched.arg.value.toNat).bind fun l =>
    let x := s.launch l
    if x.suspended then none
    else if (s.gangsOf l).isEmpty && !s.evRoom x.ctx x.owner then none
    else
      let s := s.modLaunch l fun x => { x with suspended := true, owesSaved := true, holds := [], plan := [], todo := [] }
      some (((s.gangsOf l).foldl State.preempt s).savedEvent l)

/-- PREEMPT_RESUME (R406): bit 0 of the address is set. -/
def preemptResume (s : State) : Option State :=
  if !(s.reg 0x307).getLsbD 0 then none
  else (s.preemptTarget s.sched.arg.value.toNat).bind fun l =>
    if (s.launch l).suspended then some (s.modLaunch l fun x => { x with suspended := false }) else none

/-- PREEMPT_REQUEST (R406). -/
def execPreemptRequest (s : State) : Host.Outcome State Fault Refusal := event s preemptRequest
/-- PREEMPT_SUSPEND (R406). -/
def execPreemptSuspend (s : State) : Host.Outcome State Fault Refusal := event s preemptSuspend
/-- PREEMPT_RESUME (R406). -/
def execPreemptResume (s : State) : Host.Outcome State Fault Refusal := event s preemptResume
/-- RESERVATION_HOLD (R127). -/
def execReservationHold (s : State) : Host.Outcome State Fault Refusal := event s reservationHold
/-- GANG_SAVE (R407). -/
def execGangSave (s : State) : Host.Outcome State Fault Refusal := event s gangSave
/-- GANG_RESUME (R409). -/
def execGangResume (s : State) : Host.Outcome State Fault Refusal := event s gangResume

end Sys2Proof.Machine
end

