-- ==== Sys2Proof/Machine/Resume.lean ====
section
/-! DEFINITION. What the host answers and pushes: resumption after faults and HALT (R403), buffered events
(R402), pushes to queues (R469, R486), arming queues (R333, R334), and errors of the links that an access
waits on (R462, R467). -/

namespace Sys2Proof.Machine

/-! ### FAULT_RESUME (R403) -/

/-- The number in a value of FAULT_RESUME, and the ticket it names. -/
def State.answered (s : State) : Option (Nat × Ticket) :=
  let n := s.sched.arg.value.toNat % 2 ^ 24
  (look s.tickets n).map fun t => (n, t)

/-- Drop a context's translations of the page that holds an address. DEDUCED, unsafe (log 76). -/
def State.dropPage (s : State) (ctx va : Nat) : State :=
  { s with mem := { s.mem with tlb := s.mem.tlb.filter fun e => e.ctx ≠ ctx || va / 2 ^ e.size ≠ e.vpn } }

/-- FAULT_RESUME_RETRY (R403): the translations of the page are dropped; the beam's word issues again, the
channel goes on, or the engine starts over (COUNTER_FALL). DEDUCED, unsafe (log 54). -/
def faultRetry (s : State) : Option State :=
  s.answered.bind fun p =>
    let (n, t) := p
    if t.kind = 2 then none
    else
      let s := (s.awake.dropPage t.ctx t.addr)
      let s := { s with tickets := del s.tickets n }
      if t.kind = 3 ∧ !t.engine then some (s.modChan (t.who / 8) (t.who % 8) fun x => { x with stalled := none }) else some s

/-- FAULT_RESUME_ABORT (R403): a copy command ends with LAST 4 (R326); otherwise the launch ends TRAPPED.
DEDUCED, unsafe (log 54). -/
def faultAbort (s : State) : Option State :=
  s.answered.map fun p =>
    let (n, t) := p
    let s := s.awake
    if t.kind = 3 ∧ !t.engine then
      let core := t.who / 8
      let ch := t.who % 8
      let mask := ((s.chan core ch).running.map (·.mask)).getD 0
      s.endCopy core ch 4 (some { code := Code.copyFault, addr := t.addr, mask := mask }) t.addr
    else
      let s := { s with tickets := del s.tickets n }
      s.launchTrap t.launch (if t.kind = 2 then Code.beamHalt else Code.pageFault) 0

/-- FAULT_RESUME_CONTINUE (R401, R403): a HALTED beam takes up the state it held, at the fall-through clause and on
its lane; one whose gang is saved or on its way there does so when the gang is back, and one whose launch has
trapped stays (R410). DEDUCED, unsafe (log 54). DEDUCED, unsafe (log 106). -/
def faultContinue (s : State) : Option State :=
  s.answered.bind fun p =>
    let (n, t) := p
    if t.kind ≠ 2 then none
    else
      let s := { s.awake with tickets := del s.tickets n }
      let stays := s.away t.who || (s.launch t.launch).trapped.isSome
      let s := s.modBeam t.who fun b => { b with wait := .none, st := if stays then b.st else b.held }
      some (if stays then s else s.yieldLane t.who)

/-! ### EVENT_BUFFER_DRAIN (R402) -/

/-- Push buffered events while the queue takes them. -/
def State.drainEvents (s : State) (key ctx : Nat) : List (List Byte) → State
  | [] => { s with evbuf := del s.evbuf key }
  | e :: es =>
    match s.evQueue ctx with
    | some q => (s.pushEntry q 0 e).drainEvents key ctx es
    | none => { s with evbuf := put s.evbuf key (e :: es) }

def eventBufferDrain (s : State) : Option State :=
  let ctx := s.sched.arg.b
  let key := s.sched.arg.a * 16 + ctx
  match look s.evbuf key, s.evQueue ctx with
  | some es, some _ => some ((s.drainEvents key ctx es).notify)
  | _, _ => none

/-! ### Queues from the host -/

/-- A push of an entry to a queue by a context (R469): the reply code stands in State; an entry of a launch queue
carries its arrival. A push behind a link that is down is refused with a code that the spec leaves open (R450).
DEDUCED, unsafe (log 55). -/
def State.hostPushed (s : State) (ctx q : Nat) (e : List Byte) : State :=
  let x := s.queue q
  if !s.memReady then { s with pushReply := 3 }
  else if s.engineDown q then
    let (r, s) := s.draw
    { s with pushReply := 1 + r % 3 }
  else if x.type = 0 ∨ x.type = 3 ∨ x.ctx ≠ ctx then { s with pushReply := 2 }
  else if x.cap ≤ x.depth then { s with pushReply := 1 }
  else
    let (age, s) := s.fresh
    { (s.pushEntry q (if x.type = 2 then age else 0) e).notify with pushReply := 0 }

/-- An offset in HREG lies in the push windows (R486). -/
def inPush (off : Nat) : Bool := 0x400000 ≤ off && off < 0x800000

/-- HOST_PUSH (R486): a write of another size or alignment is no push, and a read of the push windows returns 0.
DEDUCED, unsafe (log 55). -/
def hostPush (s : State) : Option State :=
  let off := s.sched.arg.a
  let e := s.sched.arg.bytes
  if !inPush off then none
  else if s.sched.arg.flag then some { s.awake with reply := List.replicate 64 0 }
  else if e.length ≠ 64 ∨ off % 64 ≠ 0 then some { s.awake with pushReply := 2 }
  else some (s.awake.hostPushed ((off - 0x400000) / 0x40000) (off % 0x40000 / 64) e)

/-- A queue that serves as the spill queue of a launch under way (R334). -/
def State.spillsTo (s : State) (q : Nat) : Bool :=
  s.launches.any fun l =>
    (l.2.st == .placing || l.2.st == .running || l.2.st == .ending) && l.2.obj.spawns ≠ [] && l.2.lrec.spillq == q

/-- A physical range lies in one region of R448. DEDUCED, unsafe (log 56). -/
def inOneRegion (p n : Nat) : Bool := n ≠ 0 && ((isHbm p && isHbm (p + n - 1)) || (isHost p && isHost (p + n - 1)))

/-- A queue from its descriptor (R333): anything out of range arms it as off. DEDUCED, unsafe (log 56). -/
def queueOf (l : List Byte) : Queue :=
  let ring := field l 0 8
  let ty := byteAt l 8
  let lcap := byteAt l 9
  let ctx := byteAt l 10
  if 1 ≤ ty && ty ≤ 3 && lcap ≤ 16 && ctx < 16 && ring % 64 == 0 && inOneRegion ring (64 * 2 ^ lcap) && (l.drop 11).all (· == 0) then
    { type := ty, ring := ring, lcap := lcap, ctx := ctx }
  else {}

/-- QUEUE_ARM (R334): a descriptor that cannot be read arms the queue as off. DEDUCED, unsafe (log 56). -/
def queueArm (s : State) : Option State :=
  let q := s.sched.arg.value.toNat % 4096
  if s.spillsTo q then none
  else
    let s := s.awake
    let a := s.reg64 0x303 + 32 * q
    let d := if inOneRegion a 32 && !s.badBytes a 32 then queueOf (s.mem.read a 32) else {}
    some { s with queues := put s.queues q d }

/-! ### Errors of the links (R462, R467) -/

/-- A write that a failed access does not make. -/
def RegWrite.ofThreads (tks : List Nat) : RegWrite → Bool
  | .v tk _ _ _ _ _ | .s tk _ _ _ | .p tk _ _ => tks.contains tk
  | .k _ _ | .kp _ _ => true
  | .fx _ _ => false

/-- A write whose completion failed has been performed at the far end, or not: a free value says.
DESIGN CHOICE, unsafe (log 57). -/
def State.undo (s : State) (us : List (Nat × Byte)) : State :=
  let (r, s) := s.draw
  if r % 2 = 0 then s
  else us.foldl (fun (s : State) u =>
    ({ s with mem := { s.mem with bytes := setB s.mem.bytes u.1 u.2 }.refresh (fun _ => true) u.1 1 }).notify) s

/-- Threads of an operation in flight meet an error: their registers stay. -/
def State.loseThreads (s : State) (o : Op) (m : BitVec 8) (va : Nat) : State :=
  let tks := (bitsOf m).map (tkeyOf o.beam (s.beam o.beam))
  { s with ops := s.ops.map fun x =>
      if x.id = o.id then { x with writes := x.writes.filter fun w => !w.ofThreads tks, fault := some (x.lose m va) } else x }

/-- The condition with one request fewer to wait for. -/
def OpCond.without (c : OpCond) (r : Remote) : OpCond := c.withRemotes (c.remotes.erase r)

/-- What a codebook entry whose read gets no completion leaves: it is not valid (R212). -/
def State.unloaded (s : State) (c : OpCond) (r : Remote) : State :=
  match c with
  | .bank core n va first _ =>
    s.modCore core fun k => { k with banks := upd k.banks n fun b => { b with valid := setBit b.valid (first + (r.va - va) / 16) false } }
  | _ => s

/-- A request of an operation gets no completion (R462, R467): its threads meet MEMORY_DATA_ERROR, and the operation
waits for its other requests. DESIGN CHOICE, unsafe (log 57). -/
def State.linkError (s : State) (o : Op) (r : Remote) : State :=
  let s := (if r.undo = [] then s else s.undo r.undo).unloaded o.cond r
  let s := { s with ops := s.ops.map fun (x : Op) => if x.id = o.id then ({ x with cond := x.cond.without r } : Op) else x }
  s.loseThreads o r.mask r.va

/-- The requests of an operation over one link. -/
def Op.requests (o : Op) (peer : Bool) : List Remote := o.cond.remotes.filter fun r => r.peer == peer

/-- A request of an operation, or with flag of a copy channel, gets no completion: the state, none where there is no
such request. DESIGN CHOICE, unsafe (log 57). -/
def State.timeout (s : State) (peer : Bool) (who : Nat) : Option State :=
  if s.sched.arg.flag then s.copyTimeout (who / 8) (who % 8) peer
  else (s.ops.find? fun o => o.id == who).bind fun o => ((o.requests peer)[s.sched.arg.c]?).map (s.linkError o)

/-- UALINK_TIMEOUT (R462). DESIGN CHOICE, unsafe (log 57). -/
def ualinkTimeout (s : State) : Option State :=
  if s.sched.arg.a < 8 then (s.timeout true s.sched.arg.b).map fun s => s.bump (0x482 + 4 * s.sched.arg.a) else none

/-- VETIK_TIMEOUT (R467). DESIGN CHOICE, unsafe (log 57). -/
def vetikTimeout (s : State) : Option State := (s.timeout false s.sched.arg.a).map fun s => s.bump 0x546

/-- FAULT_RESUME_RETRY (R403). -/
def execFaultResumeRetry (s : State) : Host.Outcome State Fault Refusal := event s faultRetry
/-- FAULT_RESUME_ABORT (R403). -/
def execFaultResumeAbort (s : State) : Host.Outcome State Fault Refusal := event s faultAbort
/-- FAULT_RESUME_CONTINUE (R403). -/
def execFaultResumeContinue (s : State) : Host.Outcome State Fault Refusal := event s faultContinue
/-- EVENT_BUFFER_DRAIN (R402). -/
def execEventBufferDrain (s : State) : Host.Outcome State Fault Refusal := event s eventBufferDrain
/-- HOST_PUSH (R486). -/
def execHostPush (s : State) : Host.Outcome State Fault Refusal := event s hostPush
/-- QUEUE_ARM (R334). -/
def execQueueArm (s : State) : Host.Outcome State Fault Refusal := event s queueArm
/-- UALINK_TIMEOUT (R462). -/
def execUalinkTimeout (s : State) : Host.Outcome State Fault Refusal := event s ualinkTimeout
/-- VETIK_TIMEOUT (R467). -/
def execVetikTimeout (s : State) : Host.Outcome State Fault Refusal := event s vetikTimeout

end Sys2Proof.Machine
end

