-- ==== Sys2Proof/Machine/Link.lean ====
section
/-! DEFINITION. Memory stacks and links: the packets a base die serves (R448 to R457), retraining (R450, R460,
R467), scrubbing (R455), hot pages (R458, R459), accesses of peers and of the host (R461, R466), and the heat
of the stack dies (R248). -/

namespace Sys2Proof.Machine

/-! ### Registers of a stack -/

def stackReg (s i : Nat) : Nat := 0x400 + 16 * s + i
def State.stkStat (s : State) (k : Nat) : Nat := (s.reg (stackReg k 7)).toNat
def State.setStk (s : State) (k v : Nat) : State := s.setReg (stackReg k 7) (BitVec.ofNat 32 v)
/-- STK_STAT.DOWN. -/
def State.stackDown (s : State) (k : Nat) : Bool := bit (s.stkStat k) 1
def State.link (s : State) (k : Nat) : Link := (look s.links k).getD {}
def State.modLink (s : State) (k : Nat) (f : Link → Link) : State := { s with links := put s.links k (f (s.link k)) }

/-! ### Packet headers (R451) -/

/-- PRESUMED, unsafe (log 58). -/
structure Pkh where
  kind : Nat
  tc : Nat
  tag : Nat
  secs : Nat
  rcd : Bool
  pin : Bool
  opw : Nat
  addr : Nat
  deriving DecidableEq, Repr

def pkhOf (h : BitVec 128) : Pkh :=
  let x := h.toNat
  { kind := bits x 2 0, tc := bits x 4 3, tag := bits x 14 5, secs := bits x 16 15 + 1, rcd := bit x 17, pin := bit x 18,
    opw := bits x 63 32, addr := bits x 115 64 }

/-! ### Flits (R450) -/

/-- The CRC-32 of IEEE 802.3 taken over n bits of a number, bit 0 first, from a value on. -/
def crcOver : Nat → Nat → Nat → Nat
  | 0, c, _ => c
  | n + 1, c, x =>
    if (c / 2 ^ 31 + x) % 2 = 1 then crcOver n ((2 * c % 2 ^ 32) ^^^ 0x04C11DB7) (x / 2) else crcOver n (2 * c % 2 ^ 32) (x / 2)

/-- The CRC-32 of bits [479:0]. PRESUMED, safe (log 58). -/
def crc32 (x : Nat) : BitVec 32 := ~~~ BitVec.ofNat 32 (crcOver 480 (2 ^ 32 - 1) x)

/-- A flit: payload, sequence number, CRC. -/
def flitOf (payload seq : Nat) : BitVec 512 :=
  let low := payload % 2 ^ 472 + 2 ^ 472 * (seq % 256)
  BitVec.ofNat 512 (low + 2 ^ 480 * (crc32 low).toNat)

/-- Its CRC agrees with its other bits. -/
def flitGood (f : BitVec 512) : Bool := f.toNat / 2 ^ 480 == (crc32 (f.toNat % 2 ^ 480)).toNat

/-- Payloads of a packet, 59 bytes in each flit. PRESUMED, safe (log 58). -/
def payloads : Nat → List Byte → List (List Byte)
  | 0, _ => []
  | n + 1, bs => bs.take 59 :: payloads n (bs.drop 59)

/-- The flits of a packet, numbered from a number on. -/
def flitsOf (seq : Nat) (bs : List Byte) : List (BitVec 512) :=
  (payloads ((bs.length + 58) / 59) bs).zipIdx.map fun x => flitOf (natOfBytes x.1) (seq + x.2)

/-- A flit of a direction fails for the receiver: it and those behind it are discarded, and a replay is asked for. -/
def LinkDir.fail (d : LinkDir) (seq : Nat) : LinkDir :=
  { d with bad := some seq, fails := if d.bad = some seq then d.fails else 0, asked := true }

/-- Send a packet, with damage to one 32-bit lane of one flit: whether the receiver has it whole. None where
another packet must be sent again first, or where the damage names no flit that is sent. -/
def LinkDir.send (d : LinkDir) (bs : List Byte) (place : Nat) (damage : BitVec 32) : Option (Bool × LinkDir) :=
  let fs := flitsOf d.next bs
  let kept := d.replay.take (d.replay.length - d.unread)
  let i := place / 16
  let hit := fun (x : BitVec 512 × Nat) =>
    if x.2 = i then x.1 ^^^ (damage.setWidth 512) <<< (32 * (place % 16)) else x.1
  if d.asked || (d.unread ≠ 0 && d.replay.drop (d.replay.length - d.unread) ≠ fs) then none
  else if damage ≠ 0 && (i < d.got || fs.length ≤ i) then none
  else
    let buf := kept ++ fs
    let buf := buf.drop (buf.length - 256)
    match fs.zipIdx.find? fun x => !flitGood (hit x) with
    | none => some (true, { next := (d.next + fs.length) % 256, replay := buf })
    | some x => some (false, { d with replay := buf, unread := fs.length, got := x.2 }.fail ((d.next + x.2) % 256))

/-- A flit has failed: LINK_CRC counts it. -/
def State.crcFailed (s : State) (k : Nat) (f : Link → Link) : State := (s.bump (stackReg k 0)).modLink k f

/-- STK_STAT.TRN: the link is being retrained, and nothing is sent. -/
def State.training (s : State) (k : Nat) : Bool := bit (s.stkStat k) 2

/-- The bytes of a command to a queue engine. PRESUMED, safe (log 58). -/
def cmdBytes (c : Option QCmd) : List Byte :=
  let n := fun (xs : List Nat) => xs.flatMap (bytesOfNat 8)
  match c with
  | none => []
  | some (.push q ctx e) => n [0, q, ctx] ++ e
  | some (.pop q ctx core) => n [1, q, ctx, core]
  | some (.query q ctx sel) => n [2, q, ctx, sel]
  | some (.emit l ctx node src e) => n [3, l, ctx, node, src] ++ e
  | some (.spill q ctx core l gang wg e num pay) =>
    n [4, q, ctx, core, l, gang, wg, e, num] ++ pay.flatMap fun w => bytesOfNat 4 w.1.toNat ++ bytesOfNat 1 w.2.toNat

/-- Data in beats of 32 bytes, the last filled up with zeros (R451). -/
def beats (bs : List Byte) : List Byte := bs ++ List.replicate ((32 - bs.length % 32) % 32) 0

/-- The bytes of a request: its header, its masks and its data (R451). -/
def State.packet (s : State) : List Byte :=
  let a := s.sched.arg
  bytesOfNat 16 a.hdr.toNat ++ a.masks.flatMap (fun m => bytesOfNat 4 m.toNat) ++ a.bytes ++ beats (cmdBytes a.cmd)

/-- An answer to a request (R453). -/
def State.answer (s : State) (k : Nat) (p : Pkh) (st : Nat) (data : List Byte) : State :=
  let a := s.sched.arg
  s.modLink k fun l =>
    { l with tags := l.tags ++ [{ tag := p.tag, tc := p.tc, op := a.op, mask := a.threads, va := a.va }],
             rsps := l.rsps ++ [(p.tag, st, data)] }

/-- A tag of its class is free for a request: one request for each tag, and 64 tags kept for TC0, so that the
other classes hold at most 960 (R452). -/
def Link.tagFree (l : Link) (p : Pkh) : Bool :=
  !(l.tags.any fun t => t.tag == p.tag) && decide (l.tags.length < 1024)
    && (p.tc == 0 || decide ((l.tags.filter fun t => t.tc != 0).length < 960))

/-- The bytes of a response (R451). -/
def rspPacket (tag tc st : Nat) (data : List Byte) : List Byte :=
  bytesOfNat 16 (5 + 8 * tc + 32 * tag + 2 ^ 19 * st) ++ data

/-! ### Hot pages (R458, R459) -/

/-- A nomination; a queue that cannot take it, or is not of context 0, drops it. DEDUCED, unsafe (log 59). -/
def State.nominate (s : State) (kind k f count : Nat) : State :=
  let q := (s.reg 0x4A4).toNat % 4096
  if s.queueTakes 0 q then
    (s.pushEntry q 0 (bytesOfNat 1 kind ++ bytesOfNat 1 k ++ bytesOfNat 6 0 ++ bytesOfNat 8 (65536 * f) ++ bytesOfNat 4 count ++ List.replicate 44 0)).notify
  else s

/-- The transfers of a stack in the window under way, or in the one that has just ended there. -/
def State.windowXfers (s : State) (k : Nat) : Nat :=
  (s.link k).ended.getD ((s.hot.filter fun f => stackOf (65536 * f.1) == k).foldl (fun n f => n + f.2.xfers) 0)

/-- The window has ended on a stack: its counts go, and its total stays until the window has ended on all eight. -/
def State.closeWindow (s : State) (k : Nat) : State :=
  let s1 := s.modLink k fun l => { l with ended := some (s.windowXfers k), since := s.sched.clk }
  let s2 := { s1 with hot := s.hot.filter fun f => stackOf (65536 * f.1) ≠ k }
  if (List.range 8).all fun j => (s2.link j).ended.isSome then
    (List.range 8).foldl (fun s j => s.modLink j fun l => { l with ended := none }) s2
  else s2

/-- The window of 2^HOT_CTL.WIN µs of a stack is over. DESIGN CHOICE, unsafe (log 15). -/
def State.windowOver (s : State) (k : Nat) : Bool :=
  (s.link k).ended.isNone && (s.link k).since + 2100 * 2 ^ bits (s.reg 0x4A3).toNat 7 4 ≤ s.sched.clk

/-- A stack's window ends: its frames are nominated, and its counts go. DEDUCED, unsafe (log 59). -/
def State.endWindow (s : State) (k : Nat) : State :=
  let thr := bits (s.reg 0x4A3).toNat 23 8
  let mine := s.hot.filter fun f => stackOf (65536 * f.1) == k
  let xfers := s.windowXfers k
  let others := ((List.range 8).filter (· ≠ k)).foldl (fun n j => n + s.windowXfers j) 0
  let skip := fun (s : State) => s.bump (stackReg k 6)
  let s := mine.foldl (fun s f =>
    if thr ≤ f.2.count && f.2.sk && !f.2.nc then
      if f.2.pin then skip s else s.nominate 1 k f.1 f.2.count
    else s) s
  let hot := mine.foldl (fun m f => match m with
    | none => some f
    | some g => if g.2.count < f.2.count then some f else some g) (none : Option (Nat × HotFrame))
  let s' := match hot with
    | some f => if 3 * others < 14 * xfers then (if f.2.pin then skip s else s.nominate 2 k f.1 f.2.count) else s
    | none => s
  s'.closeWindow k

/-- Windows that are over end before the tracker counts on. -/
def State.endWindows (s : State) : State := (List.range 8).foldl (fun s k => if s.windowOver k then s.endWindow k else s) s

/-- HOT_WINDOW_END. The windows of the stacks end together, one step for each. DEDUCED, unsafe (log 59). -/
def hotWindowEnd (s : State) : Option State :=
  let k := s.sched.arg.a
  if 8 ≤ k || !(s.reg 0x4A3).getLsbD 0 || !s.windowOver k then none else some (s.endWindow k)

/-- The windows begin as the tracker is enabled anew. DEDUCED, unsafe (log 59). -/
def State.openWindows (s : State) : State :=
  (List.range 8).foldl (fun s k => s.modLink k fun l => { l with since := s.sched.clk }) s

/-- The tracker counts a request of a frame (R458): the header does not carry the SK bit of its page, nor that a read or
write is of an NC page, so the turn says them. PRESUMED, unsafe (log 58). -/
def State.trackHot (s : State) (p : Pkh) (nc : Bool) : State :=
  if (s.reg 0x4A3).getLsbD 0 then
    let s := s.endWindows
    let f := p.addr / 65536
    let x := (look s.hot f).getD {}
    let page := s.sched.arg.b
    { s with hot := put s.hot f { count := x.count + 1, xfers := x.xfers + p.secs, sk := bit page 0, pin := x.pin || p.pin, nc := x.nc || nc || bit page 1 } }
  else s

/-- A request met an uncorrectable codeword (R454): the event is counted, once where the operation that the request
serves has met it already. -/
def State.requestUe (s : State) (loc : Nat) : State :=
  if s.ops.any fun o => o.id == s.sched.arg.op && o.fault.isSome then s else s.countUe loc

/-- Receive a request of a kind at a base die: reserved kinds fail as a CRC does, a link in training holds it, and a
stack whose link is down answers status 2 (R450 to R453). -/
def State.receive (s : State) (kind : Nat) (f : Nat → Pkh → State → Option State) : Option State :=
  let x := s.sched.arg
  let k := x.a
  let p := pkhOf x.hdr
  let l := s.link k
  if 8 ≤ k then none
  else if s.stackDown k then (if p.kind = kind && l.tagFree p then some (s.answer k p 2 []) else none)
  else if s.training k then none
  else if p.kind = 6 ∨ p.kind = 7 then
    if l.req.asked then none else some (s.crcFailed k fun l => { l with req := l.req.fail ((l.req.next + l.req.got) % 256) })
  else if p.kind ≠ kind || !l.tagFree p then none
  else match l.req.send s.packet x.c x.value with
    | none => none
    | some (false, d) => some (s.crcFailed k fun l => { l with req := d })
    | some (true, d) => f k p (s.modLink k fun l => { l with req := d })

/-- A range of sectors in one stack. -/
def sectorsOk (k : Nat) (p : Pkh) : Bool :=
  p.addr % 32 == 0 && isHbm (p.addr + 32 * p.secs - 1) && stackOf p.addr == k && stackOf (p.addr + 32 * p.secs - 1) == k

/-- PACKET_RD (R451, R453, R454). -/
def packetRd (s : State) : Option State :=
  s.receive 0 fun k p s =>
    if !sectorsOk k p then none
    else
      let s := s.trackHot p false
      let secs := (List.range p.secs).map fun i => p.addr / 32 + i
      match secs.find? fun x => (s.mem.badCodeword (32 * x)).isSome with
      | some x => some ((s.requestUe (32 * x)).answer k p 1 [])
      | none =>
        let s := s.corrected 3 p.addr (32 * p.secs)
        some (s.answer k p 0 ((List.range (32 * p.secs)).map fun i => s.mem.dieByte (p.addr + i)))

/-- PACKET_WR (R451, R454, R457): a mask and 32 bytes for each sector; a partial write of one that cannot be read is
dropped. -/
def packetWr (s : State) : Option State :=
  s.receive 1 fun k p s =>
    if !sectorsOk k p || s.sched.arg.masks.length ≠ p.secs || s.sched.arg.bytes.length ≠ 32 * p.secs then none
    else
      let s := s.trackHot p false
      let ms := s.sched.arg.masks
      let data := s.sched.arg.bytes
      let full := fun i => ms.getD i 0 == (-1)
      let lost := fun i => (s.mem.badCodeword (p.addr + 32 * i)).isSome && !full i
      let is := List.range p.secs
      let bad := is.filter lost
      let s := match bad with
        | i :: _ => s.requestUe (p.addr + 32 * i)
        | [] => s
      let good := is.filter fun i => !bad.contains i
      let s := { s with mem := s.mem.renew ((good.filter full).map fun i => p.addr / 32 + i) }
      let put := fun (m : Mem) i => (List.range 32).foldl (fun m j =>
        if (ms.getD i 0).getLsbD j then m.hbmPut (p.addr + 32 * i + j) (data.getD (32 * i + j) 0) else m) m
      let s := { s with mem := good.foldl put s.mem }
      let blks := (good.map fun i => (p.addr / 32 + i) / 8).eraseDups
      let s := blks.foldl (fun s b => s.recode p.rcd b) s
      some (s.notify.answer k p (if bad = [] then 0 else 1) [])

/-- One atomic at a place: the old value, none where it cannot be read. -/
def State.atomicAt (s : State) (a : Agent) (loc : Nat) (ty : Ty) (op v : Nat) : State × Option Nat :=
  let f := if ty = .f32 ∨ ty = .bf16 then atomfNew ty op else atomNew ty op
  rmw a loc (atomSize ty) (fun o => some (f o v)) s

/-- An atomic as a base die performs it: the operation of R300 on a type, or a compare and a new value. -/
inductive DieAtom where
  | op (ty : Ty) (code v : Nat)
  | cas (ty : Ty) (cmp new : Nat)
  deriving DecidableEq, Repr

/-- The type and operation of an ATOM packet, with its operands from the beat: type code in the low five bits of opw,
operation above. A type of CAS and CAS2 takes the compare value and then the new one. PRESUMED, unsafe (log 58). -/
def atomOf (p : Pkh) (beat : List Byte) : Option DieAtom :=
  let code := bits p.opw 8 5
  (Ty.ofCode (bits p.opw 4 0)).bind fun ty =>
    let n := atomSize ty
    if ty = .b32 ∨ ty = .b64 ∨ ty = .b128 then
      (if code = 0 then some (.cas ty (natOfBytes (beat.take n)) (natOfBytes ((beat.drop n).take n))) else none)
    else if n = 0 ∨ 8 < code then none
    else some (.op ty code (natOfBytes (beat.take n)))
def DieAtom.ty : DieAtom → Ty
  | .op ty _ _ => ty
  | .cas ty _ _ => ty

/-- Perform it at a place: the old value, none where it cannot be read. -/
def State.dieAtomic (s : State) (a : Agent) (loc : Nat) : DieAtom → State × Option Nat
  | .op ty code v => s.atomicAt a loc ty code v
  | .cas ty cmp new => rmw a loc (atomSize ty) (fun o => if o = cmp then some new else none) s

/-- PACKET_ATOM (R297, R451, R457): its page is not cached, so HBM itself changes; the old value is answered in a beat. PRESUMED, unsafe (log 58). -/
def packetAtom (s : State) : Option State :=
  s.receive 2 fun k p s =>
    match (if s.sched.arg.bytes.length = 32 then atomOf p s.sched.arg.bytes else none) with
    | none => none
    | some x =>
      let n := atomSize x.ty
      if !isHbm (p.addr + n - 1) || stackOf p.addr ≠ k then none
      else
        let s := s.trackHot p true
        let (s, old) := s.dieAtomic { nc := true, rcd := p.rcd } p.addr x
        match old with
        | some o => some (s.answer k p 0 (bytesOfNat 32 o))
        | none => some (s.answer k p 1 [])

/-- A launch takes a command's record for a node: it is running, in the command's context, and the record has the
node's size. -/
def Launch.takesRec (l : Launch) (ctx node : Nat) (e : List Byte) : Bool :=
  l.st == .running && l.ctx == ctx && l.trapped.isNone && match l.obj.nodes[node]? with
    | some n => e.length == 16 * n.size
    | none => false

/-- A launch takes a thread that a gatherer spills: it is running, its spill queue is the one named, and the entry is
one of its own with a payload of its size. -/
def Launch.takesItem (l : Launch) (ctx q e : Nat) (pay : List (W32 × BitVec 4)) : Bool :=
  l.st == .running && l.ctx == ctx && l.trapped.isNone && l.lrec.spillq == q && match l.obj.spawns[e]? with
    | some x => pay.length == x.pay
    | none => false

/-- A queue engine serves a command (R332, R335, R340, R341, R346, R357), each object at its home stack: none where
the command waits, else the answer. A pop of a spill queue takes the oldest thread of the popping core to its
gatherer. -/
def State.queueCmd (s : State) (k : Nat) : QCmd → Option (State × List Byte)
  | .push q ctx e =>
    let x := s.queue q
    if q % 8 ≠ k ∨ 4096 ≤ q ∨ e.length ≠ 64 then none
    else if x.type == 1 && x.ctx == ctx && x.depth < x.cap then some ((s.pushEntry q 0 e).notify, [1])
    else some (s, [0])
  | .pop q ctx core =>
    let x := s.queue q
    if q % 8 ≠ k then none
    else if x.type == 3 && x.ctx == ctx then
      if s.spilled q core = [] then some (s, [0])
      else if (s.core core).spawnQ.length < 2048 then some (s.refillSpawn q core 1, [1])
      else none
    else if x.type == 1 && x.ctx == ctx then
      match s.popEntry q with
      | some (e, s) => some (s, [1] ++ e.2)
      | none => some (s, [0])
    else some (s, [0])
  | .query q ctx sel =>
    let x := s.queue q
    if q % 8 ≠ k then none
    else some (s, bytesOfNat 4 (if x.type ≠ 0 ∧ x.ctx = ctx then x.value sel else 0))
  | .emit l ctx node src e =>
    if node % 8 ≠ k then none
    else if (s.launch l).takesRec ctx node e then
      let it : Emit := { launch := l, node := node, src := src, bytes := e }
      if s.emitAhead s.sched.fresh it then none else (s.emitOne it).map fun s => ((s.launchOver l).notify, [1])
    else some (s, [0])
  | .spill q ctx core l gang wg e num pay =>
    let x := s.queue q
    if q % 8 ≠ k ∨ 256 ≤ core then none
    else if x.type == 3 && x.ctx == ctx && x.depth < x.cap && (s.launch l).takesItem ctx q e pay then
      some ((s.spillThread core
        { launch := l, gang := gang, wg := wg, e := e, payload := pay, join := none, num := num, parent := 0, at_ := s.sched.clk }).notify, [1])
    else some (s, [0])

/-- The queue command that opw carries. PRESUMED, unsafe (log 58). -/
def qcmdCode : QCmd → Nat
  | .push _ _ _ => 0
  | .pop _ _ _ => 1
  | .query _ _ _ => 2
  | .emit _ _ _ _ _ => 3
  | .spill _ _ _ _ _ _ _ _ _ => 4

/-- PACKET_QCMD (R332): opw carries the command (R451). -/
def packetQcmd (s : State) : Option State :=
  s.receive 3 fun k p s =>
    match s.sched.arg.cmd with
    | none => none
    | some c => if p.opw = qcmdCode c then (s.queueCmd k c).map fun r => r.1.answer k p 0 (beats r.2) else none

/-- PACKET_CTL (R450): a replay request names the failing flit, and the sender resends from it.
PRESUMED, unsafe (log 58). -/
def packetCtl (s : State) : Option State :=
  let x := s.sched.arg
  let k := x.a
  let p := pkhOf x.hdr
  let d := if x.flag then (s.link k).rsp else (s.link k).req
  let again := fun (d : LinkDir) => { d with asked := false, fails := d.fails + 1 }
  if 8 ≤ k || s.stackDown k || s.training k || p.kind ≠ 4 || !d.asked || 8 ≤ d.fails || d.bad ≠ some (p.opw % 256) then none
  else some ((s.bump (stackReg k 1)).modLink k fun l => if x.flag then { l with rsp := again l.rsp } else { l with req := again l.req })

/-- A response is taken, and its tag is free. -/
def Link.taken (l : Link) (r : Nat × Nat × List Byte) : Link :=
  { l with tags := l.tags.filter fun t => t.tag ≠ r.1, rsps := l.rsps.erase r }

/-- The status of a response comes to the operation that its request serves (R453): 1 and 2 are MEMORY_DATA_ERROR under
R253 and R303. -/
def State.served (s : State) (t : Tag) (st : Nat) : State :=
  if st = 0 then s
  else match s.ops.find? fun o => o.id == t.op with
    | some o => s.loseThreads o t.mask t.va
    | none => s

/-- PACKET_RSP (R450, R452, R453): the response frees its tag, and its status comes to what the request serves; a link
that is down needs no flit to give status 2. -/
def packetRsp (s : State) : Option State :=
  let x := s.sched.arg
  let k := x.a
  let l := s.link k
  match l.rsps.find? fun r => r.1 == x.b with
  | none => none
  | some r =>
    let t := (l.tags.find? fun t => t.tag == r.1).getD { tag := r.1, tc := 0 }
    let s1 := s.served t r.2.1
    if s.stackDown k then some (s1.modLink k fun l => l.taken r)
    else if s.training k then none
    else
      match l.rsp.send (rspPacket r.1 t.tc r.2.1 r.2.2) x.c x.value with
      | none => none
      | some (false, d) => some (s.crcFailed k fun l => { l with rsp := d })
      | some (true, d) => some (s1.modLink k fun l => { l.taken r with rsp := d })

/-! ### Retraining -/

/-- A flit has failed in eight replays. -/
def LinkDir.stuck (d : LinkDir) : Bool := d.asked && decide (8 ≤ d.fails)
/-- The link must be retrained, or its training goes on (R450). -/
def Link.mustTrain (l : Link) : Bool := l.req.stuck || l.rsp.stuck || l.trainFails ≠ 0

/-- LINK_RETRAIN (R450): after 8 failed replays of one flit, or a training that failed; the flits in the replay
buffers are resent afterwards. -/
def linkRetrain (s : State) : Option State :=
  let k := s.sched.arg.a
  let l := s.link k
  if 8 ≤ k || s.stackDown k || !l.mustTrain then none
  else
    let st := s.stkStat k
    let spare := bits st 5 3
    let keep := bits st 6 6 * 64
    let s := s.bump (stackReg k 2)
    let fresh := fun (d : LinkDir) => { d with fails := 0, asked := false }
    let down := fun (s : State) =>
      (s.setStk k (keep + 8 * spare + 2)).modLink k fun l => { l with rsps := l.tags.map fun t => (t.tag, 2, []) }
    if !s.sched.arg.flag then
      if l.trainFails + 1 = 4 then some (down s)
      else some ((s.setStk k (keep + 8 * spare + 4)).modLink k fun l => { l with trainFails := l.trainFails + 1 })
    else if 4 < spare + s.sched.arg.b then some (down s)
    else some ((s.setStk k (keep + 8 * (spare + s.sched.arg.b) + 1)).modLink k fun l =>
      { l with req := fresh l.req, rsp := fresh l.rsp, trainFails := 0 })

/-- UALINK_PORT_RETRAIN (R460): one spare lane for each port. A flit that fails its CRC, and one sent again, are counted
(R463). -/
def portRetrain (s : State) : Option State :=
  let p := s.sched.arg.a
  let r := 0x483 + 4 * p
  let st := (s.reg r).toNat
  if 8 ≤ p || bit st 2 then none
  else if s.sched.arg.c = 1 then some (s.bump (0x480 + 4 * p))
  else if s.sched.arg.c = 2 then some (s.bump (0x481 + 4 * p))
  else
    let n := bits st 1 1 + s.sched.arg.b
    some (s.setReg r (BitVec.ofNat 32 (if n ≤ 1 then 1 + 2 * n else 2 * bits st 1 1 + 4)))

/-- A flit of the Vetik Link fails its CRC and a replay is asked for, or it is replayed, as on the packet links
(R450, R467). -/
def vetikFlit (s : State) : Option State :=
  let l := (look s.ports 8).getD {}
  let set := fun (s : State) (d : LinkDir) => { s with ports := put s.ports 8 { l with req := d } }
  if (s.reg 0x543).getLsbD 4 then none
  else if s.sched.arg.c = 1 then
    (if l.req.asked then none else some (set (s.bump 0x544) { l.req with asked := true, fails := if s.sched.arg.flag then l.req.fails else 0 }))
  else if l.req.asked && decide (l.req.fails < 8) then some (set (s.bump 0x545) { l.req with asked := false, fails := l.req.fails + 1 })
  else none

/-- VETIK_RETRAIN (R467): a link that goes down fails every access that waits on it. -/
def vetikRetrain (s : State) : Option State :=
  let st := (s.reg 0x543).toNat
  if bit st 3 then none
  else if s.sched.arg.c = 1 ∨ s.sched.arg.c = 2 then vetikFlit s
  else
    let spare := bits st 2 1
    let l := (look s.ports 8).getD {}
    let set := fun (v : Nat) (f : Nat) (s : State) =>
      { s.setReg 0x543 (BitVec.ofNat 32 v) with ports := put s.ports 8 { l with trainFails := f } }
    let down := fun (s : State) =>
      let s := set (2 * spare + 8) l.trainFails s
      s.ops.foldl (fun s o => (o.requests false).foldl (fun s r => s.linkError o r) s) s
    if !s.sched.arg.flag then
      if l.trainFails + 1 = 4 then some (down s) else some (set (2 * spare + 16) (l.trainFails + 1) s)
    else if 2 < spare + s.sched.arg.a then some (down s)
    else
      let s := set (1 + 2 * (spare + s.sched.arg.a)) 0 s
      some { s with ports := upd s.ports 8 fun l => { l with req := {} } }

/-! ### Scrubbing (R455) -/

/-- Codewords of a stack: 1,048,576 frames of 2,048 sectors (R449). -/
def stackSectors : Nat := 2 ^ 31

/-- Of each eight frames that follow one another a stack holds one (R449): its n-th sector in address order. -/
def stackSector (k n : Nat) : Nat :=
  let f := 8 * (n / 2048)
  (f + (k ^^^ stackOf (65536 * f))) * 2048 + n % 2048

/-- SCRUB: the next codeword of the stack is read; an uncorrectable one is reported by the counters only. A recoded
block has six codewords (R454), so nothing stands at its last two places. At ID3 and ID4 the place stays.
DESIGN CHOICE, unsafe (log 113). -/
def scrub (s : State) : Option State :=
  let k := s.sched.arg.a
  let sec := stackSector k (s.link k).scrub
  if !(s.reg 0x4A5).getLsbD 0 || 3 ≤ s.depth || s.stackDown k || 8 ≤ k then none
  else
    let s := s.modLink k fun l => { l with scrub := (l.scrub + 1) % stackSectors }
    if s.mem.recoded.contains (sec / 8) && decide (6 ≤ sec % 8) then some s
    else if s.mem.bad sec then some (s.logUe sec) else some (s.corrected 5 (32 * sec) 32)

/-! ### Accesses from outside (R461, R466) -/

/-- Address and length of an access. -/
def accRange : HostAccess → Nat × Nat
  | .load p n => (p, n)
  | .store p d => (p, d.length)
  | .atomic p ty _ _ => (p, atomSize ty)
  | .cas p ty _ _ => (p, atomSize ty)
  | .facc p _ _ => (p, pixelBytes)
  | .fres p _ => (p, pixelBytes)
  | .fclr p n => (p, pixelBytes * n)

/-- The permission bit it needs: a film command that reads and writes is an atomic. DEDUCED, unsafe (log 60). -/
def accPerm : HostAccess → Nat
  | .load _ _ => 0
  | .store _ _ => 1
  | .atomic _ _ _ _ => 2
  | .cas _ _ _ _ => 2
  | .facc _ _ _ => 2
  | .fres _ clr => if clr then 2 else 0
  | .fclr _ _ => 1

/-- A film command, which only a peer sends (R376), names whole pixels. -/
def accFilm : HostAccess → Bool
  | .facc _ _ _ => true
  | .fres _ _ => true
  | .fclr _ _ => true
  | _ => false

/-- Perform it as the .sys agent; the reply is 0 and the data, or 1 for an error. -/
def State.perform (s : State) (ag : Agent) (a : HostAccess) : State :=
  let lost := fun (s : State) p n => { s.countUe (s.firstBad p n) with reply := [1] }
  let atomic := fun (p : Nat) (x : DieAtom) => match s.dieAtomic ag p x with
    | (s, some o) => { s with reply := 0 :: bytesOfNat (atomSize x.ty) o }
    | (s, none) => { s with reply := [1] }
  match a with
  | .load p n =>
    if s.badBytes p n then lost s p n else { (s.touch p n).corrected 3 p n with reply := 0 :: s.mem.read p n }
  | .store p d =>
    let (s, bad) := s.storeRange ag p d
    { s with reply := [BitVec.ofNat 8 (b2n bad)] }
  | .atomic p ty op v => atomic p (.op ty op v)
  | .cas p ty cmp new => atomic p (.cas ty cmp new)
  | .facc p vals lams =>
    if s.badBytes p pixelBytes then lost s p pixelBytes
    else
      let s := (filmSamples (vals.map (·.toNat)) (lams.map (·.toNat))).foldl (fun s x => s.addSample {} p x.1 x.2) s
      { s with reply := [0] }
  | .fres p clr =>
    if s.badBytes p pixelBytes then lost s p pixelBytes
    else
      let vs := (s.bins p).flatMap fun b => bytesOfNat 4 (filmValue b)
      let s := if clr then s.poke {} p (List.replicate pixelBytes 0) else s
      { s with reply := 0 :: vs }
  | .fclr p n =>
    let (s, bad) := s.storeRange {} p (List.replicate (pixelBytes * n) 0)
    { s with reply := [BitVec.ofNat 8 (b2n bad)] }

/-- A window of UAL_WTAB covers the access, and allows its sender and kind. DEDUCED, unsafe (log 60). -/
def windowAllows (l : List Byte) (pkg : Nat) (a : HostAccess) : Bool :=
  let base := field l 0 8
  let size := field l 8 8
  let perm := byteAt l 20
  let (p, n) := (accRange a)
  bit perm 3 && bit perm (accPerm a) && base ≤ p && p + n ≤ base + size && field l 16 2 ≤ pkg && pkg ≤ field l 18 2

/-- UALINK_INBOUND (R461). -/
def ualinkInbound (s : State) : Option State :=
  let port := s.sched.arg.a
  let st := (s.reg (0x483 + 4 * port)).toNat
  match s.sched.arg.acc with
  | none => none
  | some a =>
    if 8 ≤ port || bit st 2 || (accRange a).2 = 0 || (accFilm a && (accRange a).1 % pixelBytes ≠ 0) then none
    else
      let s := s.awake
      let tab := s.reg64 0x4A1
      let (p, n) := (accRange a)
      let ok := (List.range 16).any fun i => windowAllows (s.mem.read (tab + 32 * i) 32) s.sched.arg.b a
      if ok && inOneRegion p n then some (s.perform {} a) else some ({ s with reply := [1] }.bump (0x482 + 4 * port))

/-- The host reads or writes its own memory (R466): the link need not be up, and what the device reads from then on is
what the host wrote, unless an L1 still has the line. -/
def State.hostOwn (s : State) (a : HostAccess) : State :=
  let v := s.reg 0x543
  ((s.setReg 0x543 (setBit v 3 false)).perform { nc := true } a).setReg 0x543 v

/-- HOST_MEMORY_ACCESS (R466): the host reaches device memory, and the line's host-presence bit is set, or its own; what
the link cannot complete leaves device memory as it is (R467). DEDUCED, unsafe (log 60). -/
def hostMemoryAccess (s : State) : Option State :=
  match s.sched.arg.acc with
  | none => none
  | some a =>
    let (p, n) := (accRange a)
    if n = 0 || accFilm a then none
    else if isHost p && isHost (p + n - 1) then some (s.hostOwn a)
    else if !isHbm (p + n - 1) || (s.reg 0x543).getLsbD 3 then none
    else
      let s := s.awake.perform {} a
      let lines := (List.range ((p + n - 1) / 128 - p / 128 + 1)).map fun i => p / 128 + i
      some { s with mem := { s.mem with present := s.mem.present ++ lines.filter fun x => !s.mem.present.contains x } }

/-! ### Heat of the stack dies (R248) -/

/-- Every sensor of a stack die read below 90 °C last. -/
def State.allCool (s : State) (d : Nat) : Bool := (List.range 8).all fun i => (look s.heat (8 * d + i)).getD 0 < 90

/-- A sensor reads a temperature. DESIGN CHOICE, unsafe (log 125). -/
def State.sense (s : State) (d i temp : Nat) : State :=
  let s1 := { s with heat := put s.heat (8 * d + i) temp }
  if s1.allCool d && !s.allCool d then { s1 with cool := put s1.cool d s.sched.clk } else s1

/-- STACK_HOT_SET (R248): a sensor of a stack die reads a temperature, and the flag is set at 95 °C or more. -/
def stackHotSet (s : State) : Option State :=
  let d := s.sched.arg.a
  let temp := s.sched.arg.c
  if 2 ≤ d || 8 ≤ s.sched.arg.b then none
  else
    let s := s.sense d s.sched.arg.b temp
    some (if 95 ≤ temp then s.setReg 0x302 (setBit (s.reg 0x302) d true) else s)

/-- STACK_HOT_CLEAR (R248): every sensor has read below 90 °C for 1 ms of core clocks. DESIGN CHOICE, unsafe (log 15). -/
def stackHotClear (s : State) : Option State :=
  let d := s.sched.arg.a
  if 2 ≤ d || !s.allCool d || s.sched.clk < (look s.cool d).getD 0 + 2100000 then none
  else some (s.setReg 0x302 (setBit (s.reg 0x302) d false))

/-- PACKET_RD (R451). -/
def execPacketRd (s : State) : Host.Outcome State Fault Refusal := event s packetRd
/-- PACKET_WR (R451). -/
def execPacketWr (s : State) : Host.Outcome State Fault Refusal := event s packetWr
/-- PACKET_ATOM (R451). -/
def execPacketAtom (s : State) : Host.Outcome State Fault Refusal := event s packetAtom
/-- PACKET_QCMD (R332). -/
def execPacketQcmd (s : State) : Host.Outcome State Fault Refusal := event s packetQcmd
/-- PACKET_CTL (R450). -/
def execPacketCtl (s : State) : Host.Outcome State Fault Refusal := event s packetCtl
/-- PACKET_RSP (R453). -/
def execPacketRsp (s : State) : Host.Outcome State Fault Refusal := event s packetRsp
/-- LINK_RETRAIN (R450). DESIGN CHOICE, safe (log 89). -/
def execLinkRetrain (s : State) : Host.Outcome State Fault Refusal := event s linkRetrain
/-- UALINK_PORT_RETRAIN (R460). -/
def execUalinkPortRetrain (s : State) : Host.Outcome State Fault Refusal := event s portRetrain
/-- VETIK_RETRAIN (R467). -/
def execVetikRetrain (s : State) : Host.Outcome State Fault Refusal := event s vetikRetrain
/-- SCRUB (R455). -/
def execScrub (s : State) : Host.Outcome State Fault Refusal := event s scrub
/-- HOT_WINDOW_END (R458). -/
def execHotWindowEnd (s : State) : Host.Outcome State Fault Refusal := event s hotWindowEnd
/-- UALINK_INBOUND (R461). -/
def execUalinkInbound (s : State) : Host.Outcome State Fault Refusal := event s ualinkInbound
/-- HOST_MEMORY_ACCESS (R466). -/
def execHostMemoryAccess (s : State) : Host.Outcome State Fault Refusal := event s hostMemoryAccess
/-- STACK_HOT_SET (R248). DESIGN CHOICE, safe (log 89). -/
def execStackHotSet (s : State) : Host.Outcome State Fault Refusal := event s stackHotSet
/-- STACK_HOT_CLEAR (R248). -/
def execStackHotClear (s : State) : Host.Outcome State Fault Refusal := event s stackHotClear

end Sys2Proof.Machine
end

