-- ==== Sys2Proof/Machine/Matrix.lean ====
section
/-! DEFINITION. The matrix instructions of chapter 10 (R223 to R241). The engine performs every effect on
a tile as the word is accepted, so the order of R239 is the order of issue. -/

namespace Sys2Proof

/-- The tile a matrix word names. -/
def XF.tileN (x : XF) : Nat := x.tile.toNat

end Sys2Proof

namespace Sys2Proof.Machine

/-! ### Tiles (R223) -/

/-- The 64 words of row i of a tile. -/
def Core.tileRow (c : Core) (t i : Nat) : List Nat :=
  (List.range 64).map fun j => ((look c.acc (512 * t + 64 * i + j)).getD 0).toNat

/-- Put a whole tile, rows of 64 words; zero words are not listed. -/
def Core.putTile (c : Core) (t : Nat) (rows : List (List Nat)) : Core :=
  let words := rows.flatten
  let new := (List.range 512).zip words |>.filterMap fun p =>
    let w := BitVec.ofNat 32 p.2
    if w = 0 then none else some (512 * t + p.1, w)
  { c with acc := (c.acc.filter fun x => x.1 < 512 * t) ++ new ++ c.acc.filter fun x => 512 * t + 512 ≤ x.1 }

def Core.tileSt (c : Core) (t : Nat) : BitVec 64 := (look c.tiles t).getD 0
def Core.setTileSt (c : Core) (t : Nat) (v : BitVec 64) : Core :=
  { c with tiles := if v = 0 then del c.tiles t else put c.tiles t v }

/-! ### Convergence and offsets (R228, R229, R231) -/

/-- Every thread active, and one guard value for all; false when the word does nothing. -/
def State.wholeBeam (s : State) (h : Hd) : R Bool := do
  need (s.cb.active == -1) Code.illegalConvergence (~~~s.cb.active)
  let g := mask8 fun t => s.guard h t
  need (g == 0 || g == -1) Code.illegalConvergence (~~~g)
  .ok (g == -1)

/-- A scratchpad offset: alignment by layout, and n bytes within the allocation; the trap save region is none of it
for an engine (R228, R394). -/
def State.matOff (s : State) (f : RF) (lay n : Nat) : R Nat := do
  s.sIn f
  let off ← s.uni32 f
  need (off % (if lay = 0 then 64 else 1024) == 0) Code.illegalInstruction
  need (off + n ≤ s.cwg.spadSize) Code.scratchBounds (-1)
  .ok off

/-- A word of the bytes that an engine reads cannot be read (R253, R477). DESIGN CHOICE, unsafe (log 94). -/
def State.spadLost (s : State) (lay off n : Nat) : Bool := (s.spadKeys lay off n).any s.struckS
/-- The record of that error. -/
def spadFault (off : Nat) : FaultRec := { code := Code.memoryDataError, addr := off, mask := -1 }

/-- Bytes of the allocation as one little-endian number. -/
def State.spadNat (s : State) (lay off n : Nat) : Nat :=
  natOfBytes ((s.spadKeys lay off n).map (getB s.mem.scratch))

/-! ### The A operand (R225 to R227) -/

/-- An index row. -/
def aBook (x : XF) : Bool := x.cbx
def aTy (x : XF) : Ty := (Ty.ofCode x.tyo.toNat).getD .f32
/-- K of R225. -/
def aK (x : XF) : Nat := if (aTy x).width = 8 then 64 else 32
/-- The type the A elements have once they are read. -/
def aElTy (x : XF) : Ty := if aBook x then .f16 else aTy x
def bTy (x : XF) : Ty :=
  match x.mx.toNat % 8 with
  | 0 => .bf16
  | 1 => .f16
  | 2 => .e4m3
  | 3 => .e5m2
  | 4 => .e3m2
  | 5 => .e2m3
  | _ => .s8
def aHi (x : XF) : Bool := x.mx.getLsbD 3

/-- The registers of A as sources. -/
def aSrcs (x : XF) : List Src :=
  if aBook x then [{ f := x.a, v := true, want := .ty .f16, cb := some x.cbk.toNat, cbHi := aHi x }]
  else [{ f := x.a, v := true, want := .ty (aTy x) }, { f := .t (BitVec.ofNat 6 (x.a.num + 1)), v := true, want := .ty (aTy x) }]

/-- The latch key (R227). DEDUCED, unsafe (log 86). -/
def latchKey (x : XF) : Nat :=
  x.a.bits.toNat + 128 * (x.tyo.toNat + 32 * (b2n x.cbx + 2 * (x.cbk.toNat + 8 * b2n (aHi x))))

/-- Row t of A, as element bits. -/
def State.aRow (s : State) (x : XF) (t : Nat) : List Nat :=
  if aBook x then s.expand x.cbk.toNat (s.regOf { f := x.a, v := true, want := .bits 32 } t).1 32 (aHi x)
  else (aSrcs x).flatMap fun q => (s.srcElems q t).1

/-- Checks of the registers of A: tags, then indices; an index row needs its bank's shape for .hi
(R226). -/
def State.aTags (s : State) (x : XF) : R Unit := s.tagCheck (-1) (aSrcs x)
def State.aIdx (s : State) (x : XF) : R Unit := do
  ready (!(((aSrcs x).flatMap (s.srcBanks (-1))).any fun b => s.cbBusy s.cc b))
  if aBook x then
    let b := s.bank s.cc x.cbk.toNat
    s.idxCheck (-1) fun t =>
      (b.indices (s.regOf { f := x.a, v := true, want := .bits 32 } t).1 32 (aHi x)).map fun i => (x.cbk.toNat, i)
  else s.idxCheck (-1) fun t => (aSrcs x).flatMap fun q => s.srcIdx q t
/-- The A operand a latch holds. -/
def Latch.rows (l : Latch) (k : Nat) : List (List Nat) := (List.range 8).map fun i => (l.data.drop (i * k)).take k
/-- The A operand of a hit (R227): the latched one; where a register it was read from holds something else by now, or
its bank does, that or the current one, unspecified which. DESIGN CHOICE, safe (log 112). -/
def State.latched (s : State) (x : XF) (l : Latch) : List (List Nat) × State :=
  let old := l.rows (aK x)
  let rows := fun (s : State) => (List.range 8).map (s.aRow x)
  if rows (s.modCb fun b => { b with list := l.list }) = old || !(s.aTags x).isOk || !(s.aIdx x).isOk then (old, s)
  else
    let (n, s) := s.draw
    (if n % 2 = 0 then old else rows s, s)
/-- Whether .hi fits the bank: 2q index elements at most what a v register holds. -/
def State.hiFits (s : State) (x : XF) : Bool :=
  let b := s.bank s.cc x.cbk.toNat
  !aBook x || !aHi x || 2 * ((32 + 2 ^ b.ew - 1) / 2 ^ b.ew) ≤ (if b.iw = 0 then 64 else 32)

/-! ### MMA and MMAT (R232, R103) -/

/-- The columns of B: 64 lists of K decoded elements. -/
def State.bCols (s : State) (x : XF) (tr : Bool) (off : Nat) : List (List XV) :=
  let k := aK x
  let sz := (bTy x).width / 8
  (List.range 64).map fun j => (List.range k).map fun kk =>
    let o := off + (if tr then k * j + kk else 64 * kk + j) * sz
    decodeX (bTy x) false (s.spadNat x.lay.toNat o sz)

/-- Groups of eight. -/
def groups8 {α : Type} (l : List α) : List (List α) :=
  (List.range (l.length / 8)).map fun g => (l.drop (8 * g)).take 8

/-- The exact sum of a group's products. -/
def groupSum (ps : List (XV × XV)) : XV := sumProd ps
where
  sumProd : List (XV × XV) → XV
    | [] => XV.zero false
    | [p] => p.1.mul p.2
    | p :: ps => (p.1.mul p.2).add false (sumProd ps)

/-- One floating-point element: groups in ascending k, each rounded, each addition rounded. -/
def mmaF (acc : Nat) (gs : List (List (XV × XV))) : Nat :=
  gs.foldl (fun t g =>
    (rn32 ((decodeF .f32 false t).add false (decodeF .f32 false (rn32 (groupSum g)).1))).1) acc

/-- The integer of an exact sum. -/
def xInt : XV → Int
  | .num s n d e => XV.units s (n / d) e 0
  | _ => 0

/-- One integer element with its clamps. -/
def mmaI (acc : Nat) (gs : List (List (XV × XV))) : Nat × Bool :=
  gs.foldl (fun t g =>
    let (v, o) := clampI .s32 (sext 32 t.1 + xInt (groupSum g))
    (wrap 32 v, t.2 || o)) (acc, false)

/-- Status bits of a new word of a floating-point tile. -/
def wordStatus (w : Nat) : Nat :=
  match decodeF .f32 false w with
  | .nan _ => 1
  | .inf _ => 2
  | _ => 0

/-- Add A × B into a tile. -/
def Core.mma (c : Core) (x : XF) (a : List (List Nat)) (cols : List (List XV)) : Core :=
  let t := x.tileN
  let int := aTy x == .s8
  let rows := (List.range 8).map fun i =>
    let ar := (a.getD i []).map (decodeX (aElTy x) false)
    ((c.tileRow t i).zip cols).map fun p =>
      let gs := groups8 (ar.zip p.2)
      if int then let r := mmaI p.1 gs; (r.1, if r.2 then 4 else 0) else let r := mmaF p.1 gs; (r, wordStatus r)
  let st := orAll (rows.flatten.map (·.2))
  (c.putTile t (rows.map fun r => r.map (·.1))).setTileSt t (c.tileSt t ||| BitVec.ofNat 64 st)

/-- MMA and MMAT. DEDUCED, unsafe (log 86). -/
def mmaEffect (tr : Bool) (h : Hd) (x : XF) (s : State) : R State := do
  need (s.hiFits x) Code.illegalInstruction
  let go ← s.wholeBeam h
  if aBook x then s.vIn x.a else s.vSpan x.a 2
  s.sIn x.b
  if !go then .ok s
  else do
    let c ← s.flagOf h false
    let key := latchKey x
    let held := s.cb.latch.filter fun l => x.reu && l.key == key
    let hit := held.isSome
    if hit then .ok () else s.aTags x
    let off ← s.matOff x.b x.lay.toNat 4096
    if hit then .ok () else s.aIdx x
    let cols := s.bCols x tr off
    let (a, s) := match held with
      | some l => s.latched x l
      | none => ((List.range 8).map (s.aRow x), s)
    let lost := s.spadLost x.lay.toNat off 4096
    let s := if lost then s else s.modCore s.cc fun k => k.mma x a cols
    let s := if hit then s
      else s.modCb fun b => { b with latch := if x.reu then some { key := key, list := b.list, data := a.flatten } else none }
    .ok (s.later c .other [] (if lost then some (spadFault off) else none))

/-! ### Moving tiles (R233, R234) -/

/-- MZERO. -/
def mzeroEffect (h : Hd) (x : XF) (s : State) : R State :=
  if s.acts h then
    let lo := x.tileN
    let hi := lo + x.mx.toNat
    .ok (s.modCore s.cc fun c =>
      { c with acc := c.acc.filter fun w => w.1 / 512 < lo || hi < w.1 / 512,
               tiles := c.tiles.filter fun w => w.1 < lo || hi < w.1 })
  else .ok s

/-- MLOAD. -/
def mloadEffect (h : Hd) (x : XF) (s : State) : R State := do
  let c ← s.flagOf h false
  s.sIn x.b
  if !s.acts h then .ok (s.later c .other [])
  else do
    let off ← s.matOff x.b x.lay.toNat 2048
    if s.spadLost x.lay.toNat off 2048 then .ok (s.later c .other [] (some (spadFault off)))
    else
      let rows := (List.range 8).map fun i => (List.range 64).map fun j => s.spadNat x.lay.toNat (off + 256 * i + 4 * j) 4
      let s := s.modCore s.cc fun k => (k.putTile (x.tileN) rows).setTileSt (x.tileN) 0
      .ok (s.later c .other [])

/-- The first column block and the register count of MRD and MWR. -/
def mrdG (x : XF) : Nat := x.mx.toNat % 8
def mrdC (x : XF) : Nat := x.mx.toNat / 8 % 8 + 1

/-- MRD. -/
def mrdEffect (h : Hd) (x : XF) (s : State) : R State := do
  let c ← s.flagOf h true
  s.vSpan x.a (mrdC x)
  let k := s.core s.cc
  let tag : BitVec 4 := if x.mx.getLsbD 6 then 9 else 8
  let ws := (bitsOf (s.part h)).flatMap fun t => (List.range (mrdC x)).map fun r =>
    let v := ofElems 32 (((k.tileRow (x.tileN) t).drop (8 * (mrdG x + r))).take 8)
    RegWrite.v (s.tkey t) (x.a.num + r) (BitVec.ofNat 256 v) (-1) tag 32
  .ok (s.later c .other ws)

/-- MWR. -/
def mwrEffect (h : Hd) (x : XF) (s : State) : R State := do
  s.vSpan x.a (mrdC x)
  let k := s.core s.cc
  let m := s.part h
  let rows := (List.range 8).map fun t =>
    let old := k.tileRow (x.tileN) t
    if m.getLsbD t then
      let new := (List.range (mrdC x)).flatMap fun r => elems ((s.th t).getV (x.a.num + r)).toNat 32 8
      old.take (8 * mrdG x) ++ new ++ old.drop (8 * (mrdG x + mrdC x))
    else old
  .ok (s.modCore s.cc fun k => k.putTile (x.tileN) rows)

/-! ### MDRAIN (R235, R236) -/

/-- Bytes of a row: FP6 is packed as R90 gives. -/
def drainRow (f : Fs) : Nat := if f.efmt = 5 ∨ f.efmt = 6 then 48 else 64 * f.ty.width / 8
def drainRm (x : XF) : Rm :=
  match x.mx.toNat / 32 with
  | 0 => .rn
  | 1 => .rz
  | _ => .rna

/-- The row scale of a row, and the column scales. -/
def State.rowScale (s : State) (x : XF) (i : Nat) : WithFx XV :=
  if x.mx.getLsbD 0 then
    let r := s.srcElems { f := x.a, v := false, want := .ty .f32 } i
    (decodeF .f32 false (e0 r.1), r.2)
  else (.ofInt 1, 0)
def State.colScales (s : State) (x : XF) (off : Nat) : List XV :=
  (List.range 64).map fun j =>
    if x.mx.getLsbD 1 then decodeF .f32 false (s.spadNat 0 (off + 4 * j) 4) else .ofInt 1

/-- A tile word as the drain reads it. -/
def tileVal (x : XF) (w : Nat) : XV := if x.mx.getLsbD 4 then .ofInt (sext 32 w) else decodeF .f32 false w

/-- The bytes of a row of elements. -/
def rowBytes (f : Fs) (es : List Nat) : List Byte :=
  if f.efmt = 5 ∨ f.efmt = 6 then bytesOfNat 48 (ofElems 6 es) else bytesOfNat (drainRow f) (ofElems f.ty.width es)

/-- Translate every 64-byte piece of a range that is written, or a precise fault. -/
def State.drainLocs (s : State) (va n : Nat) : R (List Piece) := do
  let xs ← (List.range ((n + 63) / 64)).mapM fun i =>
    let a := (va + 64 * i) % 2 ^ 64
    match s.xl s.cctx a .write with
    | .error e => .error (.page a e s.cb.active)
    | .ok x => (.ok { va := a, x := x, n := min 64 (n - 64 * i) } : R Piece)
  if xs.any (·.x.isPeer) then s.needs 7 else .ok ()
  if xs.any (·.x.isAp) then s.needs 9 else .ok ()
  match xs.find? (·.x.isAp) with
  | some p => .error (.trap { code := Code.apertureWrite, mask := s.cb.active, addr := p.va })
  | none => .ok xs

/-- MDRAIN. Guarded off in all eight threads it raises no counter and does nothing else, with an ordering too: R231 says so
of this word, whatever R286 says of carrying words at large. The slot is not checked for .acc, which uses none. A memory
address that is no multiple of 64, or a second tile past 127, raises ILLEGAL_INSTRUCTION, since R235 names no trap.
DEDUCED, unsafe (log 85). DESIGN CHOICE, unsafe (log 116). DESIGN CHOICE, unsafe (log 123). -/
def mdrainEffect (h : Hd) (x : XF) (s : State) : R State := do
  let kind := x.drainKind
  let f := s.fslot x.fs.toNat
  need (kind == 2 || (f.efmt ≤ 16 && f.efmt ≠ 7 && f.efmt ≠ 8 && f.efmt ≠ 12 && f.efmt ≠ 15 && f.bsz == 0)) Code.illegalInstruction
  let go ← s.wholeBeam h
  let rowSrc : List Src := if x.mx.getLsbD 0 then [{ f := x.a, v := false, want := .ty .f32 }] else []
  if kind ≠ 1 then s.sIn x.b else .ok ()
  if x.mx.getLsbD 0 then s.sIn x.a else .ok ()
  if x.mx.getLsbD 1 then s.sIn x.c else .ok ()
  let ord := x.drainOrd.getD .none
  if !go then .ok s
  else do
    let c ← s.flagOf h false
    s.checkSrcs (-1) rowSrc
    let cs ← if x.mx.getLsbD 1 then do
        let o ← s.matOff x.c 0 256
        (.ok o : R Nat)
      else .ok 0
    let len := 8 * drainRow f + 4
    let off ← match kind with
      | 0 => s.matOff x.b x.lay.toNat len
      | 1 => do
        let va := s.cb.kPair x.b.num
        need (va % 64 == 0) Code.illegalInstruction
        (.ok va : R Nat)
      | _ => do
        let u := (s.cb.getK x.b.num).toNat
        need (u < 128) Code.illegalInstruction
        (.ok u : R Nat)
    let locs ← if kind = 1 then s.drainLocs off len else .ok []
    s.ordered ord
    let s := s.acquire s.cc ord.acqAt
    let k := s.core s.cc
    let cols := s.colScales x cs
    let scaled := (List.range 8).map fun i =>
      let r := s.rowScale x i
      (((k.tileRow (x.tileN) i).zip cols).map fun p => ((tileVal x p.1).mul r.1).mul p.2, r.2)
    if x.mx.getLsbD 1 && s.spadLost 0 cs 256 then .ok (s.later c .engineRead [] (some (spadFault cs)))
    else if kind = 2 then
      let rows := (scaled.zip (List.range 8)).map fun p =>
        let es := (p.1.1.zip (k.tileRow off p.2)).map fun q => rn32 ((decodeF .f32 false q.2).add false q.1)
        (es.map (·.1), orAll (es.map (·.2)) ||| p.1.2)
      let ws := (rows.zip (List.range 8)).map fun p => RegWrite.fx (s.tkey p.2) p.1.2
      let s := s.modCore s.cc fun k => k.putTile off (rows.map (·.1))
      .ok (s.later c .other ws)
    else
      let rows := scaled.map fun r =>
        let es := r.1.map fun y => slotRound f (drainRm x) false 16 0 y
        (es, orAll (es.map (·.2)) ||| r.2)
      let n := ((rows.flatMap (·.1)).filter fun e => e.2 / Fx.sat % 2 = 1).length
      let ws := (rows.zip (List.range 8)).map fun p => RegWrite.fx (s.tkey p.2) p.1.2
      let bytes := (rows.flatMap fun r => rowBytes f (r.1.map (·.1))) ++ bytesOfNat 4 n
      let s := s.modCore s.cc fun k => k.setTileSt (x.tileN) ((k.tileSt x.tileN &&& 0xFFFFFFFF#64) + BitVec.ofNat 64 (n * 2 ^ 32))
      if kind = 0 then
        .ok ((s.storeS (s.spadKeys x.lay.toNat off len) bytes).later c .engineWrite ws)
      else
        let cond := (s.condOf true 1 fun _ => locs.map fun p => { va := off, loc := p.x.loc, n := p.n }).masked s.cb.active
        let (s, lost) := (locs.zip (List.range locs.length)).foldl (fun (q : State × List (Nat × Nat)) p =>
          let (s, b) := q.1.storePart (s.engineOf p.1.x) (locs.map fun q => (q.x.loc, q.n)) p.1.x.loc ((bytes.drop (64 * p.2)).take 64)
          (s, q.2 ++ b.map fun l => (p.1.va, l))) (s, [])
        let flt := match lost with
          | [] => none
          | a :: _ => some { code := Code.memoryDataError, addr := a.1, mask := s.cb.active : FaultRec }
        let s := s.countUes (lost.map (·.2))
        .ok ((locs.foldl (fun s p => s.fillTlb s.cctx p.va) s).later c .engineWrite ws flt cond)

/-! ### MSTAT and MREL (R237) -/

/-- MSTAT. DEDUCED, unsafe (log 85). -/
def mstatEffect (h : Hd) (x : XF) (s : State) : R State := do
  let c ← s.flagOf h true
  s.sIn x.c
  if !s.acts h then .ok (s.later c .other [])
  else
    let st := (s.core s.cc).tileSt (x.tileN)
    let v : W32 := if x.mx.getLsbD 0 then st.extractLsb' 32 32 else st.extractLsb' 0 32
    let ws := s.wrD (s.part h) x.c (fun _ => v) 9
    let s := if x.mx.getLsbD 1 then s.modCore s.cc fun k => k.setTileSt (x.tileN) (st &&& ~~~7#64) else s
    .ok (s.later c .other ws)

/-- MMA (R232). -/
def execMma (h : Hd) (f : XF) (s : State) : Host.Outcome State Fault Refusal := issue s (mmaEffect false h f)
/-- MMAT (R232). -/
def execMmat (h : Hd) (f : XF) (s : State) : Host.Outcome State Fault Refusal := issue s (mmaEffect true h f)
/-- MZERO (R233). -/
def execMzero (h : Hd) (f : XF) (s : State) : Host.Outcome State Fault Refusal := issue s (mzeroEffect h f)
/-- MLOAD (R234). -/
def execMload (h : Hd) (f : XF) (s : State) : Host.Outcome State Fault Refusal := issue s (mloadEffect h f)
/-- MRD (R234). -/
def execMrd (h : Hd) (f : XF) (s : State) : Host.Outcome State Fault Refusal := issue s (mrdEffect h f)
/-- MWR (R234). -/
def execMwr (h : Hd) (f : XF) (s : State) : Host.Outcome State Fault Refusal := issue s (mwrEffect h f)
/-- MDRAIN (R235). -/
def execMdrain (h : Hd) (f : XF) (s : State) : Host.Outcome State Fault Refusal := issue s (mdrainEffect h f)
/-- MREL (R237). -/
def execMrel (h : Hd) (_ : XF) (s : State) : Host.Outcome State Fault Refusal :=
  issue s fun s => .ok (if s.acts h then s.modCb fun b => { b with latch := none } else s)
/-- MSTAT (R237). -/
def execMstat (h : Hd) (f : XF) (s : State) : Host.Outcome State Fault Refusal := issue s (mstatEffect h f)

end Sys2Proof.Machine
end

