-- ==== Sys2Proof/Machine/Packet.lean ====
section
/-! DEFINITION. Packet instructions: reductions in the fixed tree (R102, R193), moves within a packet and
between threads (R194 to R197), wavelength packets (R198) and polarisation (R199). -/

namespace Sys2Proof.Machine

open Sys2Proof.ZF

/-- One FP32 addition of the tree. -/
def treeAdd (ftz : Bool) (x y : WithFx Nat) : WithFx Nat :=
  let r := roundF .f32 .rn ftz 16 0 ((decodeF .f32 false x.1).add false (decodeF .f32 false y.1))
  (r.1, r.2 ||| x.2 ||| y.2)

/-- The fixed tree of R102; FTZ acts on the last addition only (R193). -/
def tree8 (ftz : Bool) (e : List (WithFx Nat)) : WithFx Nat :=
  let g := fun i => e.getD i (0, 0)
  let p := fun i => treeAdd false (g i) (g (i + 1))
  treeAdd ftz (treeAdd false (p 0) (p 2)) (treeAdd false (p 4) (p 6))

/-- VDOT and VHSUM (R193). -/
def dotEffect (dot : Bool) (h : Hd) (z : ZF) (s : State) : R State := do
  let a := { srcA z (.ty .f32) with v := true }
  let b := { srcB z (.ty .f32) with v := true }
  s.sIn z.d
  s.checkSrcs (s.part h) (if dot then [a, b] else [a])
  .ok (s.putOut h z.d false fun t =>
    let x := s.srcElems a t
    let y := if dot then s.srcElems b t else ([], 0)
    let term := fun i =>
      let u := decodeF .f32 s.ftz (x.1.getD i 0)
      if dot then rn32 (u.mul (decodeF .f32 s.ftz (y.1.getD i 0))) else rn32 u
    let r := tree8 s.ftz ((List.range 8).map term)
    { val := r.1, fl := r.2 ||| x.2 ||| y.2, tag := 8 })

/-! ### Packet moves (R194) -/

/-- A source of a move, read as bits: one that is expanded comes as the bits of its type (R180, R194). -/
def moveWant (z : ZF) : Want := if z.cbs = 1 then .ty z.ty else .bits z.ty.width
def moveSrc (x : Src) : Src := { x with ftz := false, raw := true }

/-- The tag of a move's result. -/
def moveTag (z : ZF) : BitVec 4 := Sys2Proof.Ty.tag z.ty

/-- VBCAST. -/
def vbcastEffect (h : Hd) (z : ZF) (s : State) : R State := do
  let a := moveSrc (srcA z (moveWant z))
  s.vIn z.d
  s.checkSrcs (s.part h) [a]
  let w := z.ty.width
  .ok (s.putOut h z.d true fun t =>
    let x := s.srcElems a t
    { val := ofElems w (List.replicate (256 / w) (e0 x.1)), fl := x.2, tag := moveTag z })

/-- The index register of VEXT and VINS, read as bits, or as an expanded value's (R180, R194).
DESIGN CHOICE, unsafe (log 107). -/
def idxSrc (z : ZF) : List Src := if z.x4 then [{ moveSrc (srcB z (.bits 32)) with v := false }] else []
/-- The element index, modulo the count when it comes from a register. -/
def State.moveIdx (s : State) (z : ZF) (t : Nat) : Nat :=
  match idxSrc z with
  | b :: _ => e0 (s.srcElems b t).1 % (256 / z.ty.width)
  | [] => z.x30

/-- VEXT. -/
def vextEffect (h : Hd) (z : ZF) (s : State) : R State := do
  let a := { moveSrc (srcA z (moveWant z)) with v := true }
  s.sIn z.d
  s.checkSrcs (s.part h) (a :: idxSrc z)
  .ok (s.putOut h z.d false fun t =>
    let x := s.srcElems a t
    { val := x.1.getD (s.moveIdx z t) 0, fl := x.2, tag := moveTag z })

/-- VINS: d is also read. -/
def vinsEffect (h : Hd) (z : ZF) (s : State) : R State := do
  let a := moveSrc (srcA z (moveWant z))
  s.vIn z.d
  s.checkSrcs (s.part h) (a :: idxSrc z)
  let w := z.ty.width
  .ok (s.putOut h z.d true fun t =>
    let x := s.srcElems a t
    let old := elems (s.regOf { f := z.d, v := true, want := .bits w } t).1 w (256 / w)
    { val := ofElems w (old.set (s.moveIdx z t) (e0 x.1)), fl := x.2, tag := moveTag z })

/-- VPERM. -/
def vpermEffect (h : Hd) (z : ZF) (s : State) : R State := do
  let a := { moveSrc (srcA z (moveWant z)) with v := true }
  let b := { moveSrc (srcB z (if z.cbs = 2 then .ty z.ty else .bits z.ty.width)) with v := true }
  s.vIn z.d
  s.checkSrcs (s.part h) [a, b]
  let w := z.ty.width
  let n := 256 / w
  .ok (s.putOut h z.d true fun t =>
    let x := s.srcElems a t
    let y := s.srcElems b t
    { val := ofElems w ((List.range n).map fun j => x.1.getD (y.1.getD j 0 % n) 0), fl := x.2 ||| y.2, tag := moveTag z })

/-! ### Between threads (R195 to R197) -/

/-- A source position: the register of a live thread, or zero bits with tag 15 (R195). -/
def State.atPos (s : State) (x : Src) (t : Nat) : Nat × BitVec 4 :=
  if s.cb.live.getLsbD t then s.regOf x t else (0, 15)

/-- The source thread of VSHFL (R196). -/
def shflFrom (mode t j : Nat) : Nat :=
  match mode with
  | 0 => j
  | 1 => t ^^^ j
  | 2 => if t < j then t else t - j
  | _ => if t + j > 7 then t else t + j

/-- VSHFL. -/
def vshflEffect (h : Hd) (z : ZF) (s : State) : R State := do
  let v := z.ty == .b256
  let a : Src := { f := z.a, v := v, want := .bits 32 }
  s.regIn z.d v
  s.regIn z.a v
  s.sIn z.b
  .ok (s.putOut h z.d v fun t =>
    let j := (s.regOf { f := z.b, v := false, want := .bits 32 } t).1 % 8
    let r := s.atPos a (shflFrom (z.opx.toNat % 4) t j)
    { val := r.1, tag := r.2 })

/-- VSLIDE (R197). -/
def vslideEffect (h : Hd) (z : ZF) (s : State) : R State := do
  let w := z.ty.width
  let n := 256 / w
  let a : Src := { f := z.a, v := true, want := .bits w }
  s.vIn z.d
  s.vIn z.a
  let row : Int → Nat := fun q => elem (s.atPos a (q.toNat / n)).1 w (q.toNat % n)
  let amt : Int := (z.opx.toNat % 8 : Nat)
  let up := z.opx.getLsbD 3
  let fill := z.opx.toNat / 16
  let len : Int := (8 * n : Nat)
  let kv := match z.b with
    | .k i => (s.cb.getK i.toNat).toNat % 2 ^ w
    | .t _ => 0
  .ok (s.putOut h z.d true fun t =>
    let el := fun e =>
      let j : Int := (n * t + e : Nat)
      let q := if up then j - amt else j + amt
      if 0 ≤ q ∧ q < len then row q
      else if fill = 0 then 0
      else if fill = 1 then (if up then row 0 else row (len - 1))
      else kv
    { val := ofElems w ((List.range n).map el), tag := moveTag z })

/-! ### Wavelengths and polarisation -/

/-- Element i of a wavelength packet (R198): 360 + 470·frac(ξ + i/8), rounded once. -/
def heroElem (xi : XV) (i : Nat) : WithFx Nat :=
  match xi with
  | .num s n d e =>
    let lo := min e (-3)
    let u := XV.units s n e lo + XV.units false (i * d) (-3) lo
    let one : Int := (d * 2 ^ (-lo).toNat : Nat)
    let f := u % one
    rn32 ((XV.num false (470 * f.toNat) d lo).add false (.ofInt 360))
  | _ => (Fmt.f32.nan, Fx.iv)

/-- VHERO (R198). -/
def vheroEffect (h : Hd) (z : ZF) (s : State) : R State := do
  let a := srcA z (.ty .f32)
  s.vIn z.d
  s.checkSrcs (s.part h) [a]
  .ok (s.putOut h z.d true fun t =>
    let x := s.srcElems a t
    let rs := (List.range 8).map (heroElem (decodeF .f32 s.ftz (e0 x.1)))
    { val := ofElems 32 (rs.map (·.1)), fl := orAll (rs.map (·.2)) ||| x.2, tag := 8 })

/-- The sum of exact products, rounded once (R199). -/
def sumProducts (rm : Rm) (ps : List (XV × XV)) : XV :=
  match ps with
  | [] => XV.zero false
  | p :: ps => ps.foldl (fun acc q => acc.add (isRd rm) (q.1.mul q.2)) (p.1.mul p.2)

/-- A NaN product, ∞ × 0 or opposite infinities set IV and give the canonical NaN (R199).
DEDUCED, unsafe (log 79). -/
def polSum (rm : Rm) (ps : List (XV × XV)) : XV :=
  match sumProducts rm ps with
  | .nan _ => .nan true
  | v => v

/-- Consecutive v registers as sources. -/
def vRange (f : RF) (hi : Bool) (n : Nat) : List Src :=
  (List.range n).map fun i => { f := .t (BitVec.ofNat 6 (f.num + i)), v := true, want := .ty .f32, hi := hi, ftz := true }

/-- POLMV and POLMM (R199): rows × inner × columns of the product, with the left matrix at l and the
right one at r; the destination has rows·cols registers. DEDUCED, safe (log 23). DEDUCED, unsafe (log 79). -/
def polEffect (rows cols : Nat) (l r : ZF → RF × Bool) (h : Hd) (z : ZF) (s : State) : R State := do
  let ls := vRange (l z).1 (l z).2 (4 * rows)
  let rs := vRange (r z).1 (r z).2 (4 * cols)
  let m := s.part h
  let draw := z.rm == .sr
  s.vSpan z.d (rows * cols)
  s.checkSrcs m (if cols = 1 then rs ++ ls else ls ++ rs)
  s.canDraw draw
  let n := 8 * rows * cols
  let (fr, s') := if draw && n > 32 then s.draw else (0, s)
  let one := fun t =>
    let le := ls.map fun x => s.srcElems x t
    let re := rs.map fun x => s.srcElems x t
    let val := fun (e : List (WithFx (List Nat))) i k => decodeF .f32 s.ftz ((e.getD i ([], 0)).1.getD k 0)
    let blk := if draw then s.block t else 0
    let outs := (List.range (rows * cols)).map fun o =>
      let es := (List.range 8).map fun k =>
        let x := polSum z.rm ((List.range 4).map fun i => (val le (4 * (o / cols) + i) k, val re (cols * i + o % cols) k))
        if n > 32 then roundF .f32 z.rm s.ftz 2048 (elem fr 2048 (t * n + 8 * o + k)) x
        else roundF .f32 z.rm s.ftz (srWidth n) (elem blk (srWidth n) (8 * o + k)) x
      (ofElems 32 (es.map (·.1)), orAll (es.map (·.2)))
    (outs, orAll (le.map (·.2)) ||| orAll (re.map (·.2)))
  let s' := eachT m s' fun q t =>
    let (outs, fl) := one t
    q.modTh t fun x => (outs.zip (List.range outs.length)).foldl
      (fun x p => (x.orFx p.1.2).setV (z.d.num + p.2) (BitVec.ofNat 256 p.1.1) 8) (x.orFx fl)
  .ok (s'.drew draw)

/-- VDOT (R193). -/
def execVdot (h : Hd) (f : ZF) (s : State) : Host.Outcome State Fault Refusal := issue s (dotEffect true h f)
/-- VHSUM (R193). -/
def execVhsum (h : Hd) (f : ZF) (s : State) : Host.Outcome State Fault Refusal := issue s (dotEffect false h f)
/-- VBCAST (R194). -/
def execVbcast (h : Hd) (f : ZF) (s : State) : Host.Outcome State Fault Refusal := issue s (vbcastEffect h f)
/-- VEXT (R194). -/
def execVext (h : Hd) (f : ZF) (s : State) : Host.Outcome State Fault Refusal := issue s (vextEffect h f)
/-- VINS (R194). -/
def execVins (h : Hd) (f : ZF) (s : State) : Host.Outcome State Fault Refusal := issue s (vinsEffect h f)
/-- VPERM (R194). -/
def execVperm (h : Hd) (f : ZF) (s : State) : Host.Outcome State Fault Refusal := issue s (vpermEffect h f)
/-- VSLIDE (R197). -/
def execVslide (h : Hd) (f : ZF) (s : State) : Host.Outcome State Fault Refusal := issue s (vslideEffect h f)
/-- VSHFL (R196). -/
def execVshfl (h : Hd) (f : ZF) (s : State) : Host.Outcome State Fault Refusal := issue s (vshflEffect h f)
/-- VHERO (R198). -/
def execVhero (h : Hd) (f : ZF) (s : State) : Host.Outcome State Fault Refusal := issue s (vheroEffect h f)
/-- POLMV (R199): M at b times S at a. -/
def execPolmv (h : Hd) (f : ZF) (s : State) : Host.Outcome State Fault Refusal :=
  issue s (polEffect 4 1 (fun z => (z.b, z.hiB)) (fun z => (z.a, z.hiA)) h f)
/-- POLMM (R199): A at a times B at b. -/
def execPolmm (h : Hd) (f : ZF) (s : State) : Host.Outcome State Fault Refusal :=
  issue s (polEffect 4 4 (fun z => (z.a, z.hiA)) (fun z => (z.b, z.hiB)) h f)

end Sys2Proof.Machine
end

