-- ==== Sys2Proof/Machine/Paired.lean ====
section
/-! DEFINITION. Paired words (R55 to R58, R66, R67) and words of an unallocated opcode (R62). -/

namespace Sys2Proof.Machine

/-- The guard of a half-op: p[gp], without negation. -/
def halfHd (x : Half) : Hd := { gn := false, gp := x.gp, cf := false }
def halfRm (x : Half) : Rm := (Rm.ofBits (x.rm.zeroExtend 3)).getD .rn

/-- A register of a half-op as a source. -/
def halfSrc (x : Half) (n : BitVec 6) (w : Want) : Src :=
  { f := .t n, v := x.cop.v, want := w, ftz := !(x.cop.pset || x.cop == .fabsS || x.cop == .fnegS) }

/-- A half-op on 32-bit elements: what its sources are checked as, its result tag and its element
function. -/
structure HalfRow where
  want : Want
  tag : BitVec 4
  fn : List Nat → WithFx Nat

/-- A floating-point half-op. -/
def halfF (s : State) (x : Half) (approx : Bool) (fn : FpFn) : HalfRow :=
  { want := .ty .f32, tag := 8, fn := fun l =>
      let (a, b, c) := s.fArgs .f32 l
      let (v, fl) := fn a b c
      let r := roundX .f32 (if approx then .rz else halfRm x) approx s.ftz 16 0 v
      (r.1, fl ||| r.2) }
/-- A half-op that returns a value without rounding. -/
def halfPick (s : State) (fn : FpFn) : HalfRow :=
  { want := .ty .f32, tag := 8, fn := fun l =>
      let (a, b, c) := s.fArgs .f32 l
      let (v, fl) := fn a b c
      (encodeF .f32 v, fl) }
def halfSign (fn : Nat → Nat → Nat → Nat) : HalfRow := { want := .ty .f32, tag := 8, fn := fun l => (fn 32 (e0 l) 0, 0) }
/-- An integer half-op of a type. -/
def halfI (ty : Ty) (fn : ElemFn) : HalfRow :=
  { want := .ty ty, tag := 9, fn := fun l => fn ty (e0 l) (e1 l) (e2 l) }
/-- A half-op on bits with a result tag. DEDUCED, unsafe (log 84). -/
def halfB (tag : BitVec 4) (fn : ElemFn) : HalfRow :=
  { want := .bits 32, tag := tag, fn := fun l => fn .b32 (e0 l) (e1 l) (e2 l) }

/-- The row of a compact opcode (R66); the moves, SEL and PSET have their own rules.
DEDUCED, unsafe (log 84). -/
def halfRow (s : State) (x : Half) : HalfRow :=
  let rm := halfRm x
  match x.cop with
  | .faddV | .faddS => halfF s x false (xAdd rm)
  | .fsubV | .fsubS => halfF s x false (xSub rm)
  | .fmulV | .fmulS => halfF s x false xMul
  | .ffmaV | .ffmaS => halfF s x false (xFma rm)
  | .fminV | .fminS => halfPick s (xMinmax false)
  | .fmaxV | .fmaxS => halfPick s (xMinmax true)
  | .iaddS | .iaddV => halfI .s32 (fAdd false)
  | .isubS | .isubV => halfI .s32 (fSub false)
  | .imulS => halfI .s32 (fMul false)
  | .imadS => halfI .s32 (fMad false)
  | .iminS => halfI (if x.hx.getLsbD 0 then .n32 else .s32) fMin
  | .imaxS => halfI (if x.hx.getLsbD 0 then .n32 else .s32) fMax
  | .andS | .andV => halfB 15 fAnd
  | .orS | .orV => halfB 15 fOr
  | .xorS | .xorV => halfB 15 fXor
  | .notS => halfB 15 fNot
  | .shlS => halfB 15 fShl
  | .shlV => halfB 9 fShl
  | .shrS => halfI .n32 fShr
  | .shrV => halfI .s32 fShr
  | .sraS | .sraV => halfI .s32 (fSra false)
  | .popcS => halfB 15 (natF fun ty a _ => popc ty.width a)
  | .clzS => halfB 15 (natF fun ty a _ => clz ty.width a)
  | .frcpS => halfF s x true (xFun .rcp)
  | .frsqS => halfF s x true (xFun .rsq)
  | .fexp2S => halfF s x true (xFun .exp2)
  | .flog2S => halfF s x true (xFun .log2)
  | .fabsS => halfSign sAbs
  | .fnegS => halfSign sNeg
  | .psetF => { want := .ty .f32, tag := 15, fn := fun l =>
      let r := psetCond .f32 (Half.cond x) (e0 l) (e1 l); (b2n r.1, r.2) }
  | .psetI => { want := .ty .s32, tag := 15, fn := fun l =>
      let r := psetCond .s32 (Half.cond x) (e0 l) (e1 l); (b2n r.1, r.2) }
  | .movV | .movS | .selS => { want := .bits 32, tag := 15, fn := fun l => (e0 l, 0) }

/-- The sources of a half-op; a fused one also reads d. -/
def halfSrcs (s : State) (x : Half) : List Src :=
  let w := (halfRow s x).want
  [halfSrc x x.a w] ++ (if x.cop.unary then [] else [halfSrc x x.b w]) ++ (if x.cop.fused then [halfSrc x x.d w] else [])

/-- A move or select copies bits and tag (R174). -/
def halfCopies (x : Half) : Bool := x.cop == .movV || x.cop == .movS || x.cop == .selS

/-- The result of a half-op in a thread. -/
def halfOut (s : State) (x : Half) (t : Nat) : Out :=
  if halfCopies x then
    let n := if x.cop == .selS && !(s.th t).getP x.hx.toNat then x.b else x.a
    let r := s.regOf (halfSrc x n (.bits 32)) t
    { val := r.1, tag := r.2 }
  else
    let row := halfRow s x
    let es := (halfSrcs s x).map fun q => s.srcElems q t
    let rs := (List.range (if x.cop.v then 8 else 1)).map fun i => row.fn (es.map fun e => e.1.getD i 0)
    { val := ofElems 32 (rs.map (·.1)), fl := orAll (rs.map (·.2)) ||| orAll (es.map (·.2)), tag := row.tag }

/-- The budget and tag checks of a half-op. DEDUCED, unsafe (log 30). -/
def halfCheck (s : State) (x : Half) : R Unit := do
  let m := s.part (halfHd x)
  if x.cop.pset then .ok () else s.regIn (.t x.d) x.cop.v
  s.checkSrcs m (halfSrcs s x)

/-- The writes of a half-op, from the state before the word. -/
def halfWrite (s r : State) (x : Half) : State :=
  (bitsOf (s.part (halfHd x))).foldl (fun r t =>
    let o := halfOut s x t
    r.modTh t fun th =>
      let th := th.orFx o.fl
      if x.cop.pset then th.setP x.d.toNat (o.val == 1)
      else if x.cop.v then th.setV x.d.toNat (BitVec.ofNat 256 o.val) o.tag
      else th.setS x.d.toNat (BitVec.ofNat 32 o.val) o.tag) r

/-- PAIRED_WORD (R58): both half-ops read before either writes. DEDUCED, unsafe (log 30). -/
def pairedEffect (x y : Half) (s : State) : R State := do
  halfCheck s x
  halfCheck s y
  .ok (halfWrite s (halfWrite s s x) y)

/-- PAIRED_WORD (R57, R58). -/
def execPairedWord (x y : Half) (s : State) : Host.Outcome State Fault Refusal := issue s (pairedEffect x y)

/-- UNALLOCATED_OPCODE (R31, R62): ILLEGAL_INSTRUCTION, with the word in the frame. -/
def execUnallocatedOpcode (w : BitVec 63) (s : State) : Host.Outcome State Fault Refusal :=
  issue s fun _ => .error (.trap { code := Code.illegalInstruction, d0 := w.toNat % 2 ^ 32, d1 := w.toNat / 2 ^ 32 })

end Sys2Proof.Machine
end

