-- ==== Sys2Proof/Machine/Curve.lean ====
section
/-! DEFINITION. Ed25519, which R479 and R480 name, as RFC 8032 defines it. PRESUMED, unsafe (log 126). -/

namespace Sys2Proof.Machine

/-- The prime of the field, and the order of the base point. -/
def primeP : Nat := 2 ^ 255 - 19
def orderL : Nat := 2 ^ 252 + 27742317777372353535851937790883648493

/-- Sum, difference and product of the field. -/
def gfAdd (x y : Nat) : Nat := (x + y) % primeP
def gfSub (x y : Nat) : Nat := (x + primeP - y) % primeP
def gfMul (x y : Nat) : Nat := x * y % primeP

/-- x to the power of the lowest bits of n. -/
def gfPow (x n : Nat) : Nat → Nat
  | 0 => 1
  | k + 1 =>
    let y := gfPow x (n / 2) k
    gfMul (gfMul y y) (if n % 2 = 1 then x else 1)
/-- The inverse: x to the power p - 2. -/
def gfInv (x : Nat) : Nat := gfPow x (primeP - 2) 255

/-- The constant d of the curve. -/
def curveD : Nat := 37095705934669439343138083508754565189542113879843219016388785533085940283555

/-- A point of the curve, in extended coordinates. -/
structure Point where
  x : Nat
  y : Nat
  z : Nat
  t : Nat
  deriving DecidableEq, Repr

def Point.zero : Point := ⟨0, 1, 1, 0⟩
/-- A point from its affine coordinates. -/
def Point.at (x y : Nat) : Point := ⟨x, y, 1, gfMul x y⟩
/-- The base point. -/
def Point.base : Point := Point.at
  15112221349535400772501151409588531511454012693041857206046113283949847762202
  46316835694926478169428394003475163141307993866256225615783033603165251855960

/-- The sum of two points. -/
def Point.add (p q : Point) : Point :=
  let a := gfMul (gfSub p.y p.x) (gfSub q.y q.x)
  let b := gfMul (gfAdd p.y p.x) (gfAdd q.y q.x)
  let c := gfMul (gfMul (gfMul p.t 2) curveD) q.t
  let d := gfMul (gfMul p.z 2) q.z
  let e := gfSub b a
  let f := gfSub d c
  let g := gfAdd d c
  let h := gfAdd b a
  ⟨gfMul e f, gfMul g h, gfMul f g, gfMul e h⟩

/-- A multiple of a point, by the lowest bits of the number. -/
def Point.mul (p : Point) (n : Nat) : Nat → Point
  | 0 => Point.zero
  | k + 1 =>
    let q := p.mul (n / 2) k
    let q := q.add q
    if n % 2 = 1 then q.add p else q

/-- Two points are the same. -/
def Point.same (p q : Point) : Bool := gfMul p.x q.z == gfMul q.x p.z && gfMul p.y q.z == gfMul q.y p.z

/-- A point in 32 bytes. -/
def Point.encode (p : Point) : List Byte :=
  let i := gfInv p.z
  bytesOfNat 32 (gfMul p.y i + 2 ^ 255 * (gfMul p.x i % 2))

/-- The point of 32 bytes, where they name one. -/
def Point.decode (bs : List Byte) : Option Point :=
  let n := natOfBytes bs
  let y := n % 2 ^ 255
  let sign := n / 2 ^ 255 % 2
  let y2 := gfMul y y
  let x2 := gfMul (gfSub y2 1) (gfInv (gfAdd (gfMul curveD y2) 1))
  let r := gfPow x2 ((primeP + 3) / 8) 253
  let x := if gfMul r r = x2 then r else gfMul r (gfPow 2 ((primeP - 1) / 4) 254)
  if primeP ≤ y || gfMul x x ≠ x2 || (x == 0 && sign == 1) then none
  else some (Point.at (if x % 2 = sign then x else primeP - x) y)

/-- The secret scalar of a seed, and the prefix of its nonces. -/
def secretOf (seed : List Byte) : Nat × List Byte :=
  let h := sha512 seed
  (natOfBytes (h.take 32) / 8 * 8 % 2 ^ 254 + 2 ^ 254, h.drop 32)

/-- The public key of a seed. PRESUMED, unsafe (log 126). -/
def publicKey (seed : List Byte) : List Byte := (Point.base.mul (secretOf seed).1 255).encode

/-- The signature of a message with the key of a seed, 64 bytes. PRESUMED, unsafe (log 126). -/
def signWith (seed msg : List Byte) : List Byte :=
  let (a, pre) := secretOf seed
  let r := natOfBytes (sha512 (pre ++ msg)) % orderL
  let rb := (Point.base.mul r 253).encode
  let k := natOfBytes (sha512 (rb ++ publicKey seed ++ msg)) % orderL
  rb ++ bytesOfNat 32 ((r + k * a) % orderL)

/-- A signature of a message holds under a public key. PRESUMED, unsafe (log 126). -/
def signedBy (key msg sig : List Byte) : Bool :=
  match Point.decode key, Point.decode (sig.take 32) with
  | some a, some r =>
    let n := natOfBytes (sig.drop 32)
    let k := natOfBytes (sha512 (sig.take 32 ++ key ++ msg)) % orderL
    sig.length == 64 && decide (n < orderL) && (Point.base.mul n 253).same (r.add (a.mul k 253))
  | _, _ => false

end Sys2Proof.Machine
end

