-- ==== Sys2Proof/Machine/Service.lean ====
section
/-! DEFINITION. What the host and the Selral controller do to the device: register writes (R246, R247, R463,
R468, R472), start and warm reset (R473, R474), idle depths (R475), sparing and failures (R476, R477),
attestation (R480) and power (R481). -/

namespace Sys2Proof.Machine

/-! ### Registers without behaviour of their own (R412, R463, R464, R468, R482) -/

/-- The bits of a context register that a host write changes. -/
def ctxMask (n : Nat) : Option W32 :=
  if n = 0x100 then some 0xFFFFFF00#32
  else if n = 0x106 then some 0xFFFFF000#32
  else if n = 0x108 then some 0xFFFF0000#32
  else if n = 0x10B then some 0x00001FFF#32
  else if n = 0x101 ∨ n = 0x104 ∨ n = 0x105 ∨ n = 0x107 ∨ n = 0x109 ∨ n = 0x10A then some 0xFFFFFFFF#32
  else none

/-- The bits of a device register that a host write changes. -/
def devMask (n : Nat) : Option W32 :=
  if n = 0x303 ∨ n = 0x4A1 then some 0xFFFFFFC0#32
  else if n = 0x304 ∨ n = 0x307 ∨ n = 0x4A2 ∨ n = 0x508 ∨ n = 0x541 then some 0xFFFFFFFF#32
  else if n = 0x320 then some 1#32
  else if n = 0x4A0 then some 0x3FF#32
  else if n = 0x4A3 then some 0x00FFFFF1#32
  else if n = 0x4A4 then some 0xFFF#32
  else if n = 0x4A5 then some 0x0000FF01#32
  else if n = 0x540 then some 0xFFFFFF00#32
  else none

/-- A value that puts a field out of its range is ignored as a whole (R464). -/
def inRange (n : Nat) (v : W32) : Bool :=
  let x := v.toNat
  if n = 0x4A3 then 6 ≤ bits x 7 4 && bits x 7 4 ≤ 14 && bits x 23 8 ≠ 0
  else if n = 0x4A5 then bits x 15 8 ≠ 0
  else true

/-- A context register that has no behaviour of its own. -/
def State.writeCtx (s : State) (c n : Nat) (v : W32) : State :=
  match ctxMask n with
  | some m => s.setCtxReg c n (v &&& m)
  | none => s

/-- A device register that has none. -/
def State.writeDev (s : State) (n : Nat) (v : W32) : State :=
  let x := v.toNat
  if n = 0x310 then s.modTime fun u => { u with run := bit x 0, ppsen := bit x 1, valid := bit x 2 }
  else if n = 0x311 then (if (sext 32 x).natAbs ≤ 2 ^ 22 then s.modTime fun u => { u with rate := sext 32 x } else s)
  else if n = 0x312 then s.modTime fun u => { u with stepLo := x }
  else match devMask n with
    | some m => if inRange n v then s.setReg n (v &&& m) else s
    | none => s

/-- A context has a launch that placed work may belong to. -/
def State.ctxBusy (s : State) (ctx : Nat) : Bool :=
  s.launches.any fun l => l.2.ctx == ctx && (l.2.st == .placing || l.2.st == .running || l.2.st == .ending)

/-- A write of CORE_SPLIT of a context (R246). -/
def State.writeCoreSplit (s : State) (ctx : Nat) (value : W32) : State :=
  let v := value.toNat % 16
  if !(2 ≤ v && v ≤ 10) || s.ctxBusy ctx then s else s.setCtxReg ctx 0x102 (BitVec.ofNat 32 v)

/-- CORE_SPLIT_WRITE (R246): a write that is ignored has woken the device all the same (R475). -/
def coreSplitWrite (s : State) : Option State :=
  if 16 ≤ s.sched.arg.a then none else some (s.awake.writeCoreSplit s.sched.arg.a s.sched.arg.value)

/-- A write of STACK_SPLIT of a context (R247): its stack scratch then reads zero. -/
def State.writeStackSplit (s : State) (ctx : Nat) (value : W32) : State :=
  let v := value.toNat % 256
  let scr := v % 16
  let others := ((List.range 16).filter (· ≠ ctx)).foldl (fun n c => n + (s.ctxReg c 0x103).toNat % 16) 0
  if 8 < scr || 8 * scr < v / 16 || 8 < others + scr || s.ctxBusy ctx then s
  else
    let s := s.setCtxReg ctx 0x103 (BitVec.ofNat 32 v)
    let st := (List.range 2).foldl (fun m d => clearRange m (stackKey d ctx 0) (2 ^ 28)) s.mem.stack
    let ok := fun (w : Nat) => !(w % 2 == 1 && (List.range 2).any fun d => stackKey d ctx 0 / 32 ≤ w / 2 && w / 2 < (stackKey d ctx 0 + 2 ^ 28) / 32)
    { s with mem := { s.mem with stack := st, struck := s.mem.struck.filter ok } }

/-- STACK_SPLIT_WRITE (R247). -/
def stackSplitWrite (s : State) : Option State :=
  if 16 ≤ s.sched.arg.a then none else some (s.awake.writeStackSplit s.sched.arg.a s.sched.arg.value)

/-- A launch of any context is between QUEUED and ENDING (R125). -/
def State.anyLaunch (s : State) : Bool :=
  (s.launches.any fun l => !l.2.st.final) || s.queues.any fun q => q.2.type == 2 && q.2.entries != []

/-- A write of ENABi (R472). -/
def State.writeEnab (s : State) (i : Nat) (value : W32) : State :=
  if s.anyLaunch then s else s.setReg (0x504 + i) (value &&& s.reg (0x500 + i))

/-- ENAB_WRITE (R472). -/
def enabWrite (s : State) : Option State :=
  if 4 ≤ s.sched.arg.a then none else some (s.awake.writeEnab s.sched.arg.a s.sched.arg.value)

/-- Counters that a host write clears (R463, R478, R482). -/
def isCounter (n : Nat) : Bool :=
  (0x400 ≤ n && n < 0x480 && n % 16 ≤ 6) || (0x480 ≤ n && n < 0x4A0 && n % 4 ≤ 2) || (0x530 ≤ n && n ≤ 0x533) || (0x544 ≤ n && n ≤ 0x546)

/-- COUNTER_CLEAR (R463). -/
def counterClear (s : State) : Option State :=
  if isCounter s.sched.arg.a then some (s.awake.setReg s.sched.arg.a 0) else none

/-! ### Start (R473, R479) -/

/-- The header of a firmware image (R479), its body, and the signed digest. -/
def fwVersion (image : List Byte) : BitVec 32 := BitVec.ofNat 32 (field image 4 4)
def fwBody (image : List Byte) : List Byte := (image.drop 256).take (field image 8 4)

/-- A firmware image is accepted: its magic, the digest of its body, the signature of its header, its version. -/
def fwOk (image : List Byte) : Bool :=
  field image 0 4 == 0x574C4553 && (image.drop 16).take 64 == sha512 (fwBody image)
    && signedBy Config.releaseKey.toList (sha512 (image.take 80)) ((image.drop 80).take 64) && Config.minVersion.ule (fwVersion image)

/-- SEL_STAT once an image has been checked: FWOK or FWBAD, and the version. -/
def selStat (image : List Byte) : W32 :=
  (if fwOk image then 1#32 else 2#32) ||| (fwVersion image <<< 16)

/-- The links train, MEM_READY becomes 1 and FEAT0 is published. DESIGN CHOICE, unsafe (log 8). -/
def State.bringUp (s : State) : State :=
  let s := (List.range 8).foldl (fun s k => (s.setReg (0x407 + 16 * k) 1).setReg (0x483 + 4 * k) 1) s
  ((s.setReg 0x543 1).setReg 0x301 1).setReg 0x500 0x7FF

/-- The device may start: its firmware has been verified, it has not started, and every die is in service (R477). -/
def State.startable (s : State) : Bool := (s.reg 0x50B).getLsbD 0 && !s.memReady && s.outDies == []

/-- POWER_ON (R473, R479): the image is checked, and refused or kept, and the device starts; after a warm reset the
start alone follows (R474). DESIGN CHOICE, unsafe (log 8). -/
def powerOn (s : State) : Option State :=
  let image := s.sched.arg.bytes
  if s.reg 0x50B = 0 then
    let s := s.setReg 0x50B (selStat image)
    some (if fwOk image then { s with firmware := image }.bringUp else s)
  else if s.startable then some s.bringUp
  else none

/-! ### Warm reset (R474) -/

/-- A dirty sector reads what L2 held or what memory holds below it: a free value says which.
DEDUCED, unsafe (log 61). -/
def State.dropDirty (s : State) : State :=
  ((s.mem.unflushed.map fun x => x.1 / 32).eraseDups).foldl (fun s x =>
    let (r, s) := s.draw
    let old := s.mem.unflushed.filter fun u => u.1 / 32 == x
    let m := { s.mem with unflushed := s.mem.unflushed.filter fun u => u.1 / 32 ≠ x }
    if r % 2 = 0 then { s with mem := m }.writeBack [x]
    else { s with mem := { m with bytes := old.foldl (fun m u => setB m u.1 u.2) m.bytes } }) s

/-- The sectors of the recoded blocks that cannot be read, all eight of each (R454). -/
def Mem.unreadable (m : Mem) : List Nat :=
  (m.recoded.filter fun b => (m.badOfBlock b).isSome).flatMap fun b => (List.range 8).map (8 * b + ·)

/-- Without WARM_KEEP each HBM sector reads its old value, zero, or uncorrectable: a free value says which. A sector that
could not be read has no old value that can. DEDUCED, unsafe (log 61). -/
def State.dropHbm (s : State) : State :=
  let b := s.sched.freeIdx
  let zero := fun (sec : Nat) => sec < 2 ^ 34 && Config.free (b + sec) % 3 == 1
  let shut := s.mem.unreadable.filter fun x => !s.mem.poison.contains x
  { s with
    sched := { s.sched with freeIdx := b + 2 ^ 34 },
    mem := { s.mem with
      bytes := s.mem.bytes.filter fun x => !zero (x.1 / 32),
      poison := (s.mem.poison ++ shut).filter fun x => !zero x,
      recoded := [], lost := (b, []) :: s.mem.lost } }

/-- What a warm reset leaves: the repair maps and fences, the verified firmware, HBM, the far memories, and how hot the
stack dies are. DEDUCED, unsafe (log 61). -/
def State.survivors (s : State) : State :=
  { sched := { s.sched with clk := 0, stalled := false, tried := [], cur := 0 },
    mem := { bytes := s.mem.bytes, poison := s.mem.poison, recoded := s.mem.recoded,
             renewed := if s.mem.recoded == [] then [] else s.mem.renewed, lost := s.mem.lost },
    regs := s.regs.filter fun r => (0x510 ≤ r.1 && r.1 ≤ 0x521) || r.1 == 0x50B,
    firmware := s.firmware, heat := s.heat, fencedCols := s.fencedCols, outDies := s.outDies }

/-- A warm reset stops everything and loses it. With WARM_KEEP the stacks enter self-refresh, and leave it as the links
train. The restart is POWER_ON's (R473). DEDUCED, unsafe (log 61). -/
def State.warmReset (s : State) (keep : Bool) : State :=
  let s := s.dropDirty
  if keep then s.survivors.selfRefresh true else s.dropHbm.survivors

/-- A write of RESET_CTL (R474, R482): WARM asks for a warm reset, with HBM kept where WARM_KEEP is 1 at the request. -/
def State.writeReset (s : State) (value : W32) : State :=
  if value.getLsbD 0 then s.warmReset (value.getLsbD 1) else s.setReg 0x50A (value &&& 2#32)

/-- WARM (R474). -/
def warm (s : State) : Option State :=
  if s.sched.arg.value.getLsbD 0 then some (s.writeReset s.sched.arg.value) else none

/-! ### Idle depths (R475) -/

/-- The device is idle. DEDUCED, unsafe (log 62). -/
def State.idle (s : State) : Bool :=
  !s.anyLaunch && s.pool == [] && s.ops == [] && s.cores.all fun c => c.2.chans.all fun x => x.2.idle

/-- The deepest depth whose exit latency is within the tolerance. -/
def depthFor (ltol : Nat) : Nat :=
  if ltol < 200 then 0 else if ltol < 2000 then 1 else if ltol < 15000 then 2 else if ltol < 300000 then 3 else 4

/-- IDLE_ENTRY. DEDUCED, unsafe (log 62). -/
def idleEntry (s : State) : Option State :=
  let d := depthFor (s.reg 0x508).toNat
  if s.idle && s.depth ≠ d then some (if 3 ≤ d then (s.setDepth d).selfRefresh true else s.awake.setDepth d) else none

/-- IDLE_WAKE. -/
def idleWake (s : State) : Option State := if s.depth = 0 then none else some s.awake

/-! ### Sparing and failures (R14, R476, R477) -/

/-- The register of a core's row with a fence, or with none. -/
def withFence (m : Nat) (col : Option Nat) : W32 :=
  match col with
  | some c => BitVec.ofNat 32 (m % 64 + 64 * c + 2 ^ 11)
  | none => BitVec.ofNat 32 (m % 64)

/-- Fence a core: SPARE_MAP records the fence, and an earlier one of the row stays in force.
DESIGN CHOICE, unsafe (log 115). -/
def State.fence (s : State) (core : Nat) : State :=
  let m := (s.reg (spareReg core)).toNat
  if s.coreFenced core then s
  else
    let s1 := s.setReg (spareReg core) (withFence m (some (s.physCol core)))
    if bit m 11 then { s1 with fencedCols := s.fencedCols ++ [fenceKey core (bits m 10 6)] } else s1

/-- Lift the fence of a column of a core's row. DESIGN CHOICE, unsafe (log 115). -/
def State.unfence (s : State) (core col : Nat) : State :=
  let m := (s.reg (spareReg core)).toNat
  let s := { s with fencedCols := s.fencedCols.filter (· ≠ fenceKey core col) }
  if !(bit m 11 && bits m 10 6 == col) then s
  else match s.fencedCols.find? fun k => k / 32 == spareReg core - 0x510 with
    | some k => { s.setReg (spareReg core) (withFence m (some (k % 32))) with fencedCols := s.fencedCols.filter (· ≠ k) }
    | none => s.setReg (spareReg core) (withFence m none)

/-- CORE_RETIRE (R476): at ID2 or deeper the row shifts past the core's column, whose fence is lifted; with the row's
spare in use the core is fenced instead. -/
def coreRetire (s : State) : Option State :=
  let core := s.sched.arg.a
  if 256 ≤ core || s.depth < 2 then none
  else
    let m := (s.reg (spareReg core)).toNat
    if bit m 5 then (if s.coreFenced core then none else some (s.fence core))
    else
      let col := s.physCol core
      some ((s.setReg (spareReg core) (BitVec.ofNat 32 (m / 64 * 64 + 32 + col))).unfence core col)

/-- Launches that a core's failure ends (R477). -/
def State.usersOf (s : State) (core : Nat) : List Nat :=
  let k := s.core core
  let wgs := (s.wgs.filter fun g => g.2.core == core && !g.2.retired).map (·.2.launch)
  let chans := k.chans.filterMap fun x => x.2.holder.map fun g => (s.gang g).launch
  let acc := k.accHold.toList.map fun g => (s.gang g).launch
  let banks := k.banks.filterMap (·.2.owner)
  let holds := (s.launches.filter fun l => l.2.plan.any fun p => (l.2.coresAt p.2).contains core).map (·.1)
  ((wgs ++ chans ++ acc ++ banks ++ holds).filter fun l => !(s.launch l).st.final && (look s.launches l).isSome).eraseDups

/-- A soft error met by no control state (R253, R477, R478): an uncorrectable one of a word of a core's SRAM, of a
stack die or of an HBM sector, which a later read finds, or a corrected one, which the wear counters count.
DESIGN CHOICE, unsafe (log 94). -/
def State.softError (s : State) (kind a b : Nat) : Option State :=
  let strike := fun (w : Nat) => some { s with mem := { s.mem with struck := s.mem.struck.filter (· ≠ w) ++ [w] } }
  match kind with
  | 0 => if 256 ≤ a ∨ sramSpan ≤ b then none else strike (2 * (sramKey a b / 32))
  | 1 => if 2 ≤ a ∨ 2 ^ 32 ≤ b then none else strike (2 * ((stackKey a 0 0 + b) / 32) + 1)
  | 2 => if !isHbm (32 * b) then none else some { s with mem := { s.mem with poison := s.mem.poison.filter (· ≠ b) ++ [b] } }
  | 3 => if 2 ≤ a then none else some (s.bump (0x530 + 2 * a))
  | 4 => if 2 ≤ a then none else some (s.bump (0x531 + 2 * a))
  | _ => none

/-- UNIT_FAILED (R477): a core fails, or a soft error strikes elsewhere. -/
def unitFailed (s : State) : Option State :=
  let x := s.sched.arg
  if x.flag then s.softError x.c x.a x.b
  else if 256 ≤ x.a then none
  else some ((s.usersOf x.a).foldl (fun s l => s.launchTrap l Code.unitFailed 0) (s.fence x.a))

/-- The host entries of a launch queue, which are launches in QUEUED (R125), become launches that can end. A bad entry
names none (R336), nor does one whose record cannot be read. -/
def State.takeAll (q : Nat) : Nat → State → State
  | 0, s => s
  | n + 1, s =>
    match s.headOf q with
    | none => s
    | some (d, _) => takeAll q n (match s.takeHead q d (((s.queue q).entries.head?.map (·.2.1)).getD 0) with
      | some x => x.2.2
      | none => s.discardHead q)

/-- Every launch that is waiting in a queue (R125). -/
def State.takeQueued (s : State) : State :=
  (s.queues.filter fun q => q.2.type == 2).foldl (fun s q => s.takeAll q.1 q.2.entries.length) s

/-- A launch ends with UNIT_FAILED (R411). -/
def State.endFailed (s : State) (l : Nat) : State :=
  let x := s.launch l
  let s := ((s.discardLaunch l).writeLog l).endLaunch l 7 Code.unitFailed .done
  if s.evRoom x.ctx x.owner then s.pushEvent x.ctx x.owner (dispatcherEvent 4 Code.unitFailed 0 x.owner x.lrec.done) else s

/-- SLICE_FAILED (R477): every launch ends with UNIT_FAILED, and a warm reset with WARM_KEEP follows.
DEDUCED, unsafe (log 61). -/
def sliceFailed (s : State) : Option State :=
  let d := s.sched.arg.a
  let sl := s.sched.arg.b
  if 2 ≤ d ∨ 32 ≤ sl then none
  else
    let s := s.takeQueued
    let s := ((s.launches.filter fun l => !l.2.st.final).map (·.1)).foldl State.endFailed s
    let used := (s.reg (0x520 + d)).getLsbD 6
    let s := if used then { s with outDies := s.outDies.filter (· ≠ d) ++ [d] } else s.setReg (0x520 + d) (BitVec.ofNat 32 (sl + 64))
    some (s.warmReset true)

/-! ### Attestation, power and cooling (R480, R481) -/

/-- Spares in use: of the rows of cores, and of the dies' slices. DESIGN CHOICE, unsafe (log 8). -/
def State.sparesInUse (s : State) : Nat :=
  ((List.range 16).filter fun i => (s.reg (0x510 + i)).getLsbD 5).length + ((List.range 2).filter fun d => (s.reg (0x520 + d)).getLsbD 6).length

/-- Bytes [191:32] of the report (R480). -/
def State.report (s : State) : List Byte :=
  publicKey Config.identitySeed.toList ++ sha512 s.firmware ++ bytesOfNat 4 (fwVersion s.firmware).toNat
    ++ bytesOfNat 1 0xB0 ++ bytesOfNat 1 s.sparesInUse ++ List.replicate 58 0

/-- The report is written over the buffer behind the nonce, and DONE is set (R480).
DESIGN CHOICE, unsafe (log 8). DEDUCED, unsafe (log 60). -/
def State.attest (s : State) : State :=
  let a := s.reg64 0x540
  if !inOneRegion a 256 then s
  else
    let sig := signWith Config.identitySeed.toList (sha512 (s.mem.read a 32 ++ s.report))
    (s.storeRange {} (a + 32) (s.report ++ sig)).1.setReg 0x542 2

/-- GO (R480). -/
def go (s : State) : Option State := if inOneRegion (s.awake.reg64 0x540) 256 then some s.awake.attest else none

/-- TRIP (R481): TRIP is set and a warm reset with WARM_KEEP is forced. DEDUCED, unsafe (log 61). -/
def trip (s : State) : Option State :=
  let s := s.warmReset true
  some (s.setReg 0x509 (setBit (s.reg 0x509) 4 true))

/-- THROT (R481). -/
def throt (s : State) : Option State := some (s.setReg 0x509 (setBit (s.reg 0x509) 3 s.sched.arg.flag))

/-! ### The register window of the host (R468) -/

/-- What an offset in HREG names: a device instance by number, a context's, a core's, or nothing. -/
inductive HostReg where
  | dev (n : Nat)
  | ctx (c n : Nat)
  | core (k n : Nat)
  | other
  deriving DecidableEq, Repr

/-- The register at an offset. -/
def hostReg (off : Nat) : HostReg :=
  if off % 4 ≠ 0 then .other
  else if off < 0x10000 then .dev (off / 4)
  else if off < 0x110000 then .ctx (off / 0x10000 - 1) (off % 0x10000 / 4)
  else if 0x200000 ≤ off ∧ off < 0x300000 then .core (off / 0x1000 - 0x200) (off % 0x1000 / 4)
  else .other

/-- A write of FAULT_RESUME (R403): the action of its value. -/
def State.writeResume (s : State) (value : W32) : State :=
  ((match value.toNat / 2 ^ 24 % 4 with
    | 0 => faultRetry s
    | 1 => faultAbort s
    | 2 => faultContinue s
    | _ => none) : Option State).getD s

/-- The host writes a register (R468): one that it may not write stays. The value of a write stands in the turn's
argument as well. DEDUCED, unsafe (log 60). -/
def State.hostWrite (s : State) (v : W32) : HostReg → State
  | .ctx c n => if n = 0x102 then s.writeCoreSplit c v else if n = 0x103 then s.writeStackSplit c v else s.writeCtx c n v
  | .dev n =>
    if n = 0x305 then (queueArm s).getD s
    else if n = 0x306 then s.writeResume v
    else if n = 0x308 then (((preemptSuspend s).orElse fun _ => preemptResume s)).getD s
    else if n = 0x313 then timeStep v.toNat s
    else if 0x504 ≤ n ∧ n < 0x508 then s.writeEnab (n - 0x504) v
    else if n = 0x50A then s.writeReset v
    else if n = 0x542 then (if v.getLsbD 0 then s.attest else s)
    else if isCounter n then s.setReg n 0
    else if n = 0x4A3 then (s.writeDev n v).openWindows
    else s.writeDev n v
  | _ => s

/-- The device registers that the host reads: those of the device (R412, R463, R482), and three that only it reaches. -/
def hostReads (n : Nat) : Bool := devReads n || n == 0x50A || (0x540 ≤ n && n ≤ 0x542)

/-- What the host reads in HREG (R468, R486): 0 where it names no register it may read. DEDUCED, unsafe (log 60). -/
def State.hostRead (s : State) : HostReg → Nat
  | .dev n => if hostReads n then s.devRead n else 0
  | .ctx c n => if 0x100 ≤ n ∧ n ≤ 0x10B then (s.ctxReg c n).toNat else 0
  | .core k n => if n = 0x380 ∨ n = 0x381 then s.coreRead k n else 0
  | .other => 0

/-- REGISTER_WRITE (R468): the host writes a word at an offset of HREG, or reads one; a write of a word in the push
windows is no push (R486). DEDUCED, unsafe (log 60). -/
def registerWrite (s : State) : Option State :=
  let off := s.sched.arg.a
  if 2 ^ 24 ≤ off then none
  else if s.sched.arg.flag then some { s.awake with reply := bytesOfNat 4 (s.awake.hostRead (hostReg off)) }
  else if inPush off then some { s.awake with pushReply := 2 }
  else some (s.awake.hostWrite s.sched.arg.value (hostReg off))

/-- REGISTER_WRITE (R468). -/
def execRegisterWrite (s : State) : Host.Outcome State Fault Refusal := event s registerWrite
/-- CORE_SPLIT_WRITE (R246). -/
def execCoreSplitWrite (s : State) : Host.Outcome State Fault Refusal := event s coreSplitWrite
/-- STACK_SPLIT_WRITE (R247). -/
def execStackSplitWrite (s : State) : Host.Outcome State Fault Refusal := event s stackSplitWrite
/-- ENAB_WRITE (R472). -/
def execEnabWrite (s : State) : Host.Outcome State Fault Refusal := event s enabWrite
/-- COUNTER_CLEAR (R463). -/
def execCounterClear (s : State) : Host.Outcome State Fault Refusal := event s counterClear
/-- POWER_ON (R473). -/
def execPowerOn (s : State) : Host.Outcome State Fault Refusal := event s powerOn
/-- WARM (R474). -/
def execWarm (s : State) : Host.Outcome State Fault Refusal := event s warm
/-- GO (R480). -/
def execGo (s : State) : Host.Outcome State Fault Refusal := event s go
/-- TRIP (R481). DESIGN CHOICE, safe (log 89). -/
def execTrip (s : State) : Host.Outcome State Fault Refusal := event s trip
/-- THROT (R481). DESIGN CHOICE, safe (log 89). -/
def execThrot (s : State) : Host.Outcome State Fault Refusal := event s throt
/-- IDLE_ENTRY (R475). -/
def execIdleEntry (s : State) : Host.Outcome State Fault Refusal := event s idleEntry
/-- IDLE_WAKE (R475). -/
def execIdleWake (s : State) : Host.Outcome State Fault Refusal := event s idleWake
/-- CORE_RETIRE (R476). -/
def execCoreRetire (s : State) : Host.Outcome State Fault Refusal := event s coreRetire
/-- UNIT_FAILED (R477). -/
def execUnitFailed (s : State) : Host.Outcome State Fault Refusal := event s unitFailed
/-- SLICE_FAILED (R477). -/
def execSliceFailed (s : State) : Host.Outcome State Fault Refusal := event s sliceFailed

end Sys2Proof.Machine
end

