-- ==== Sys2Proof/Machine/System.lean ====
section
/-! DEFINITION. The system and trap instructions of chapter 18 (R398 to R418). -/

namespace Sys2Proof.Machine

/-- The 16-bit immediate of TRAP, HALT and PMARK. -/
def imm16 (f : YF) : Nat := f.yx.toNat % 65536

/-- TRAP (R399): SOFTWARE_TRAP, resuming at the fall-through clause. -/
def trapEffect (h : Hd) (f : YF) (s : State) : R (State × Flow) :=
  if s.acts h then
    .ok (s.takeTrap s.sched.cur { code := Code.softwareTrap, d0 := imm16 f } s.cb.fall 0, .stay)
  else .ok (s, .next)

/-- The frame of the issuing beam, byte by byte (R395). -/
def State.frameByte (s : State) (i : Nat) : Nat := (getB s.mem.scratch (frameAt s.cwg s.cb.b + i)).toNat
def State.frameField (s : State) (i n : Nat) : Nat := natOfBytes (getBs s.mem.scratch (frameAt s.cwg s.cb.b + i) n)

/-- TRET (R400): it resumes at (hdr, pos); a path whose threads have all exited meanwhile has ended under R148 before
another word issues (R144). DEDUCED, unsafe (log 80). -/
def tretEffect (f : YF) (s : State) : R (State × Flow) := do
  let b := s.cb
  need b.hmode Code.illegalInstruction
  need (ownCount s.cwg.stack b.b = s.frameByte 17) Code.doubleTrap
  let skip := f.yx.getLsbD 0
  need (!(skip && (s.frameField 0 4 == Code.softwareTrap || bit (s.frameByte 6) 0))) Code.doubleTrap
  let hdr := s.frameField 8 8
  s.aligned hdr
  let pos := s.frameByte 16 + b2n skip
  let act := BitVec.ofNat 8 (s.frameByte 18) &&& b.live
  let kv := (List.range 16).map fun i => s.frameField (48 + 4 * i) 4
  let kpv := s.frameByte 112
  let pv := (List.range 8).map fun t => s.frameByte (120 + t)
  let s := s.modCb fun b => (List.range 16).foldl (fun b i => b.setK (48 + i) (BitVec.ofNat 32 (kv.getD i 0))) b
  let s := s.modCb fun b => { b with kp := BitVec.ofNat 4 kpv, active := act, hmode := false }
  let s := eachT b.live s fun s t => s.modTh t fun x => { x with p := BitVec.ofNat 7 (pv.getD t 0) }
  let s := s.modCb fun b => { b with pc := BitVec.ofNat 64 hdr, pos := pos, mid := true, buf := [] }
  if act = 0 then (do .ok (← s.pathEnd s.sched.cur 33, .stay)) else .ok (s, .stay)

/-! ### System registers (R412 to R414) -/

/-- The numbers RDSYS accepts (R412, R463, R482). -/
def readable (n : Nat) : Bool :=
  n ≤ 1 || (0x100 ≤ n && n ≤ 0x10B) || n == 0x200 || n == 0x380 || n == 0x381 || devReads n

/-- BEAM_MODE (R413). -/
def Beam.mode (b : Beam) : Nat := b2n b.tagMode + 2 * b2n b.idivTrap + 4 * b2n b.hmode

/-- A register as the issuing beam reads it (R412). DEDUCED, unsafe (log 68). DEDUCED, unsafe (log 87). -/
def State.sysRead (s : State) (n : Nat) : Nat :=
  if n = 0 then s.cb.mode
  else if n = 1 then s.cwg.swreq.toNat
  else if 0x100 ≤ n ∧ n ≤ 0x10B then (s.ctxReg s.cctx n).toNat
  else if n = 0x200 then s.cl.filmDrop
  else if n = 0x380 ∨ n = 0x381 then s.coreRead s.cc n
  else s.devRead n

/-- RDSYS (R414). DEDUCED, unsafe (log 87). -/
def rdsysEffect (h : Hd) (f : YF) (s : State) : R State := do
  need (readable f.sr.toNat) Code.illegalInstruction
  s.sIn f.d
  if f.d.isK && !s.acts h then .ok s
  else .ok (s.putD (s.part h) f.d (fun _ => BitVec.ofNat 32 (s.sysRead f.sr.toNat)) 9)

/-- WRSYS (R413, R414): BEAM_MODE is the one register a program may write. DEDUCED, unsafe (log 87). -/
def wrsysEffect (h : Hd) (f : YF) (s : State) : R State := do
  need (f.sr = 0) Code.illegalInstruction
  s.sIn f.a
  let v ← s.uni32 f.a
  if s.acts h then .ok (s.modCb fun b => { b with tagMode := bit v 0, idivTrap := bit v 1 }) else .ok s

/-- HALT (R401): the beam becomes HALTED, with an event of kind 2; it resumes ISSUING at the fall-through clause (R134).
DEDUCED, unsafe (log 19). -/
def haltEffect (h : Hd) (f : YF) (s : State) : R (State × Flow) :=
  if s.acts h then
    if s.evRoom s.cctx s.cdie then
      let bk := s.sched.cur
      let (t, s) := s.newTicket { kind := 2, ctx := s.cctx, launch := s.cwg.launch, addr := 0, who := bk, uid := s.cb.uid }
      let e := eventRecord 2 (imm16 f % 256) t 0 s.cc (bk % 64) s.cb.active.toNat s.cl.lrec.done
      let s := s.pushEvent s.cctx s.cdie e
      let s := s.endClause bk s.cb.fall
      .ok (s.modCb fun b => { b.halt with held := .issuing, wait := .host t }, .stay)
    else .error .stall
  else .ok (s, .next)

/-! ### Caches (R405, R415, R416) -/

/-- TLBINV (R405): a release at .dev, then the context's translations of the page, or all, are dropped.
DEDUCED, unsafe (log 76). -/
def tlbinvEffect (h : Hd) (f : YF) (s : State) : R State := do
  let c ← s.flagOf h false
  s.fenced (.rel .dev)
  if !s.acts h then .ok (s.fenceOp (.rel .dev) c)
  else
    .ok (s.later c .other [] none (.pages s.cctx (if f.yx.getLsbD 0 then none else some (s.cb.kPair f.a.num))))

/-- Lines of CFLUSH and CINV: yx[19:3] is lines - 1. -/
def lineCount (f : YF) : Nat := bits f.yx.toNat 19 3 + 1

/-- The locations of a range of lines, but for those of an Aperture, which has none; and the first address that does not
translate. -/
def State.lineLocs (s : State) (ctx va : Nat) : Nat → Except (Nat × Nat) (List Nat)
  | 0 => .ok []
  | n + 1 =>
    match s.xl ctx (va % 2 ^ 64) .read with
    | .error c => .error (va % 2 ^ 64, c)
    | .ok x => match s.lineLocs ctx (va + 128) n with
      | .error e => .error e
      | .ok ls => .ok (if x.isAp then ls else x.loc / 128 :: ls)

/-- The lines of a range whose addresses translate. -/
def State.lineHeld (s : State) (ctx va n : Nat) : List Nat :=
  (List.range n).filterMap fun i => match s.xl ctx ((va + 128 * i) % 2 ^ 64) .read with
    | .ok x => if x.isAp then none else some (x.loc / 128)
    | .error _ => none

/-- Dirty bytes are written back, and the lines leave every L1 (R415). -/
def Mem.flush (m : Mem) (lines : List Nat) : Mem :=
  { m with unflushed := lines.foldl (fun u l => clearRange u (l * 128) 128) m.unflushed,
           caches := m.caches.filter fun x => 1024 ≤ x.cache || !lines.contains x.line }
def Mem.flushAll (m : Mem) : Mem := { m with unflushed := [], caches := m.caches.filter fun x => 1024 ≤ x.cache }
/-- The sectors with dirty bytes in some lines. -/
def Mem.dirtySectors (m : Mem) (p : Nat → Bool) : List Nat := ((m.unflushed.filter fun u => p (u.1 / 128)).map (·.1 / 32)).eraseDups
/-- The dirty bytes of some lines, or of all memory, go to the base dies, which store their blocks anew (R415, R457). -/
def State.flush (s : State) (lines : List Nat) : State :=
  { s with mem := s.mem.flush lines }.writeBack (s.mem.dirtySectors lines.contains)
def State.flushAll (s : State) : State := { s with mem := s.mem.flushAll }.writeBack (s.mem.dirtySectors fun _ => true)

/-- CFLUSH (R415): the dirty bytes of the range, or of all memory, are written back, and its lines leave the L1s;
it acts as FENCE.rel.dev first. No load result changes. DEDUCED, unsafe (log 29). DEDUCED, safe (log 77). -/
def cflushEffect (h : Hd) (f : YF) (s : State) : R State := do
  let c ← s.flagOf h false
  let all := f.yx.toNat % 8 == 1
  let va := s.cb.kPair f.a.num
  need (all || va % 128 == 0) Code.illegalInstruction
  s.fenced (.rel .dev)
  let done := fun (s : State) => s.later c .other [] none (.fence (.rel .dev))
  if !s.acts h then .ok (done s)
  else if all then .ok (done s.flushAll)
  else
    match s.lineLocs s.cctx va (lineCount f) with
    | .error (a, cs) => .error (.page a cs s.cb.active)
    | .ok ls => .ok (done (s.flush ls))

/-- What a CINV names (R416). DEDUCED, unsafe (log 29). -/
def State.cinvOf (s : State) (f : YF) : Cinv :=
  let va := s.cb.kPair f.a.num
  let n := lineCount f
  match f.yx.toNat % 8 with
  | 0 => { ctx := s.cctx, lo := va / 128, hi := va / 128 + n, instr := true }
  | 1 => { ctx := s.cctx, data := some (s.lineHeld s.cctx va n) }
  | 2 => { ctx := s.cctx, lo := va / 128, hi := va / 128 + n, aperture := true }
  | _ => { ctx := s.cctx, lo := 0, hi := 2 ^ 64, instr := true, aperture := true, allData := true }

/-- CINV (R416): the copies go as it completes. DEDUCED, unsafe (log 18). DEDUCED, unsafe (log 29). -/
def cinvEffect (h : Hd) (f : YF) (s : State) : R State := do
  let c ← s.flagOf h false
  need (f.yx.toNat % 8 == 3 || s.cb.kPair f.a.num % 128 == 0) Code.illegalInstruction
  .ok (s.later c .other [] none (if s.acts h then .lines (s.cinvOf f) else .now))

/-! ### Identity, clock and marks (R417, R418) -/

/-- Write a 64-bit value to a pair: an s pair in every taking-part thread with tag 15, or a k pair once. -/
def State.putPair (s : State) (m : BitVec 8) (d : RF) (v : Nat) : State :=
  match d with
  | .k n => s.modCb fun b => (b.setK n.toNat (BitVec.ofNat 32 v)).setK (n.toNat + 1) (BitVec.ofNat 32 (v / 2 ^ 32))
  | .t n => eachT m s fun s t => s.modTh t fun x =>
      (x.setS n.toNat (BitVec.ofNat 32 v) 15).setS (n.toNat + 1) (BitVec.ofNat 32 (v / 2 ^ 32)) 15

/-- CLK (R417). -/
def clkEffect (h : Hd) (f : YF) (s : State) : R State := do
  s.sSpan f.d 2
  if f.d.isK && !s.acts h then .ok s else .ok (s.putPair (s.part h) f.d s.sched.clk)

/-- The value of a MESHID selector (R417). -/
def State.meshid (s : State) (sel : Nat) : Nat :=
  let core := s.cc
  let g := s.gang s.cwg.gang
  match sel with
  | 0 => core % 32 + 32 * (core / 32) + 256 * s.cdie + 512 * core
  | 1 => g.posOf core + 16 * g.x + 512 * g.y
  | 2 => s.cb.lane.getD 0 + 16 * (s.sched.cur % 64)
  | _ => s.cctx

/-- MESHID. -/
def meshidEffect (h : Hd) (f : YF) (s : State) : R State := do
  s.sIn f.d
  if f.d.isK && !s.acts h then .ok s
  else .ok (s.putD (s.part h) f.d (fun _ => BitVec.ofNat 32 (s.meshid (f.yx.toNat % 4))) 9)

/-- PMARK (R418). -/
def pmarkEffect (h : Hd) (f : YF) (s : State) : R State :=
  if s.acts h && (s.reg 0x320).getLsbD 0 then
    .ok (s.modCore s.cc fun c =>
      { c with pmarkLast := BitVec.ofNat 32 (imm16 f + 65536 * (s.sched.cur % 64)), pmarkCnt := c.pmarkCnt + 1 })
  else .ok s

/-- TRAP (R399). -/
def execTrap (h : Hd) (f : YF) (s : State) : Host.Outcome State Fault Refusal := issueTo s (trapEffect h f)
/-- TRET (R400). -/
def execTret (_ : Hd) (f : YF) (s : State) : Host.Outcome State Fault Refusal := issueTo s (tretEffect f)
/-- RDSYS (R414). -/
def execRdsys (h : Hd) (f : YF) (s : State) : Host.Outcome State Fault Refusal := issue s (rdsysEffect h f)
/-- WRSYS (R414). -/
def execWrsys (h : Hd) (f : YF) (s : State) : Host.Outcome State Fault Refusal := issue s (wrsysEffect h f)
/-- HALT (R401). -/
def execHalt (h : Hd) (f : YF) (s : State) : Host.Outcome State Fault Refusal := issueTo s (haltEffect h f)
/-- TLBINV (R405). -/
def execTlbinv (h : Hd) (f : YF) (s : State) : Host.Outcome State Fault Refusal := issue s (tlbinvEffect h f)
/-- CFLUSH (R415). -/
def execCflush (h : Hd) (f : YF) (s : State) : Host.Outcome State Fault Refusal := issue s (cflushEffect h f)
/-- CINV (R416). -/
def execCinv (h : Hd) (f : YF) (s : State) : Host.Outcome State Fault Refusal := issue s (cinvEffect h f)
/-- CLK (R417). -/
def execClk (h : Hd) (f : YF) (s : State) : Host.Outcome State Fault Refusal := issue s (clkEffect h f)
/-- MESHID (R417). -/
def execMeshid (h : Hd) (f : YF) (s : State) : Host.Outcome State Fault Refusal := issue s (meshidEffect h f)
/-- PMARK (R418). -/
def execPmark (h : Hd) (f : YF) (s : State) : Host.Outcome State Fault Refusal := issue s (pmarkEffect h f)

end Sys2Proof.Machine
end

