-- ==== Sys2Proof/Machine/Dispatch.lean ====
section
/-! DEFINITION. The one dispatch: one arm per instruction, each one direct call of that instruction's own
meaning. -/

namespace Sys2Proof.Machine

def exec (i : Instr) (s : State) : Host.Outcome State Fault Refusal :=
  match i with
  | .nop h f => Sys2Proof.Machine.execNop h f s
  | .br h f => Sys2Proof.Machine.execBr h f s
  | .bru h f => Sys2Proof.Machine.execBru h f s
  | .brm h f => Sys2Proof.Machine.execBrm h f s
  | .brw h f => Sys2Proof.Machine.execBrw h f s
  | .jmp h f => Sys2Proof.Machine.execJmp h f s
  | .jmpi h f => Sys2Proof.Machine.execJmpi h f s
  | .call h f => Sys2Proof.Machine.execCall h f s
  | .calli h f => Sys2Proof.Machine.execCalli h f s
  | .ret h f => Sys2Proof.Machine.execRet h f s
  | .reconv h f => Sys2Proof.Machine.execReconv h f s
  | .loop h f => Sys2Proof.Machine.execLoop h f s
  | .loopK h f => Sys2Proof.Machine.execLoopK h f s
  | .yield h f => Sys2Proof.Machine.execYield h f s
  | .waitf h f => Sys2Proof.Machine.execWaitf h f s
  | .pset h f => Sys2Proof.Machine.execPset h f s
  | .pand h f => Sys2Proof.Machine.execPand h f s
  | .por h f => Sys2Proof.Machine.execPor h f s
  | .pxor h f => Sys2Proof.Machine.execPxor h f s
  | .pnot h f => Sys2Proof.Machine.execPnot h f s
  | .pmov h f => Sys2Proof.Machine.execPmov h f s
  | .vote h f => Sys2Proof.Machine.execVote h f s
  | .elect h f => Sys2Proof.Machine.execElect h f s
  | .actmask h f => Sys2Proof.Machine.execActmask h f s
  | .mov h f => Sys2Proof.Machine.execMov h f s
  | .movi h f => Sys2Proof.Machine.execMovi h f s
  | .iadd h f => Sys2Proof.Machine.execIadd h f s
  | .iaddI h f => Sys2Proof.Machine.execIaddI h f s
  | .isub h f => Sys2Proof.Machine.execIsub h f s
  | .iaddc h f => Sys2Proof.Machine.execIaddc h f s
  | .imul h f => Sys2Proof.Machine.execImul h f s
  | .imulI h f => Sys2Proof.Machine.execImulI h f s
  | .imulh h f => Sys2Proof.Machine.execImulh h f s
  | .imad h f => Sys2Proof.Machine.execImad h f s
  | .imul64 h f => Sys2Proof.Machine.execImul64 h f s
  | .iadd64 h f => Sys2Proof.Machine.execIadd64 h f s
  | .idiv h f => Sys2Proof.Machine.execIdiv h f s
  | .irem h f => Sys2Proof.Machine.execIrem h f s
  | .imin h f => Sys2Proof.Machine.execImin h f s
  | .imax h f => Sys2Proof.Machine.execImax h f s
  | .iabs h f => Sys2Proof.Machine.execIabs h f s
  | .ineg h f => Sys2Proof.Machine.execIneg h f s
  | .and h f => Sys2Proof.Machine.execAnd h f s
  | .andI h f => Sys2Proof.Machine.execAndI h f s
  | .or h f => Sys2Proof.Machine.execOr h f s
  | .orI h f => Sys2Proof.Machine.execOrI h f s
  | .xor h f => Sys2Proof.Machine.execXor h f s
  | .xorI h f => Sys2Proof.Machine.execXorI h f s
  | .not h f => Sys2Proof.Machine.execNot h f s
  | .shl h f => Sys2Proof.Machine.execShl h f s
  | .shlI h f => Sys2Proof.Machine.execShlI h f s
  | .shr h f => Sys2Proof.Machine.execShr h f s
  | .shrI h f => Sys2Proof.Machine.execShrI h f s
  | .sra h f => Sys2Proof.Machine.execSra h f s
  | .sraI h f => Sys2Proof.Machine.execSraI h f s
  | .rot h f => Sys2Proof.Machine.execRot h f s
  | .clz h f => Sys2Proof.Machine.execClz h f s
  | .popc h f => Sys2Proof.Machine.execPopc h f s
  | .brev h f => Sys2Proof.Machine.execBrev h f s
  | .bfx h f => Sys2Proof.Machine.execBfx h f s
  | .bfi h f => Sys2Proof.Machine.execBfi h f s
  | .sel h f => Sys2Proof.Machine.execSel h f s
  | .iset h f => Sys2Proof.Machine.execIset h f s
  | .isetI h f => Sys2Proof.Machine.execIsetI h f s
  | .lea h f => Sys2Proof.Machine.execLea h f s
  | .leaI h f => Sys2Proof.Machine.execLeaI h f s
  | .idp2 h f => Sys2Proof.Machine.execIdp2 h f s
  | .inarrow h f => Sys2Proof.Machine.execInarrow h f s
  | .fadd h f => Sys2Proof.Machine.execFadd h f s
  | .faddI h f => Sys2Proof.Machine.execFaddI h f s
  | .fsub h f => Sys2Proof.Machine.execFsub h f s
  | .fmul h f => Sys2Proof.Machine.execFmul h f s
  | .fmulI h f => Sys2Proof.Machine.execFmulI h f s
  | .ffma h f => Sys2Proof.Machine.execFfma h f s
  | .ffms h f => Sys2Proof.Machine.execFfms h f s
  | .ffnm h f => Sys2Proof.Machine.execFfnm h f s
  | .fmin h f => Sys2Proof.Machine.execFmin h f s
  | .fmax h f => Sys2Proof.Machine.execFmax h f s
  | .fabs h f => Sys2Proof.Machine.execFabs h f s
  | .fneg h f => Sys2Proof.Machine.execFneg h f s
  | .fcmp h f => Sys2Proof.Machine.execFcmp h f s
  | .fclamp h f => Sys2Proof.Machine.execFclamp h f s
  | .frcp h f => Sys2Proof.Machine.execFrcp h f s
  | .frsq h f => Sys2Proof.Machine.execFrsq h f s
  | .fsqrt h f => Sys2Proof.Machine.execFsqrt h f s
  | .fdiv h f => Sys2Proof.Machine.execFdiv h f s
  | .fexp2 h f => Sys2Proof.Machine.execFexp2 h f s
  | .flog2 h f => Sys2Proof.Machine.execFlog2 h f s
  | .fsin h f => Sys2Proof.Machine.execFsin h f s
  | .fcos h f => Sys2Proof.Machine.execFcos h f s
  | .vdot h f => Sys2Proof.Machine.execVdot h f s
  | .vhsum h f => Sys2Proof.Machine.execVhsum h f s
  | .vbcast h f => Sys2Proof.Machine.execVbcast h f s
  | .vext h f => Sys2Proof.Machine.execVext h f s
  | .vins h f => Sys2Proof.Machine.execVins h f s
  | .vperm h f => Sys2Proof.Machine.execVperm h f s
  | .vslide h f => Sys2Proof.Machine.execVslide h f s
  | .vshfl h f => Sys2Proof.Machine.execVshfl h f s
  | .vhero h f => Sys2Proof.Machine.execVhero h f s
  | .polmv h f => Sys2Proof.Machine.execPolmv h f s
  | .polmm h f => Sys2Proof.Machine.execPolmm h f s
  | .rngdraw h f => Sys2Proof.Machine.execRngdraw h f s
  | .rngset h f => Sys2Proof.Machine.execRngset h f s
  | .rngskip h f => Sys2Proof.Machine.execRngskip h f s
  | .fxrd h f => Sys2Proof.Machine.execFxrd h f s
  | .fxclr h f => Sys2Proof.Machine.execFxclr h f s
  | .fsign h f => Sys2Proof.Machine.execFsign h f s
  | .cvt h f => Sys2Proof.Machine.execCvt h f s
  | .cvtsEnc h f => Sys2Proof.Machine.execCvtsEnc h f s
  | .cvtsDec h f => Sys2Proof.Machine.execCvtsDec h f s
  | .pack6 h f => Sys2Proof.Machine.execPack6 h f s
  | .pack4 h f => Sys2Proof.Machine.execPack4 h f s
  | .unpack6 h f => Sys2Proof.Machine.execUnpack6 h f s
  | .unpack4 h f => Sys2Proof.Machine.execUnpack4 h f s
  | .tagset h f => Sys2Proof.Machine.execTagset h f s
  | .tagrd h f => Sys2Proof.Machine.execTagrd h f s
  | .cbld h f => Sys2Proof.Machine.execCbld h f s
  | .cbsync h f => Sys2Proof.Machine.execCbsync h f s
  | .cbx h f => Sys2Proof.Machine.execCbx h f s
  | .qnt h f => Sys2Proof.Machine.execQnt h f s
  | .sclqEnc h f => Sys2Proof.Machine.execSclqEnc h f s
  | .sclqDec h f => Sys2Proof.Machine.execSclqDec h f s
  | .mma h f => Sys2Proof.Machine.execMma h f s
  | .mmat h f => Sys2Proof.Machine.execMmat h f s
  | .mzero h f => Sys2Proof.Machine.execMzero h f s
  | .mload h f => Sys2Proof.Machine.execMload h f s
  | .mrd h f => Sys2Proof.Machine.execMrd h f s
  | .mwr h f => Sys2Proof.Machine.execMwr h f s
  | .mdrain h f => Sys2Proof.Machine.execMdrain h f s
  | .mrel h f => Sys2Proof.Machine.execMrel h f s
  | .mstat h f => Sys2Proof.Machine.execMstat h f s
  | .ld h f => Sys2Proof.Machine.execLd h f s
  | .st h f => Sys2Proof.Machine.execSt h f s
  | .lds h f => Sys2Proof.Machine.execLds h f s
  | .sts h f => Sys2Proof.Machine.execSts h f s
  | .ldg h f => Sys2Proof.Machine.execLdg h f s
  | .stg h f => Sys2Proof.Machine.execStg h f s
  | .ldk h f => Sys2Proof.Machine.execLdk h f s
  | .stk h f => Sys2Proof.Machine.execStk h f s
  | .ldc h f => Sys2Proof.Machine.execLdc h f s
  | .ldp6 h f => Sys2Proof.Machine.execLdp6 h f s
  | .stp6 h f => Sys2Proof.Machine.execStp6 h f s
  | .pref h f => Sys2Proof.Machine.execPref h f s
  | .spinfo h f => Sys2Proof.Machine.execSpinfo h f s
  | .fence h f => Sys2Proof.Machine.execFence h f s
  | .detdrain h f => Sys2Proof.Machine.execDetdrain h f s
  | .atom h f => Sys2Proof.Machine.execAtom h f s
  | .atomf h f => Sys2Proof.Machine.execAtomf h f s
  | .red h f => Sys2Proof.Machine.execRed h f s
  | .redf h f => Sys2Proof.Machine.execRedf h f s
  | .cas h f => Sys2Proof.Machine.execCas h f s
  | .cas2 h f => Sys2Proof.Machine.execCas2 h f s
  | .barinit h f => Sys2Proof.Machine.execBarinit h f s
  | .bararr h f => Sys2Proof.Machine.execBararr h f s
  | .barwait h f => Sys2Proof.Machine.execBarwait h f s
  | .barqry h f => Sys2Proof.Machine.execBarqry h f s
  | .logmark h f => Sys2Proof.Machine.execLogmark h f s
  | .cpy h f => Sys2Proof.Machine.execCpy h f s
  | .cpywp h f => Sys2Proof.Machine.execCpywp h f s
  | .cpywait h f => Sys2Proof.Machine.execCpywait h f s
  | .cpycan h f => Sys2Proof.Machine.execCpycan h f s
  | .cpyst h f => Sys2Proof.Machine.execCpyst h f s
  | .spawn h f => Sys2Proof.Machine.execSpawn h f s
  | .exit h f => Sys2Proof.Machine.execExit h f s
  | .jwait h f => Sys2Proof.Machine.execJwait h f s
  | .await h f => Sys2Proof.Machine.execAwait h f s
  | .qpush h f => Sys2Proof.Machine.execQpush h f s
  | .qpop h f => Sys2Proof.Machine.execQpop h f s
  | .qqry h f => Sys2Proof.Machine.execQqry h f s
  | .nemit h f => Sys2Proof.Machine.execNemit h f s
  | .ninfo h f => Sys2Proof.Machine.execNinfo h f s
  | .launch h f => Sys2Proof.Machine.execLaunch h f s
  | .lwait h f => Sys2Proof.Machine.execLwait h f s
  | .lpoll h f => Sys2Proof.Machine.execLpoll h f s
  | .vswitch h f => Sys2Proof.Machine.execVswitch h f s
  | .role h f => Sys2Proof.Machine.execRole h f s
  | .psmp h f => Sys2Proof.Machine.execPsmp h f s
  | .psmpl h f => Sys2Proof.Machine.execPsmpl h f s
  | .pups h f => Sys2Proof.Machine.execPups h f s
  | .pqry h f => Sys2Proof.Machine.execPqry h f s
  | .facc h f => Sys2Proof.Machine.execFacc h f s
  | .fres h f => Sys2Proof.Machine.execFres h f s
  | .fclr h f => Sys2Proof.Machine.execFclr h f s
  | .time h f => Sys2Proof.Machine.execTime h f s
  | .trigarm h f => Sys2Proof.Machine.execTrigarm h f s
  | .trigq h f => Sys2Proof.Machine.execTrigq h f s
  | .rpkt h f => Sys2Proof.Machine.execRpkt h f s
  | .rrecv h f => Sys2Proof.Machine.execRrecv h f s
  | .rbcast h f => Sys2Proof.Machine.execRbcast h f s
  | .rstat h f => Sys2Proof.Machine.execRstat h f s
  | .trap h f => Sys2Proof.Machine.execTrap h f s
  | .tret h f => Sys2Proof.Machine.execTret h f s
  | .rdsys h f => Sys2Proof.Machine.execRdsys h f s
  | .wrsys h f => Sys2Proof.Machine.execWrsys h f s
  | .halt h f => Sys2Proof.Machine.execHalt h f s
  | .tlbinv h f => Sys2Proof.Machine.execTlbinv h f s
  | .cflush h f => Sys2Proof.Machine.execCflush h f s
  | .cinv h f => Sys2Proof.Machine.execCinv h f s
  | .clk h f => Sys2Proof.Machine.execClk h f s
  | .meshid h f => Sys2Proof.Machine.execMeshid h f s
  | .pmark h f => Sys2Proof.Machine.execPmark h f s
  | .pairedWord x y => Sys2Proof.Machine.execPairedWord x y s
  | .unallocatedOpcode w => Sys2Proof.Machine.execUnallocatedOpcode w s
  | .clauseStart => Sys2Proof.Machine.execClauseStart s
  | .forcedSwitch => Sys2Proof.Machine.execForcedSwitch s
  | .overdueBeam => Sys2Proof.Machine.execOverdueBeam s
  | .handlerEntry => Sys2Proof.Machine.execHandlerEntry s
  | .counterFall => Sys2Proof.Machine.execCounterFall s
  | .beamWake => Sys2Proof.Machine.execBeamWake s
  | .hostPush => Sys2Proof.Machine.execHostPush s
  | .dispatcherTake => Sys2Proof.Machine.execDispatcherTake s
  | .reservationHold => Sys2Proof.Machine.execReservationHold s
  | .reservationBackoff => Sys2Proof.Machine.execReservationBackoff s
  | .launchCompletionRecord => Sys2Proof.Machine.execLaunchCompletionRecord s
  | .swreqSet => Sys2Proof.Machine.execSwreqSet s
  | .detApplication => Sys2Proof.Machine.execDetApplication s
  | .spawnGatherTimer => Sys2Proof.Machine.execSpawnGatherTimer s
  | .spawnGroupPlace => Sys2Proof.Machine.execSpawnGroupPlace s
  | .parkReload => Sys2Proof.Machine.execParkReload s
  | .spillRefill => Sys2Proof.Machine.execSpillRefill s
  | .binFireTimer => Sys2Proof.Machine.execBinFireTimer s
  | .binLaunch => Sys2Proof.Machine.execBinLaunch s
  | .queueArm => Sys2Proof.Machine.execQueueArm s
  | .preemptRequest => Sys2Proof.Machine.execPreemptRequest s
  | .preemptSuspend => Sys2Proof.Machine.execPreemptSuspend s
  | .preemptResume => Sys2Proof.Machine.execPreemptResume s
  | .gangSave => Sys2Proof.Machine.execGangSave s
  | .gangResume => Sys2Proof.Machine.execGangResume s
  | .faultResumeRetry => Sys2Proof.Machine.execFaultResumeRetry s
  | .faultResumeAbort => Sys2Proof.Machine.execFaultResumeAbort s
  | .faultResumeContinue => Sys2Proof.Machine.execFaultResumeContinue s
  | .eventBufferDrain => Sys2Proof.Machine.execEventBufferDrain s
  | .launchLevelTrap => Sys2Proof.Machine.execLaunchLevelTrap s
  | .mirrorTurn => Sys2Proof.Machine.execMirrorTurn s
  | .copyCommandStart => Sys2Proof.Machine.execCopyCommandStart s
  | .copyWpAdvance => Sys2Proof.Machine.execCopyWpAdvance s
  | .copyCommandEnd => Sys2Proof.Machine.execCopyCommandEnd s
  | .copyFaultStall => Sys2Proof.Machine.execCopyFaultStall s
  | .routerPacketArrival => Sys2Proof.Machine.execRouterPacketArrival s
  | .collectiveTimeout => Sys2Proof.Machine.execCollectiveTimeout s
  | .expiryNotice => Sys2Proof.Machine.execExpiryNotice s
  | .timeTick => Sys2Proof.Machine.execTimeTick s
  | .ppsEdge => Sys2Proof.Machine.execPpsEdge s
  | .timeStep => Sys2Proof.Machine.execTimeStep s
  | .triggerFire => Sys2Proof.Machine.execTriggerFire s
  | .pinPulseEnd => Sys2Proof.Machine.execPinPulseEnd s
  | .packetRd => Sys2Proof.Machine.execPacketRd s
  | .packetWr => Sys2Proof.Machine.execPacketWr s
  | .packetAtom => Sys2Proof.Machine.execPacketAtom s
  | .packetQcmd => Sys2Proof.Machine.execPacketQcmd s
  | .packetCtl => Sys2Proof.Machine.execPacketCtl s
  | .packetRsp => Sys2Proof.Machine.execPacketRsp s
  | .linkRetrain => Sys2Proof.Machine.execLinkRetrain s
  | .scrub => Sys2Proof.Machine.execScrub s
  | .hotWindowEnd => Sys2Proof.Machine.execHotWindowEnd s
  | .stackHotSet => Sys2Proof.Machine.execStackHotSet s
  | .stackHotClear => Sys2Proof.Machine.execStackHotClear s
  | .ualinkInbound => Sys2Proof.Machine.execUalinkInbound s
  | .ualinkTimeout => Sys2Proof.Machine.execUalinkTimeout s
  | .vetikTimeout => Sys2Proof.Machine.execVetikTimeout s
  | .vetikRetrain => Sys2Proof.Machine.execVetikRetrain s
  | .registerWrite => Sys2Proof.Machine.execRegisterWrite s
  | .coreSplitWrite => Sys2Proof.Machine.execCoreSplitWrite s
  | .stackSplitWrite => Sys2Proof.Machine.execStackSplitWrite s
  | .enabWrite => Sys2Proof.Machine.execEnabWrite s
  | .counterClear => Sys2Proof.Machine.execCounterClear s
  | .powerOn => Sys2Proof.Machine.execPowerOn s
  | .warm => Sys2Proof.Machine.execWarm s
  | .go => Sys2Proof.Machine.execGo s
  | .trip => Sys2Proof.Machine.execTrip s
  | .throt => Sys2Proof.Machine.execThrot s
  | .idleEntry => Sys2Proof.Machine.execIdleEntry s
  | .idleWake => Sys2Proof.Machine.execIdleWake s
  | .coreRetire => Sys2Proof.Machine.execCoreRetire s
  | .unitFailed => Sys2Proof.Machine.execUnitFailed s
  | .sliceFailed => Sys2Proof.Machine.execSliceFailed s
  | .instructionLineFill => Sys2Proof.Machine.execInstructionLineFill s
  | .ualinkPortRetrain => Sys2Proof.Machine.execUalinkPortRetrain s
  | .hostMemoryAccess => Sys2Proof.Machine.execHostMemoryAccess s

end Sys2Proof.Machine
end

