-- ==== Sys2Proof/Machine/Schedule.lean ====
section
/-! DEFINITION. What happens next (MODEL): which agent of the device moves in a step, and the word an
issuing beam stands at. The spec leaves the interleaving of its agents open (R13); the agenda lets any of
the machine's own steps happen at any point. -/

namespace Sys2Proof.Machine

/-- What one step does. -/
inductive Plan where
  /-- the issuing beam's word -/
  | word (i : Instr)
  /-- the issuing beam's word raises this trap (R54, R57) -/
  | reject (code : Nat)
  /-- the issuing beam starts the clause at its pc -/
  | start
  /-- the issuing beam fetches again the clause it is inside (R39) -/
  | refetch
  /-- one of the machine's own steps -/
  | turn (t : Turn)
  /-- another beam that is inside a clause has its word issue next -/
  | focus (bk : Nat)
  /-- nothing can happen -/
  | idle
  deriving DecidableEq, Repr

/-- What an issuing beam does next. -/
def Beam.plan (b : Beam) : Plan :=
  if !b.mid then .start
  else if b.buf = [] then .refetch
  else match decode b.word with
    | .ok i => .word i
    | .error .illegalInstruction => .reject Code.illegalInstruction
    | .error .illegalPair => .reject Code.illegalPair

/-- The clock of a step (R417). DESIGN CHOICE, unsafe (log 12). DESIGN CHOICE, unsafe (log 15). -/
def State.tick (s : State) : State :=
  { s with sched := { s.sched with clk := s.sched.clk + 1 + Config.clocks s.sched.clk } }

/-- Hand the step its argument, and count the turn: every beam may try its word again. DESIGN CHOICE, safe (log 2). -/
def State.given (s : State) (t : Turn) : State :=
  { s with sched := { s.sched with arg := t.arg, tried := [], turns := s.sched.turns + 1 } }

/-- An illegal word raises its trap with the word in detail 0 and 1 (R392). -/
def State.rejectWord (s : State) (code : Nat) : State :=
  let w := s.cb.word.toNat
  s.takeTrap s.sched.cur { code := code, d0 := w % 2 ^ 32, d1 := w / 2 ^ 32 } s.cb.pc s.cb.pos

/-- The turn at which a lane last started a clause. -/
def State.laneLast (s : State) (p : Nat × Nat) : Nat := ((look (s.core p.1).lanes p.2).getD {}).last
/-- A lane before those that started a clause later. -/
def State.byLast (s : State) (p : Nat × Nat) : List (Nat × Nat) → List (Nat × Nat)
  | [] => [p]
  | q :: l => if s.laneLast p ≤ s.laneLast q then p :: q :: l else q :: s.byLast p l
/-- The lanes that READY beams are bound to: the one that started a clause longest ago comes first. -/
def State.lanesInUse (s : State) : List (Nat × Nat) :=
  ((s.beams.filterMap fun x => if x.2.st = .ready then x.2.lane.map fun l => (coreOf x.1, l) else none).eraseDups).foldr s.byLast []

/-- A step of the device, the places where it may happen, and what it does there. -/
structure Auto where
  instr : Instr
  args : State → List EvArg
  run : State → Option State
  /-- the places come round in turn -/
  around : Bool

/-- Arguments that name one place, or two. -/
def at1 (l : List Nat) : List EvArg := l.map fun a => { a := a }
def at2 (l : List (Nat × Nat)) : List EvArg := l.map fun p => { a := p.1, b := p.2 }
/-- Cores with each channel that has work. -/
def State.chansInUse (s : State) : List (Nat × Nat) := s.cores.flatMap fun c => c.2.chans.filterMap fun x => if x.2.idle then none else some (c.1, x.1)
/-- Entries of the gatherers that hold threads. -/
def State.entriesInUse (s : State) : List EvArg :=
  s.cores.flatMap fun c => (c.2.spawnQ.map fun i => ({ a := c.1, b := i.launch, c := i.e } : EvArg)).eraseDups
/-- Open collectives: core, launch and number. -/
def State.collsInUse (s : State) : List EvArg :=
  s.cores.flatMap fun c => c.2.colls.map fun x => { a := c.1, b := x.1 / 65536, c := x.1 % 65536 }
/-- Responses on their way: stack and tag. -/
def State.rspsDue (s : State) : List (Nat × Nat) := s.links.flatMap fun l => l.2.rsps.map fun r => (l.1, r.1)
/-- Fenced cores whose row's spare is free, while the device rests deep enough for it to come in (R476, R477). -/
def State.retirable (s : State) : List Nat :=
  if s.depth < 2 then [] else (List.range 256).filter fun c => s.coreFenced c && !bit (s.reg (spareReg c)).toNat 5
/-- Cores with threads in a spill queue, and the queue. -/
def State.spills (s : State) : List (Nat × Nat) := (s.queues.flatMap fun q => q.2.spill.map fun i => (i.1, q.1)).eraseDups

/-- The device's own steps, in the circle in which an empty agenda tries them.
DESIGN CHOICE, unsafe (log 3). -/
def autos : List Auto :=
  [⟨.handlerEntry, fun s => at1 ((s.beams.filter fun b => b.2.pend.isSome).map (·.1)), handlerEntry, true⟩,
   ⟨.counterFall, fun s => at1 (s.ops.map (·.id)), counterFall, false⟩,
   ⟨.beamWake, fun s => at1 ((s.beams.filter fun b => b.2.st == .waiting || b.2.st == .parked).map (·.1)), beamWake, true⟩,
   ⟨.clauseStart, fun s => at2 s.lanesInUse, laneTurn none, false⟩,
   ⟨.parkReload, fun s => at1 ((s.beams.filter fun b => b.2.st == .evicted).map fun b => coreOf b.1), parkReload, true⟩,
   ⟨.spawnGroupPlace, fun s => at1 ((s.cores.filter fun c => c.2.groups ≠ []).map (·.1)), groupPlace, true⟩,
   ⟨.spillRefill, fun s => at2 s.spills, spillRefill, true⟩,
   ⟨.spawnGatherTimer, State.entriesInUse, gatherTimer, true⟩,
   ⟨.copyCommandStart, fun s => at2 s.chansInUse, copyStart, true⟩,
   ⟨.copyCommandEnd, fun s => at2 s.chansInUse, copyFinish, true⟩,
   ⟨.copyWpAdvance, fun s => at2 s.chansInUse, copyAdvance, true⟩,
   ⟨.copyFaultStall, fun s => at2 s.chansInUse, copyFault, true⟩,
   ⟨.routerPacketArrival, fun s => at1 (s.net.map (·.1)), packetArrival, true⟩,
   ⟨.expiryNotice, fun s => at1 (s.net.map (·.1)), expiryNotice, true⟩,
   ⟨.collectiveTimeout, State.collsInUse, collTimeout, true⟩,
   ⟨.detApplication, fun s => at1 (s.wgs.map (·.1)), detApplication, true⟩,
   ⟨.binFireTimer, fun s => s.launches.flatMap fun l => at2 (l.2.bins.map fun b => (l.1, b.node)), binTimer, true⟩,
   ⟨.binLaunch, fun s => at1 ((s.launches.filter fun l => l.2.bins ≠ []).map (·.1)), binLaunch, true⟩,
   ⟨.launchLevelTrap, fun s => at1 (s.launches.map (·.1)), launchLevelTrap, true⟩,
   ⟨.launchCompletionRecord, fun s => at1 (s.launches.map (·.1)), completionRecord, true⟩,
   ⟨.dispatcherTake, fun _ => at1 [0, 1], dispatcherTake, true⟩,
   ⟨.gangSave, fun s => at1 (s.gangs.map (·.1)), gangSave, true⟩,
   ⟨.gangResume, fun s => at1 (s.gangs.map (·.1)), gangResume, true⟩,
   ⟨.reservationBackoff, fun s => at1 (s.launches.map (·.1)), reservationBackoff, true⟩,
   ⟨.reservationHold, fun s => at1 (s.launches.map (·.1)), reservationHold, true⟩,
   ⟨.preemptRequest, fun s => at1 (s.launches.map (·.1)), preemptRequest, true⟩,
   ⟨.swreqSet, fun s => at1 (s.wgs.map (·.1)), swreqSet, true⟩,
   ⟨.eventBufferDrain, fun s => at2 (s.evbuf.map fun e => (e.1 / 16, e.1 % 16)), eventBufferDrain, true⟩,
   ⟨.triggerFire, fun s => at1 (s.time.trigs.map (·.1)), triggerFire, true⟩,
   ⟨.pinPulseEnd, fun s => at1 (s.time.pulses.map (·.1)), pinPulseEnd, true⟩,
   ⟨.packetRsp, fun s => at2 s.rspsDue, packetRsp, true⟩,
   ⟨.powerOn, fun s => if s.startable then [{}] else [], powerOn, true⟩,
   ⟨.idleEntry, fun _ => [{}], idleEntry, true⟩,
   ⟨.coreRetire, fun s => at1 s.retirable, coreRetire, true⟩,
   ⟨.timeTick, fun _ => [{}], timeTick, true⟩]

/-- A list from its n-th element on, and then its beginning. -/
def turned {α : Type} (l : List α) (n : Nat) : List α := l.drop (n % l.length) ++ l.take (n % l.length)

/-- The first place where a step of the device may happen, in turn. DESIGN CHOICE, unsafe (log 3). -/
def Auto.first (x : Auto) (s : State) : Option Turn :=
  ((if x.around then turned (x.args s) s.sched.turns else x.args s).find? fun a => (x.run (s.given { instr := x.instr, arg := a })).isSome).map
    fun a => { instr := x.instr, arg := a }

/-- A turn the device takes on its own. Steps and places come round in turn, so that no agent that can move
waits for ever. DESIGN CHOICE, unsafe (log 3). -/
def State.nextTurn (s : State) : Option Turn := (turned autos s.sched.turns).findSome? fun x => x.first s

/-- Where a beam stands in the order in which the units of a core take the lanes' work (R25). -/
def State.lanePlace (s : State) (bk : Nat) : Nat := 16 * coreOf bk + (s.beam bk).lane.getD 0

/-- The issuing beam of a kind whose lane comes first. -/
def State.firstIssuing (s : State) (p : Nat → Bool) : Option Nat :=
  ((s.beams.filter fun x => x.2.st == .issuing && p x.1).map (·.1)).foldl (fun m k => match m with
    | none => some k
    | some j => if s.lanePlace k < s.lanePlace j then some k else m) none

/-- What the current beam does, when it may: its word has not stalled, and a clause of its handler does not follow on
another with no turn between them. -/
def State.own (s : State) : Option Plan :=
  match look s.beams s.sched.cur with
  | some b =>
    if b.st = .issuing ∧ !s.sched.stalled ∧ (b.plan = .start → !s.sched.tried.contains s.sched.cur) then some b.plan else none
  | none => none

/-- What the next step does: the agenda first; then the issuing beam; then, the lower lane first (R25), a beam that has
not stalled since the last turn; then a turn of the device. A stalled word tries again after a turn, or when
nothing else can happen. DESIGN CHOICE, safe (log 2). DESIGN CHOICE, unsafe (log 3). -/
def State.plan (s : State) : Plan :=
  match s.sched.agenda with
  | t :: _ => .turn t
  | [] => match s.own with
    | some p => p
    | none => match s.firstIssuing fun k => !s.sched.tried.contains k with
      | some k => .focus k
      | none => match s.nextTurn with
        | some t => .turn t
        | none => match s.firstIssuing fun _ => true with
          | some k => .focus k
          | none => .idle

/-- A step consumes the head of the agenda. DESIGN CHOICE, safe (log 2). -/
def State.take (s : State) : State := { s with sched := { s.sched with agenda := s.sched.agenda.drop 1 } }

/-- The current beam begins its next clause, as it does inside its handler (R134). -/
def State.startOwn (s : State) : State :=
  { s with sched := { s.sched with tried := s.sched.tried ++ [s.sched.cur] } }.startNext

/-- Turn to another issuing beam. -/
def State.focusOn (s : State) (bk : Nat) : State := 
  { s with sched := { s.sched with cur := bk, stalled := false, tried := s.sched.tried.filter (· ≠ bk) } }

/-- A clause header of kind general, every engine, one word, flags 0 and 1 (R28).
DESIGN CHOICE, unsafe (log 1). -/
def oneWordHeader : W64 := 0x0F00000100000000#64

/-- The launch, gang, workgroup and threads that hold a beam placed by hand: a whole-mesh context 0
launch of one workgroup on core 0 with 64 v and 64 s registers and 64 KiB of scratchpad.
DESIGN CHOICE, unsafe (log 1). -/
def State.installBeam (s : State) : State :=
  if (look s.beams s.sched.cur).any fun b => b.st == .issuing then s
  else
    let th : Thread := { wg := 1, ident := 1 }
    let b : Beam := { uid := 1, wg := 1, live := -1, active := -1, list := (List.range 8).map some, st := .issuing, lane := some 0 }
    let g : Wg := { gang := 1, launch := 1, core := 0, nv := 64, ns := 64, spadSize := 65536, beams := [0] }
    { s with
      threads := (List.range 8).map fun t => (t, { th with ident := t }),
      beams := put s.beams 0 b, wgs := put s.wgs 1 g,
      gangs := put s.gangs 1 { launch := 1 },
      launches := put s.launches 1 { st := .running, nextG := 1 },
      sched := { s.sched with cur := 0, fresh := max s.sched.fresh 2 } }

/-- Put a word where the current beam's next word is fetched: the buffer of a clause that has started.
DESIGN CHOICE, unsafe (log 1). -/
def State.installWord (s : State) (w : W64) : State :=
  let s := { s with sched := { s.sched with agenda := [], stalled := false, tried := [] } }
  let s := s.installBeam
  s.modCb fun b => { b with mid := true, buf := [oneWordHeader, w], pos := 0, wait := .none }

end Sys2Proof.Machine
end

