-- ==== Sys2Proof/Machine/Step.lean ====
section
/-! DEFINITION. One step of the device, and where its next instruction is fetched. -/

namespace Sys2Proof.Machine

/-- One step: the clock moves, and what `State.plan` says happens. -/
def step (s : State) : Host.Outcome State Fault Refusal :=
  let t := s.tick
  match s.plan with
  | .word i => exec i t
  | .reject c => .next (t.rejectWord c)
  | .start => .next t.startOwn
  | .refetch => .next (t.refetch t.sched.cur)
  | .turn x => exec x.instr (t.take.given x)
  | .focus k => .next (t.focusOn k)
  | .idle => .next t

/-- The state whose next step runs an instruction word: the word stands in the started clause of the
beam that issues (R27, R59). Only the first 64 bits are an instruction. DESIGN CHOICE, unsafe (log 1). -/
def State.withFetchWord (s : State) (nbits w : Nat) : State :=
  s.installWord (BitVec.ofNat 64 (w % 2 ^ min nbits 64))

end Sys2Proof.Machine
end

