-- ==== Sys2Proof/Safety.lean ====
section
/-! DEFINITION. What the statements speak of: the canonical form of memory, a word that issues, operands
that can be read, and the result a row of the lanes writes. -/

namespace Sys2Proof.Machine

/-! ### Memory -/

/-- The canonical form of a machine's memory: in every byte table the addresses strictly rise, and no byte
that an unlisted address already reads as is listed. The tables of what HBM holds under dirty bytes, of what
walkers still see and of what Aperture reads have left keep every byte they were given. -/
def Memory.wf (m : Mem) : Bool :=
  wfB m.bytes && wfB m.scratch && wfB m.stack && sorted m.unflushed && sorted m.unseen && sorted m.expanded

/-! ### A run that goes on -/

/-- A step answers a next state. -/
def State.goesOn (s : State) : Prop := ∃ t, step s = .next t

/-! ### A word that issues -/

/-- The current beam stands at a word that issues. -/
def State.issuing (s : State) : Bool :=
  match look s.beams s.sched.cur with
  | some b => b.st == .issuing
  | none => false

/-- n registers from a field on lie in the budget of their class (R130): k registers end at k63. -/
def State.within (s : State) (f : RF) (v : Bool) (n : Nat) : Bool :=
  match f with
  | .k i => i.toNat + n ≤ 64
  | .t i => i.toNat + n ≤ (if v then s.cwg.nv else s.cwg.ns)

/-- The sources of a word can be read in the threads of a mask: they lie in the budget (R130), no CBLD is
filling a bank they read through (R211), under TRAP every tag matches (R115), and every index names a valid
entry (R210). -/
def State.readable (s : State) (m : BitVec 8) (xs : List Src) : Bool :=
  (xs.all fun x => s.within x.f x.v 1)
    && !((xs.flatMap (s.srcBanks m)).any fun b => s.cbBusy s.cc b)
    && (!s.cb.tagMode || (List.range 8).all fun t => !m.getLsbD t || xs.all fun x => s.srcOk x t)
    && (List.range 8).all fun t => !m.getLsbD t
      || ((xs.flatMap fun x => s.srcIdx x t).all fun p => (s.cbEntry s.cc s.cwg.launch p.1 p.2).isSome)

/-- The generator can draw once more (R202). -/
def State.mayDraw (s : State) : Bool := s.cb.genCtr ≠ 2 ^ 61 - 1

/-! ### Words of the lanes: what they read and what they write -/

/-- A word that writes one register of every taking-part thread, or a k register once: its destination, its
sources, what else must hold for it to complete, whether it draws from the generator, and each thread's
result. -/
structure LaneWord where
  h : Hd
  d : RF
  v : Bool
  srcs : List Src := []
  also : Bool := true
  draw : Bool := false
  out : Nat → Out

/-- The operands of a word of the lanes can be read and its result can be written. -/
def State.canRun (s : State) (x : LaneWord) : Bool :=
  s.issuing && s.within x.d x.v 1 && s.readable (s.part x.h) x.srcs && x.also && (!x.draw || s.mayDraw)

/-- The state after a word of the lanes: results and flags written, the generator advanced if it drew, and
the beam at the next word (R39, R58, R97, R101). -/
def State.laneNext (s : State) (x : LaneWord) : State := ((s.putOut x.h x.d x.v x.out).drew x.draw).flow .next

/-- The result of an elementwise word in a thread: each element from the elements of the sources. -/
def State.eachElem (s : State) (v : Bool) (srcs : List Src) (w : Nat) (tag : BitVec 4) (fn : Nat → List Nat → WithFx Nat)
    (t : Nat) : Out :=
  let es := srcs.map fun x => s.srcElems x t
  let rs := (List.range ((if v then 256 else 32) / w)).map fun i => fn i (es.map fun e => e.1.getD i 0)
  { val := ofElems w (rs.map (·.1)), fl := orAll (rs.map (·.2)) ||| orAll (es.map (·.2)), tag := tag }

/-! ### Integer rows (R169, R170, R179) -/

/-- R170: the exact result r of a row, held to the bounds of ty with SAT under .sat, and modulo 2^w. -/
def ruleR170 (ty : Ty) (sat : Bool) (r : Int) : WithFx Nat :=
  let m : Int := 2 ^ ty.width
  if sat && decide (maxOf ty < r) then ((maxOf ty % m).toNat, Fx.sat)
  else if sat && decide (r < minOf ty) then ((minOf ty % m).toNat, Fx.sat)
  else ((r % m).toNat, 0)

/-- A row whose exact result is an integer function of the elements read as values of ty. -/
def State.arithWord (s : State) (h : Hd) (z : ZF) (n : Nat) (sat : Bool) (f : Int → Int → Int → Int) : LaneWord :=
  let xs := [srcA z (.ty z.ty), srcB z (.ty z.ty), srcC z (.ty z.ty)].take n
  { h := h, d := z.d, v := z.V, srcs := xs,
    out := s.eachElem z.V xs z.ty.width (Sys2Proof.Ty.tag z.ty) fun _ l =>
      ruleR170 z.ty sat (f (intOf z.ty (e0 l)) (intOf z.ty (e1 l)) (intOf z.ty (e2 l))) }

/-- A row on bits: its element is a number below 2^w made of the elements as natural numbers. -/
def State.bitWord (s : State) (h : Hd) (z : ZF) (n : Nat) (want : Want) (f : Nat → Nat → Nat → Nat) : LaneWord :=
  let xs := [srcA z want, srcB z want].take n
  let w := z.ty.width
  { h := h, d := z.d, v := z.V, srcs := xs,
    out := s.eachElem z.V xs w (Sys2Proof.Ty.tag z.ty) fun _ l => (f w (e0 l) (e1 l) % 2 ^ w, 0) }

/-- The same with an immediate b on 32-bit elements (R179). -/
def State.immWord (s : State) (h : Hd) (z : IF) (want : Want) (tag : BitVec 4) (f : Nat → Nat → WithFx Nat) : LaneWord :=
  let xs : List Src := [{ f := z.a, v := z.V, want := want, ftz := true }]
  { h := h, d := z.d, v := z.V, srcs := xs, out := s.eachElem z.V xs 32 tag fun _ l => f (e0 l) z.imm.toNat }

/-- The arithmetic rows of R169 and their immediate forms of R179, each with the exact result of its row. -/
def State.arithRow (s : State) : Instr → Option LaneWord
  | .iadd h z => some (s.arithWord h z 2 z.x4 fun a b _ => a + b)
  | .isub h z => some (s.arithWord h z 2 z.x4 fun a b _ => a - b)
  | .imul h z => some (s.arithWord h z 2 z.x4 fun a b _ => a * b)
  | .imulh h z => some (s.arithWord h z 2 false fun a b _ => a * b / 2 ^ z.ty.width)
  | .imad h z => some (s.arithWord h z 3 z.x4 fun a b c => a * b + c)
  | .imin h z => some (s.arithWord h z 2 false fun a b _ => min a b)
  | .imax h z => some (s.arithWord h z 2 false fun a b _ => max a b)
  | .iabs h z => some (s.arithWord h z 1 z.x4 fun a _ _ => if a < 0 then -a else a)
  | .ineg h z => some (s.arithWord h z 1 z.x4 fun a _ _ => -a)
  | .iaddI h z =>
    let ty := if z.imx.getLsbD 1 then .n32 else .s32
    some (s.immWord h z (.ty ty) 9 fun a b => ruleR170 ty (z.imx.getLsbD 2) (intOf ty a + intOf ty b))
  | .imulI h z =>
    let ty := if z.imx.getLsbD 1 then .n32 else .s32
    some (s.immWord h z (.ty ty) 9 fun a b => ruleR170 ty (z.imx.getLsbD 2) (intOf ty a * intOf ty b))
  | _ => none

/-- SRA (R173): a / 2^n rounded toward −∞, or under .rn to the nearest integer with ties to even. -/
def ruleR173 (rn : Bool) (a : Int) (n : Nat) : Int :=
  let p : Int := 2 ^ n
  if rn && (decide (p < 2 * (a % p)) || (decide (2 * (a % p) = p) && a / p % 2 == 1)) then a / p + 1 else a / p

/-- The condition codes of R68 on two elements of w bits. -/
def ruleR68 (c w a b : Nat) : Bool :=
  let x : BitVec w := BitVec.ofNat w a
  let y : BitVec w := BitVec.ofNat w b
  match c with
  | 0 => x == y
  | 1 => x != y
  | 2 => x.slt y
  | 3 => x.sle y
  | 4 => y.slt x
  | 5 => y.sle x
  | 6 => x.ult y
  | 7 => x.ule y
  | 8 => y.ult x
  | _ => y.ule x

/-- The logic, shift and bit rows of R169, ISET (R176), IADDC (R170) and their immediate forms (R179). -/
def State.bitRow (s : State) : Instr → Option LaneWord
  | .and h z => some (s.bitWord h z 2 (.bits z.ty.width) fun _ a b => a &&& b)
  | .or h z => some (s.bitWord h z 2 (.bits z.ty.width) fun _ a b => a ||| b)
  | .xor h z => some (s.bitWord h z 2 (.bits z.ty.width) fun _ a b => a ^^^ b)
  | .not h z => some (s.bitWord h z 1 (.bits z.ty.width) fun w a _ => (~~~(BitVec.ofNat w a)).toNat)
  | .shl h z => some (s.bitWord h z 2 (.bits z.ty.width) fun w a b => a <<< (b % w))
  | .shr h z => some (s.bitWord h z 2 (.ty z.ty) fun w a b => a >>> (b % w))
  | .rot h z => some (s.bitWord h z 2 (.bits z.ty.width) fun w a b => ((BitVec.ofNat w a).rotateLeft (b % w)).toNat)
  | .clz h z => some (s.bitWord h z 1 (.bits z.ty.width) fun w a _ => ((List.range w).filter fun i => a % 2 ^ w < 2 ^ i).length)
  | .popc h z => some (s.bitWord h z 1 (.bits z.ty.width) fun w a _ => ((List.range w).filter fun i => a.testBit i).length)
  | .brev h z => some (s.bitWord h z 1 (.bits z.ty.width) fun w a _ => maskOf w fun j => a.testBit (w - 1 - j))
  | .sra h z =>
    let w := z.ty.width
    let xs := [srcA z (.ty z.ty), srcB z (.ty z.ty)]
    some { h := h, d := z.d, v := z.V, srcs := xs, out := s.eachElem z.V xs w (Sys2Proof.Ty.tag z.ty) fun _ l =>
      ((ruleR173 (z.opx.getLsbD 0) (sext w (e0 l)) (e1 l % w) % 2 ^ w).toNat, 0) }
  | .iset h z =>
    let w := z.ty.width
    let xs := [srcA z (.ty z.ty), srcB z (.ty z.ty)]
    some { h := h, d := z.d, v := z.V, srcs := xs, out := s.eachElem z.V xs w (Sys2Proof.Ty.tag z.ty) fun _ l =>
      (if ruleR68 z.x30 w (e0 l) (e1 l) then 2 ^ w - 1 else 0, 0) }
  | .iaddc h z =>
    let xs := [srcA z (.ty z.ty), srcB z (.ty z.ty), srcC z (.ty z.ty)]
    some { h := h, d := z.d, v := z.V, srcs := xs, out := s.eachElem z.V xs z.ty.width (Sys2Proof.Ty.tag z.ty) fun _ l =>
      let r := e0 l + e1 l + e2 l % 2
      (if z.opx.getLsbD 0 then r / 2 ^ 32 else r % 2 ^ 32, 0) }
  | .andI h z => some (s.immWord h z (.bits 32) 15 fun a b => ((a &&& b) % 2 ^ 32, 0))
  | .orI h z => some (s.immWord h z (.bits 32) 15 fun a b => ((a ||| b) % 2 ^ 32, 0))
  | .xorI h z => some (s.immWord h z (.bits 32) 15 fun a b => ((a ^^^ b) % 2 ^ 32, 0))
  | .shlI h z => some (s.immWord h z (.bits 32) 9 fun a b => (a <<< (b % 32) % 2 ^ 32, 0))
  | .shrI h z => some (s.immWord h z (.ty .s32) 9 fun a b => (a >>> (b % 32) % 2 ^ 32, 0))
  | .sraI h z => some (s.immWord h z (.ty .s32) 9 fun a b =>
      ((ruleR173 (z.imx.getLsbD 0) (sext 32 a) (b % 32) % 2 ^ 32).toNat, 0))
  | .isetI h z =>
    let xs : List Src := [{ f := z.a, v := false, want := .ty .s32, ftz := true }]
    some { h := h, d := z.d, v := false, srcs := xs, out := s.eachElem false xs 32 9 fun _ l =>
      (if ruleR68 z.imx.toNat 32 (e0 l) z.imm.toNat then 2 ^ 32 - 1 else 0, 0) }
  | _ => none

/-! ### Moves, division, bit fields, dot product and narrowing (R172, R174, R175, R177, R178) -/

/-- R174: what a move takes from a source in thread t: bits and tag of a thread register; a k register fills
every element of 32 bits and has tag 15. -/
def State.moved (s : State) (f : RF) (v : Bool) (t : Nat) : Out :=
  match f with
  | .k n => { val := if v then ofElems 32 (List.replicate 8 (s.cb.getK n.toNat).toNat) else (s.cb.getK n.toNat).toNat, tag := 15 }
  | .t n =>
    if v then { val := ((s.th t).getV n.toNat).toNat, tag := (s.th t).getVt n.toNat }
    else { val := ((s.th t).getS n.toNat).toNat, tag := (s.th t).getSt n.toNat }

/-- R172: quotient and remainder, with the cases of a zero divisor. -/
def ruleR172 (rem : Bool) (ty : Ty) (a b : Int) : Int :=
  if rem then (if b = 0 then a else a.tmod b)
  else if b = 0 then (if Ty.isSigned ty then -1 else maxOf ty) else a.tdiv b

/-- The cases of R172 that IDIVTRAP traps arise in an element of thread t. -/
def State.divides (s : State) (z : ZF) (t : Nat) : Bool :=
  ((s.srcElems (srcA z (.ty z.ty)) t).1.zip (s.srcElems (srcB z (.ty z.ty)) t).1).all fun p =>
    intOf z.ty p.2 ≠ 0 && !(Ty.isSigned z.ty && intOf z.ty p.1 == minOf z.ty && intOf z.ty p.2 == -1)

def State.divWord (s : State) (h : Hd) (z : ZF) (rem : Bool) : LaneWord :=
  let xs := [srcA z (.ty z.ty), srcB z (.ty z.ty)]
  { h := h, d := z.d, v := z.V, srcs := xs,
    also := !s.cb.idivTrap || (List.range 8).all fun t => !(s.part h).getLsbD t || s.divides z t,
    out := s.eachElem z.V xs z.ty.width (Sys2Proof.Ty.tag z.ty) fun _ l =>
      ((ruleR172 rem z.ty (intOf z.ty (e0 l)) (intOf z.ty (e1 l)) % 2 ^ z.ty.width).toNat, 0) }

/-- R175: pos and L of a field element; BFX and BFI. -/
def ruleR175 (ins signed : Bool) (a b c : Nat) : Nat :=
  let pos := b % 32
  let len := min (b / 2 ^ 8 % 64) (32 - pos)
  if ins then c - c / 2 ^ pos % 2 ^ len * 2 ^ pos + a % 2 ^ len * 2 ^ pos
  else if len = 0 then 0
  else if signed then (sext len (a / 2 ^ pos) % 2 ^ 32).toNat else a / 2 ^ pos % 2 ^ len

def State.fieldWord (s : State) (h : Hd) (z : ZF) (ins : Bool) : LaneWord :=
  let want : Want := if z.ty = .b32 then .bits 32 else .ty z.ty
  let xs := if ins then [srcA z want, srcB z (.bits 32), srcC z want] else [srcA z want, srcB z (.bits 32)]
  { h := h, d := z.d, v := z.V, srcs := xs,
    also := (List.range 8).all fun t => !(s.part h).getLsbD t || (s.srcElems (srcB z (.bits 32)) t).1.all fun b => b / 2 ^ 8 % 64 ≤ 32,
    out := s.eachElem z.V xs z.ty.width (Sys2Proof.Ty.tag z.ty) fun _ l => (ruleR175 ins (z.ty = .s32) (e0 l) (e1 l) (e2 l), 0) }

/-- IDP2 (R177): the sum of c and the two products of signed halves, saturated once. -/
def State.idp2Word (s : State) (h : Hd) (z : ZF) : LaneWord :=
  let xs := [srcA z (.ty .s16), srcB z (.ty .s16), srcC z (.ty .s32)]
  { h := h, d := z.d, v := z.V, srcs := xs,
    out := fun t =>
      let e := fun (x : Src) i => (s.srcElems x t).1.getD i 0
      let half := fun x i => sext 16 (e x i)
      let a := srcA z (.ty .s16)
      let b := srcB z (.ty .s16)
      let rs := (List.range (if z.V then 8 else 1)).map fun i => ruleR170 .s32 true
        (sext 32 (e (srcC z (.ty .s32)) i) + half a (2 * i) * half b (2 * i) + half a (2 * i + 1) * half b (2 * i + 1))
      { val := ofElems 32 (rs.map (·.1)), fl := orAll (rs.map (·.2)) ||| orAll (xs.map fun x => (s.srcElems x t).2), tag := 9 } }

/-- INARROW (R178): the elements of a and then of b, each held to the range of ty. -/
def State.narrowWord (s : State) (h : Hd) (z : ZF) : LaneWord :=
  let wide : Ty := if z.ty.width = 16 then (if z.opx.getLsbD 0 then .n32 else .s32) else (if z.opx.getLsbD 0 then .n16 else .s16)
  let xs := [srcA z (.ty wide), srcB z (.ty wide)]
  { h := h, d := z.d, v := z.V, srcs := xs,
    out := fun t =>
      let rs := (xs.flatMap fun x => (s.srcElems x t).1).map fun e => ruleR170 z.ty true (intOf wide e)
      { val := ofElems z.ty.width (rs.map (·.1)), fl := orAll (rs.map (·.2)) ||| orAll (xs.map fun x => (s.srcElems x t).2),
        tag := Sys2Proof.Ty.tag z.ty } }

/-- The rows of chapter 7 with rules of their own. -/
def State.specialRow (s : State) : Instr → Option LaneWord
  | .mov h z => some { h := h, d := z.d, v := z.V, also := s.within z.a z.V 1, out := s.moved z.a z.V }
  | .movi h z => some { h := h, d := z.d, v := z.V, out := fun _ => { val := ofElems 32 (List.replicate (if z.V then 8 else 1) z.imm.toNat), tag := 15 } }
  | .sel h z =>
    let from_ := fun t => if s.predOf z.c t then z.a else z.b
    some { h := h, d := z.d, v := z.V, also := s.within z.a z.V 1 && s.within z.b z.V 1, out := fun t => s.moved (from_ t) z.V t }
  | .idiv h z => some (s.divWord h z false)
  | .irem h z => some (s.divWord h z true)
  | .bfx h z => some (s.fieldWord h z false)
  | .bfi h z => some (s.fieldWord h z true)
  | .idp2 h z => some (s.idp2Word h z)
  | .inarrow h z => some (s.narrowWord h z)
  | _ => none

/-! ### Floating-point rows (R183 to R192) -/

/-- A row of one rounding: the exact value of the decoded elements is rounded by rm, with the random field
of the generator or, in the extended form, of the register c (R97, R183, R189). -/
def State.floatWord (s : State) (h : Hd) (z : ZF) (n : Nat) (approx : Bool) (f : XV → XV → XV → WithFx XV) : LaneWord :=
  let xs := [srcA z (.ty z.ty), srcB z (.ty z.ty), srcC z (.ty z.ty)].take n
  let fm := (fmtOf z.ty).getD .f32
  let rm := if approx then .rz else z.rm
  let w := z.ty.width
  let cnt := (if z.V then 256 else 32) / w
  { h := h, d := z.d, v := z.V, srcs := xs, draw := rm = .sr && !z.x4, also := !z.x4 || s.within z.c z.V 1,
    out := fun t => s.eachElem z.V xs w (Sys2Proof.Ty.tag z.ty) (fun i l =>
      let rnd := if z.x4 then (s.regOf { f := z.c, v := z.V, want := .bits 32 } t).1 else if rm = .sr then s.block t else 0
      let x := f (decodeF fm s.ftz (e0 l)) (decodeF fm s.ftz (e1 l)) (decodeF fm s.ftz (e2 l))
      let r := roundX fm rm approx s.ftz (srWidth cnt) (elem rnd (srWidth cnt) i) x.1
      (r.1, x.2 ||| r.2)) t }

/-- A row that rounds nothing: it picks a value, or makes one bit pattern of others. -/
def State.pickWord (s : State) (h : Hd) (z : ZF) (n : Nat) (tag : BitVec 4) (f : List Nat → WithFx Nat) : LaneWord :=
  let xs := [srcA z (.ty z.ty), srcB z (.ty z.ty), srcC z (.ty z.ty)].take n
  { h := h, d := z.d, v := z.V, srcs := xs, out := s.eachElem z.V xs z.ty.width tag fun _ => f }

/-- A row on the sign bits of its sources, which it takes as bits: FTZ does not act, and a NaN stays as it is
(R99, R188). -/
def State.signWord (s : State) (h : Hd) (z : ZF) (n : Nat) (f : List Nat → Nat) : LaneWord :=
  let xs := (([srcA z (.ty z.ty), srcB z (.ty z.ty)].take n).map fun x => { x with ftz := false, raw := true })
  { h := h, d := z.d, v := z.V, srcs := xs, out := s.eachElem z.V xs z.ty.width (Sys2Proof.Ty.tag z.ty) fun _ l => (f l, 0) }

/-- The immediate forms of R190. -/
def State.floatImm (s : State) (h : Hd) (z : IF) (f : Rm → XV → XV → XV) : LaneWord :=
  let xs : List Src := [{ f := z.a, v := z.V, want := .ty .f32, ftz := true }]
  let rm := (Rm.ofBits (z.imx.extractLsb' 0 3)).getD .rn
  let cnt := (if z.V then 256 else 32) / 32
  { h := h, d := z.d, v := z.V, srcs := xs, draw := rm = .sr,
    out := fun t => s.eachElem z.V xs 32 8 (fun i l =>
      roundF .f32 rm s.ftz (srWidth cnt) (elem (if rm = .sr then s.block t else 0) (srWidth cnt) i)
        (f rm (decodeF .f32 s.ftz (e0 l)) (decodeF .f32 s.ftz z.imm.toNat))) t }

/-- The floating-point rows and the value each rounds, picks or builds. -/
def State.floatRow (s : State) : Instr → Option LaneWord
  | .fadd h z => some (s.floatWord h z 2 false fun a b _ => (a.add (z.rm == .rd) b, 0))
  | .fsub h z => some (s.floatWord h z 2 false fun a b _ => (a.add (z.rm == .rd) b.neg, 0))
  | .fmul h z => some (s.floatWord h z 2 false fun a b _ => (a.mul b, 0))
  | .ffma h z => some (s.floatWord h z 3 false fun a b c => ((a.mul b).add (z.rm == .rd) c, 0))
  | .ffms h z => some (s.floatWord h z 3 false fun a b c => ((a.mul b).add (z.rm == .rd) c.neg, 0))
  | .ffnm h z => some (s.floatWord h z 3 false fun a b c => ((a.mul b).neg.add (z.rm == .rd) c, 0))
  | .fdiv h z => some (s.floatWord h z 2 false fun a b _ => a.div b)
  | .fsqrt h z => some (s.floatWord h z 1 false fun a _ _ => funX .sqrt a)
  | .frcp h z => some (s.floatWord h z 1 (z.opx.getLsbD 0) fun a _ _ => funX .rcp a)
  | .frsq h z => some (s.floatWord h z 1 (z.opx.getLsbD 0) fun a _ _ => funX .rsq a)
  | .fexp2 h z => some (s.floatWord h z 1 (z.opx.getLsbD 0) fun a _ _ => funX .exp2 a)
  | .flog2 h z => some (s.floatWord h z 1 (z.opx.getLsbD 0) fun a _ _ => funX .log2 a)
  | .fsin h z => some (s.floatWord h z 1 (z.opx.getLsbD 0) fun a _ _ => funX .sin a)
  | .fcos h z => some (s.floatWord h z 1 (z.opx.getLsbD 0) fun a _ _ => funX .cos a)
  | .faddI h z => some (s.floatImm h z fun rm a b => a.add (rm == .rd) b)
  | .fmulI h z => some (s.floatImm h z fun _ a b => a.mul b)
  | .fmin h z =>
    let f := (fmtOf z.ty).getD .f32
    some (s.pickWord h z 2 (Sys2Proof.Ty.tag z.ty) fun l =>
      let a := decodeF f s.ftz (e0 l)
      let b := decodeF f s.ftz (e1 l)
      (encodeF f (minmax false a b), minmaxFx a b))
  | .fmax h z =>
    let f := (fmtOf z.ty).getD .f32
    some (s.pickWord h z 2 (Sys2Proof.Ty.tag z.ty) fun l =>
      let a := decodeF f s.ftz (e0 l)
      let b := decodeF f s.ftz (e1 l)
      (encodeF f (minmax true a b), minmaxFx a b))
  | .fclamp h z =>
    let f := (fmtOf z.ty).getD .f32
    some (s.pickWord h z 3 (Sys2Proof.Ty.tag z.ty) fun l =>
      let r := xClamp (decodeF f s.ftz (e0 l)) (decodeF f s.ftz (e1 l)) (decodeF f s.ftz (e2 l))
      (encodeF f r.1, r.2))
  | .fcmp h z =>
    let f := (fmtOf z.ty).getD .f32
    some (s.pickWord h z 2 (if z.ty.width = 32 then 9 else 13) fun l =>
      let r := condF z.x30 (decodeF f s.ftz (e0 l)) (decodeF f s.ftz (e1 l))
      (if r.1 then 2 ^ z.ty.width - 1 else 0, r.2))
  | .fabs h z => some (s.signWord h z 1 fun l => e0 l % 2 ^ (z.ty.width - 1))
  | .fneg h z => some (s.signWord h z 1 fun l => e0 l ^^^ 2 ^ (z.ty.width - 1))
  | .fsign h z => some (s.signWord h z 2 fun l =>
      let w := z.ty.width
      let sb := e1 l / 2 ^ (w - 1) % 2 * 2 ^ (w - 1)
      if z.opx.getLsbD 0 then e0 l ^^^ sb else e0 l % 2 ^ (w - 1) + sb)
  | .rngdraw h z =>
    let n := if z.V then 8 else 1
    let uni := fun w => (rn32 (.num false (w / 2 ^ 8) 1 (-24))).1
    let out := fun t =>
      if z.opx.getLsbD 0 then ({ val := ofElems 32 ((elems (s.block t) 32 n).map uni), tag := 8 } : Out)
      else { val := s.block t % 2 ^ (32 * n), tag := 15 }
    some { h := h, d := z.d, v := z.V, draw := true, out := out }
  | _ => none

/-! ### Packet words (R193 to R198) -/

/-- A word whose result in a thread is one number made of its sources' elements, with flags of its own. -/
def State.wholeWord (s : State) (h : Hd) (d : RF) (v : Bool) (xs : List Src) (tag : BitVec 4) (also : Bool)
    (f : Nat → List (List Nat) → WithFx Nat) : LaneWord :=
  { h := h, d := d, v := v, srcs := xs, also := also,
    out := fun t =>
      let es := xs.map fun x => s.srcElems x t
      let r := f t (es.map (·.1))
      { val := r.1, fl := r.2 ||| orAll (es.map (·.2)), tag := tag } }

/-- The first, second and third list of elements. -/
def l0 (l : List (List Nat)) : List Nat := l.getD 0 []
def l1 (l : List (List Nat)) : List Nat := l.getD 1 []

/-- R102: one addition of FP32 numbers, with the flags of both sides. -/
def treePlus (ftz : Bool) (x y : WithFx Nat) : WithFx Nat :=
  let r := roundF .f32 .rn ftz 16 0 ((decodeF .f32 false x.1).add false (decodeF .f32 false y.1))
  (r.1, r.2 ||| x.2 ||| y.2)

/-- R102: eight terms summed in pairs, then pairs of pairs; FTZ acts on the last addition (R193). -/
def treeSum (ftz : Bool) (e : Nat → WithFx Nat) : WithFx Nat :=
  let p := fun i => treePlus false (e i) (e (i + 1))
  treePlus ftz (treePlus false (p 0) (p 2)) (treePlus false (p 4) (p 6))

/-- The source thread of VSHFL (R196). -/
def ruleR196 (mode t j : Nat) : Nat :=
  match mode with
  | 0 => j
  | 1 => t ^^^ j
  | 2 => if t < j then t else t - j
  | _ => if 7 < t + j then t else t + j

/-- What VSHFL and VSLIDE read at a position (R195). -/
def State.atThread (s : State) (f : RF) (v : Bool) (t : Nat) : Nat × BitVec 4 :=
  if s.cb.live.getLsbD t then s.regOf { f := f, v := v, want := .bits 32 } t else (0, 15)

/-- Element e of VSLIDE's result in thread t (R197). -/
def State.ruleR197 (s : State) (z : ZF) (t e : Nat) : Nat :=
  let w := z.ty.width
  let n := 256 / w
  let row := fun (q : Nat) => elem (s.atThread z.a true (q / n)).1 w (q % n)
  let j := n * t + e
  let amt := z.opx.toNat % 8
  let up := z.opx.getLsbD 3
  let inside := if up then amt ≤ j else j + amt < 8 * n
  if inside then row (if up then j - amt else j + amt)
  else match z.opx.toNat / 16 with
    | 0 => 0
    | 1 => row (if up then 0 else 8 * n - 1)
    | _ => match z.b with
      | .k i => (s.cb.getK i.toNat).toNat % 2 ^ w
      | .t _ => 0

/-- The packet words. -/
def State.packetRow (s : State) : Instr → Option LaneWord
  | .vdot h z =>
    let xs := [{ srcA z (.ty .f32) with v := true }, { srcB z (.ty .f32) with v := true }]
    some (s.wholeWord h z.d false xs 8 true fun _ l =>
      treeSum s.ftz fun i => rn32 ((decodeF .f32 s.ftz ((l0 l).getD i 0)).mul (decodeF .f32 s.ftz ((l1 l).getD i 0))))
  | .vhsum h z =>
    let xs := [{ srcA z (.ty .f32) with v := true }]
    some (s.wholeWord h z.d false xs 8 true fun _ l => treeSum s.ftz fun i => rn32 (decodeF .f32 s.ftz ((l0 l).getD i 0)))
  | .vbcast h z =>
    let w := z.ty.width
    some (s.wholeWord h z.d true [moveSrc (srcA z (moveWant z))] (Sys2Proof.Ty.tag z.ty) true fun _ l =>
      (ofElems w (List.replicate (256 / w) (e0 (l0 l))), 0))
  | .vext h z =>
    let xs := [{ moveSrc (srcA z (moveWant z)) with v := true }]
    some { s.wholeWord h z.d false xs (Sys2Proof.Ty.tag z.ty) true fun t l => ((l0 l).getD (s.moveIdx z t) 0, 0) with srcs := xs ++ idxSrc z }
  | .vins h z =>
    let w := z.ty.width
    let xs := [moveSrc (srcA z (moveWant z))]
    some { s.wholeWord h z.d true xs (Sys2Proof.Ty.tag z.ty) true fun t l =>
      (ofElems w ((elems (s.regOf { f := z.d, v := true, want := .bits w } t).1 w (256 / w)).set (s.moveIdx z t) (e0 (l0 l))), 0) with
      srcs := xs ++ idxSrc z }
  | .vperm h z =>
    let w := z.ty.width
    let n := 256 / w
    let want := fun c => if z.cbs = c then .ty z.ty else .bits w
    let xs := [{ moveSrc (srcA z (want 1)) with v := true }, { moveSrc (srcB z (want 2)) with v := true }]
    some (s.wholeWord h z.d true xs (Sys2Proof.Ty.tag z.ty) true fun _ l =>
      (ofElems w ((List.range n).map fun j => (l0 l).getD ((l1 l).getD j 0 % n) 0), 0))
  | .vslide h z =>
    let w := z.ty.width
    some (s.wholeWord h z.d true [] (Sys2Proof.Ty.tag z.ty) (s.within z.a true 1) fun t _ =>
      (ofElems w ((List.range (256 / w)).map (s.ruleR197 z t)), 0))
  | .vshfl h z =>
    let v := z.ty == .b256
    let src := fun t => ruleR196 (z.opx.toNat % 4) t ((s.regOf { f := z.b, v := false, want := .bits 32 } t).1 % 8)
    let out := fun t => ({ val := (s.atThread z.a v (src t)).1, tag := (s.atThread z.a v (src t)).2 } : Out)
    some { h := h, d := z.d, v := v, also := s.within z.a v 1 && s.within z.b false 1, out := out }
  | .vhero h z =>
    some (s.wholeWord h z.d true [srcA z (.ty .f32)] 8 true fun _ l =>
      let rs := (List.range 8).map (heroElem (decodeF .f32 s.ftz (e0 (l0 l))))
      (ofElems 32 (rs.map (·.1)), orAll (rs.map (·.2))))
  | _ => none

/-! ### Conversion and codebook words (R215 to R222) -/

/-- The bits a thread's v register holds. -/
def State.vData (s : State) (f : RF) (t : Nat) : Nat := (s.regOf { f := f, v := true, want := .bits 32 } t).1

/-- Eight new elements of width w in group g of a register. -/
def groupSet (w g old : Nat) (new : List Nat) : Nat :=
  let es := elems old w (256 / w)
  ofElems w (es.take (8 * g) ++ new ++ es.drop (8 * g + 8))

/-- A word that converts eight elements with a scale in b. -/
def scaleSrc (z : ZF) : Src := { srcB z (.ty .f32) with v := false }

/-- The conversion words whose conditions are those of their operands alone. -/
def State.convertRow (s : State) : Instr → Option LaneWord
  | .cvt h z =>
    let ns := (if z.V then 256 else 32) / z.sty.width
    let nd := (if z.V then 256 else 32) / z.ty.width
    let k := min ns nd
    let w := z.ty.width
    let a : Src := { f := z.a, v := z.V, want := .ty z.sty, ftz := true }
    let res := fun t i => roundT z.ty z.rm s.ftz (srWidth k) (elem (if z.rm = .sr then s.block t else 0) (srWidth k) i)
      (if Ty.isInt z.sty then some z.sty.width else none) (decodeX z.sty s.ftz ((s.srcElems a t).1.getD (i + if z.hiA then k else 0) 0))
    some { s.wholeWord h z.d z.V [a] (Sys2Proof.Ty.tag z.ty) true fun t _ =>
      let rs := (List.range k).map (res t)
      let old := elems (s.regOf { f := z.d, v := z.V, want := .bits w } t).1 w nd
      (ofElems w (if z.hiC then old.take k ++ rs.map (·.1) ++ old.drop (2 * k) else rs.map (·.1)), orAll (rs.map (·.2))) with draw := z.rm = .sr }
  | .cvtsEnc h z =>
    let f := s.fslot z.ty.code
    let w := f.width
    let g := z.opx.toNat % 8
    some { s.wholeWord h z.d true [srcA z (.ty .f32), scaleSrc z] (BitVec.ofNat 4 z.ty.code)
        (f.efmt ≠ 7 && f.efmt ≠ 8 && g < 256 / (8 * w)) fun t l =>
      let rs := (List.range 8).map fun i => encElem f z.rm s.ftz 16 (elem (if z.rm = .sr then s.block t else 0) 16 i)
        (decodeF .f32 s.ftz ((l0 l).getD i 0)) (decodeF .f32 s.ftz (e0 (l1 l)))
      (groupSet w g (s.vData z.d t) (rs.map (·.1)), orAll (rs.map (·.2))) with draw := z.rm = .sr }
  | .cvtsDec h z =>
    let f := s.fslot z.ty.code
    let g := z.opx.toNat % 8
    let book := f.efmt = 7 || f.efmt = 8
    let x := srcA z (.slot z.ty.code)
    let entry := fun i => ((s.cbEntry s.cc s.cwg.launch f.cbank i).getD []).headD 0
    let valid := (List.range 8).all fun t => !(s.part h).getLsbD t || (List.range 8).all fun i =>
      (s.cbEntry s.cc s.cwg.launch f.cbank ((s.srcElems x t).1.getD (8 * g + i) 0)).isSome
    some { s.wholeWord h z.d true [x, scaleSrc z] 8
        (g < 256 / (8 * f.width) && (!book || (!s.cbBusy s.cc f.cbank && valid))) fun t l =>
      let rs := (List.range 8).map fun i =>
        let e := (l0 l).getD (8 * g + i) 0
        roundF .f32 z.rm s.ftz 16 (elem (if z.rm = .sr then s.block t else 0) 16 i)
          (if f.efmt = 7 && decodeF .f32 s.ftz (e0 (l1 l)) == .zero false then .zero false
            else (if book then decodeF .f16 s.ftz (entry e) else decodeX f.ty s.ftz e).mul (decodeF .f32 s.ftz (e0 (l1 l))))
      (ofElems 32 (rs.map (·.1)), orAll (rs.map (·.2))) with draw := z.rm = .sr }
  | .pack6 h z => some (s.wholeWord h z.d true [] 15 (s.within z.a true 1 && s.within z.b true 1) fun t _ =>
      (ofElems 6 ((List.range 32).map fun i => elem (s.vData z.a t) 8 i % 64), 0))
  | .pack4 h z => some (s.wholeWord h z.d true [] 12 (s.within z.a true 1 && s.within z.b true 1) fun t _ =>
      (ofElems 4 ((List.range 64).map fun i => if i < 32 then elem (s.vData z.a t) 8 i % 16 else elem (s.vData z.b t) 8 (i - 32) % 16), 0))
  | .unpack6 h z => some (s.wholeWord h z.d true [] 15 (s.within z.a true 1 && s.within z.b true 1) fun t _ =>
      (ofElems 8 ((List.range 32).map fun i => s.vData z.a t / 2 ^ (6 * i) % 64), 0))
  | .unpack4 h z => some (s.wholeWord h z.d true [] 14 (s.within z.a true 1 && s.within z.b true 1) fun t _ =>
      (ofElems 8 ((List.range 32).map fun i => elem (s.vData z.a t) 4 (i + if z.hiA then 32 else 0)), 0))
  | .tagset h z =>
    let out := fun t => ({ val := (s.regOf { f := z.d, v := z.V, want := .bits 32 } t).1, tag := BitVec.ofNat 4 z.x30 } : Out)
    some { h := h, d := z.d, v := z.V, out := out }
  | .tagrd h z =>
    let out := fun t => ({ val := (s.regOf { f := z.a, v := z.V, want := .bits 32 } t).2.toNat, tag := 9 } : Out)
    some { h := h, d := z.d, v := false, also := s.within z.a z.V 1, out := out }
  | .cbx h z =>
    let x := srcA z (.ty z.ty)
    let n := s.cnt x
    let res := fun t => ((s.expand z.cbk.toNat (s.regOf x t).1 n x.cbHi).zip (List.range n)).map fun p =>
      roundT z.ty z.rm s.ftz (srWidth n) (elem (if z.rm = .sr then s.block t else 0) (srWidth n) p.2) none (decodeF .f16 s.ftz p.1)
    let out := fun t => ({ val := ofElems z.ty.width ((res t).map (·.1)), fl := orAll ((res t).map (·.2)), tag := Sys2Proof.Ty.tag z.ty } : Out)
    some { h := h, d := z.d, v := z.V, srcs := [x], draw := z.rm = .sr, out := out }
  | .qnt h z =>
    let n := z.cbk.toNat
    let b := s.bank s.cc n
    let g := z.opx.toNat % 8
    let w := if b.iw = 0 then 4 else 8
    some (s.wholeWord h z.d true [{ srcA z (.ty .f32) with cb := none }, { scaleSrc z with cb := none }] 12
        (!s.cbBusy s.cc n && b.ew = 0 && g < (if b.iw = 0 then 8 else 4) && (s.candidates n ≠ [] || s.part h == 0)) fun t l =>
      let rs := (List.range 8).map fun i => quantise (s.candidates n) (decodeF .f32 false ((l0 l).getD i 0)) (decodeF .f32 false (e0 (l1 l)))
      (groupSet w g (s.vData z.d t) (rs.map (·.1)), orAll (rs.map (·.2))))
  | .sclqEnc h z =>
    let x := srcA z (.ty .f32)
    some (s.wholeWord h z.d z.V [x, scaleSrc z] 9 true fun _ l =>
      let rs := (List.range (s.cnt x)).map fun i => sclqEnc (decodeF .f32 false ((l0 l).getD i 0)) (decodeF .f32 false (e0 (l1 l)))
      (ofElems 32 (rs.map (·.1)), orAll (rs.map (·.2))))
  | .sclqDec h z =>
    let x := srcA z (.ty .n32)
    some (s.wholeWord h z.d z.V [x, scaleSrc z] 8 true fun _ l =>
      let rs := (List.range (s.cnt x)).map fun i => sclqDec ((l0 l).getD i 0) (decodeF .f32 false (e0 (l1 l)))
      (ofElems 32 (rs.map (·.1)), orAll (rs.map (·.2))))
  | _ => none


/-! ### Words with a state of their own -/

/-- A word that completes, or a step of the machine that happens: what must hold, and the state after it. -/
structure Done where
  ok : Bool := true
  next : State

/-- A condition in every thread of a mask. -/
def forT (m : BitVec 8) (p : Nat → Bool) : Bool := (List.range 8).all fun t => !m.getLsbD t || p t

/-- The counter a long-latency word raises can be raised (R34, R35): flag 15 only where the word writes no
register, and no counter at 63. -/
def State.counts (s : State) (h : Hd) (writes : Bool) : Bool :=
  if s.cb.flag h.cf = 15 then !writes else s.cb.getCtr (s.cb.flag h.cf) ≠ 63
/-- That counter. -/
def State.ctrOf (s : State) (h : Hd) : Option Nat := if s.cb.flag h.cf = 15 then none else some (s.cb.flag h.cf)
/-- The same for a word that accesses memory: no DETDRAIN.ar holds it back (R296). -/
def State.flagged (s : State) (h : Hd) (writes : Bool) : Bool := s.counts h writes && !s.held
/-- Nothing holds a release at a scope back (R253, R293, R213): no untracked operation that it waits for is in flight, no
store of the beam is still on its way to its home slice, and no untracked error is kept. -/
def State.relOver (s : State) (c : Scope) : Bool :=
  !((s.opsOf s.sched.cur).any fun o => c != .beam && ((o.kind.held && o.ctr.isNone && (c == .sys || !o.cond.far)) || o.old ≠ []))
    && s.cb.untracked.isNone
/-- The release side of a word's ordering may take effect. -/
def State.orderOk (s : State) (o : Order) : Bool :=
  match o with
  | .rel c | .ar c => s.relOver c
  | _ => true
/-- A fence of this ordering may take effect (R253, R292). -/
def State.offOk (s : State) (o : Order) : Bool := s.orderOk o && (o.isNone || s.cb.untracked.isNone)
/-- No counter is up and no counter keeps a fault (R36). -/
def State.rested (s : State) : Bool := s.cb.allZero && (s.cb.raisable (-1)).isNone
/-- The value a uniform address register has is one over the active threads (R229). -/
def State.oneValue (s : State) (f : Nat → Nat) : Bool := forT s.cb.active fun t => f t == f (lowest s.cb.active)
def State.unified (s : State) (f : RF) : Bool :=
  match f with
  | .k _ => true
  | .t n => s.oneValue fun t => ((s.th t).getS n.toNat).toNat
def State.unifiedPair (s : State) (f : RF) : Bool :=
  match f with
  | .k _ => true
  | .t n => s.oneValue fun t => (s.th t).sPair n.toNat
/-- The one value of such a register. -/
def State.val32 (s : State) (f : RF) : Nat :=
  match f with
  | .k n => (s.cb.getK n.toNat).toNat
  | .t n => ((s.th (lowest s.cb.active)).getS n.toNat).toNat
def State.val64 (s : State) (f : RF) : Nat :=
  match f with
  | .k n => s.cb.kPair n.toNat
  | .t n => (s.th (lowest s.cb.active)).sPair n.toNat

/-- The word retires and the beam goes to the next word (R39). -/
def State.on (s : State) : State := s.flow .next
/-- A value written to an s register of every taking-part thread, or to a k register where the uniform word
takes effect (R41). -/
def State.putWord (s : State) (h : Hd) (d : RF) (val : Nat → W32) (tag : BitVec 4) : State :=
  if d.isK && !s.acts h then s else s.putD (s.part h) d val tag

/-! ### Predicates, generator, flags and identities -/

def psetSrc (z : ZF) (f : RF) : Src := { f := f, v := false, want := .ty z.ty }
/-- PSET in thread t (R162): the condition, combined with the predicate of c. -/
def State.psetOut (s : State) (z : ZF) (t : Nat) : WithFx Bool :=
  let x := s.srcElems (psetSrc z z.a) t
  let y := s.srcElems (psetSrc z z.b) t
  let r := psetCond z.ty z.x30 (e0 x.1) (e0 y.1)
  (match z.opx.toNat / 16 with
    | 1 => r.1 && s.predOf z.c t
    | 2 => r.1 || s.predOf z.c t
    | _ => r.1, r.2 ||| x.2 ||| y.2)
/-- The threads VOTE counts (R164). -/
def State.yes (s : State) (h : Hd) (z : ZF) : BitVec 8 := mask8 fun t => (s.part h).getLsbD t && s.voteOf z t

/-- The predicate words (R161 to R164). -/
def State.predRow (s : State) : Instr → Option Done
  | .pset h z => some {
      ok := s.readable (s.part h) [psetSrc z z.a, psetSrc z z.b],
      next := State.on (if z.d.isK && !s.acts h then s
        else (s.putPred h z.d fun t => (s.psetOut z t).1).orFx (s.part h) fun t => (s.psetOut z t).2) }
  | .pand h z => some { next := (s.putPred h z.d fun t => (s.predOf z.a t ^^ z.opx.getLsbD 0) && (s.predOf z.b t ^^ z.opx.getLsbD 1)).on }
  | .por h z => some { next := (s.putPred h z.d fun t => (s.predOf z.a t ^^ z.opx.getLsbD 0) || (s.predOf z.b t ^^ z.opx.getLsbD 1)).on }
  | .pxor h z => some { next := (s.putPred h z.d fun t => (s.predOf z.a t ^^ z.opx.getLsbD 0) ^^ (s.predOf z.b t ^^ z.opx.getLsbD 1)).on }
  | .pnot h z => some { next := (s.putPred h z.d fun t => !s.predOf z.a t).on }
  | .pmov h z =>
    match z.opx.toNat with
    | 0 => some { next := (s.putPred h z.d (s.predOf z.a)).on }
    | 1 => some {
        ok := s.within z.d false 1,
        next := (s.putWord h z.d (fun t => if z.d.isK then s.cb.kp.zeroExtend 32 else (s.th t).p.zeroExtend 32) 9).on }
    | _ => some {
        ok := s.within z.a false 1,
        next := State.on (match z.a with
          | .k n => if s.acts h then s.modCb fun b => { b with kp := (b.getK n.toNat).setWidth 4 } else s
          | .t n => eachT (s.part h) s fun q t => q.modTh t fun x => { x with p := (x.getS n.toNat).setWidth 7 }) }
  | .vote h z =>
    let y := s.yes h z
    let m := s.part h
    match z.opx.toNat / 8 with
    | 0 => some { next := (s.putPred h z.d fun _ => y ≠ 0).on }
    | 1 => some { next := (s.putPred h z.d fun _ => y == m).on }
    | 2 => some { next := (s.putPred h z.d fun _ => y == m || y == 0).on }
    | 3 => some { ok := s.within z.d false 1, next := (s.putWord h z.d (fun _ => BitVec.ofNat 32 (bitsOf y).length) 9).on }
    | _ => some { ok := s.within z.d false 1, next := (s.putWord h z.d (fun _ => y.zeroExtend 32) 9).on }
  | .elect h z =>
    if z.opx = 0 then some { next := (s.putPred h z.d fun t => z.d.isK || t == lowest (s.part h)).on }
    else some { next := State.on (if s.acts h then s.putD (s.part h) z.d (fun _ => BitVec.ofNat 32 (lowest (s.part h))) 9 else s) }
  | .actmask h z => some {
      ok := s.within z.d false 1,
      next := (s.putWord h z.d (fun _ => (if z.opx.getLsbD 0 then s.cb.live else s.cb.active).zeroExtend 32) 9).on }
  | _ => none

/-- A product of Jones or Mueller matrices of four columns (R199): the left matrix, rows × 4, has its elements in
consecutive registers from l, the right one, 4 × cols, from r; each element of a result register is the sum of
four products rounded once. -/
def State.matrixProduct (s : State) (h : Hd) (z : ZF) (rows cols : Nat) (l r : RF × Bool) (mFirst : Bool) : Done :=
  let ls := vRange l.1 l.2 (4 * rows)
  let rs := vRange r.1 r.2 (4 * cols)
  let xs := if mFirst then ls ++ rs else rs ++ ls
  let draw := z.rm = .sr
  let n := 8 * rows * cols
  let wide := draw ∧ 32 < n
  let s1 := if wide then s.draw.2 else s
  let rnd := fun t o k =>
    if 32 < n then elem (if wide then s.draw.1 else 0) 2048 (t * n + 8 * o + k)
    else elem (if draw then s.block t else 0) (srWidth n) (8 * o + k)
  let nil : Src := srcA z (.ty .f32)
  let at_ := fun (x : Src) t k => decodeF .f32 s.ftz ((s.srcElems x t).1.getD k 0)
  let cell := fun t o k =>
    roundF .f32 z.rm s.ftz (if 32 < n then 2048 else srWidth n) (rnd t o k) (polSum z.rm ((List.range 4).map fun i =>
      (at_ (ls.getD (4 * (o / cols) + i) nil) t k, at_ (rs.getD (cols * i + o % cols) nil) t k)))
  let out := fun t o => (List.range 8).map (cell t o)
  let put := fun (q : State) t => q.modTh t fun x =>
    (List.range (rows * cols)).foldl (fun x o => (x.orFx (orAll ((out t o).map (·.2)))).setV (z.d.num + o)
      (BitVec.ofNat 256 (ofElems 32 ((out t o).map (·.1)))) 8) (x.orFx (orAll (xs.map fun x => (s.srcElems x t).2)))
  { ok := s.within z.d true (rows * cols) && s.readable (s.part h) xs && (!draw || s.mayDraw),
    next := ((eachT (s.part h) s1 put).drew draw).on }

/-- The paired word and the products of polarisation matrices (R56, R57, R199). -/
def State.productRow (s : State) : Instr → Option Done
  | .polmv h z => some (s.matrixProduct h z 4 1 (z.b, z.hiB) (z.a, z.hiA) false)
  | .polmm h z => some (s.matrixProduct h z 4 4 (z.a, z.hiA) (z.b, z.hiB) true)
  | .pairedWord x y => some {
      ok := (x.cop.pset || s.within (.t x.d) x.cop.v 1) && s.readable (s.part (halfHd x)) (halfSrcs s x)
        && (y.cop.pset || s.within (.t y.d) y.cop.v 1) && s.readable (s.part (halfHd y)) (halfSrcs s y),
      next := (halfWrite s (halfWrite s s x) y).on }
  | _ => none

/-- Words on pairs, the generator, the flags, and the words that read identities and system registers. -/
def State.registerRow (s : State) : Instr → Option Done
  | .imul64 h z =>
    let a := srcA z (.ty z.ty)
    let b := srcB z (.ty z.ty)
    some {
      ok := s.within z.d false 2 && s.readable (s.part h) [a, b],
      next := (s.putPairF h z.d fun t =>
        (wrap 64 (intOf z.ty (e0 (s.srcElems a t).1) * intOf z.ty (e0 (s.srcElems b t).1)), (s.srcElems a t).2 ||| (s.srcElems b t).2)).on }
  | .iadd64 h z => some {
      ok := s.within z.d false 2 && s.within z.a false 2 && s.within z.b false 2,
      next := (s.putPairF h z.d fun t => ((s.pairOf z.a t + s.pairOf z.b t) % 2 ^ 64, 0)).on }
  | .lea h z =>
    let b := srcB z (.ty z.ty)
    some {
      ok := s.within z.d false 2 && s.within z.a false 2 && s.readable (s.part h) [b],
      next := (s.putPairF h z.d fun t =>
        (wrap 64 ((s.pairOf z.a t : Nat) + intOf z.ty (e0 (s.srcElems b t).1) * 2 ^ (z.opx.toNat % 8)), (s.srcElems b t).2)).on }
  | .leaI h z => some {
      ok := s.within z.d false 2 && s.within z.a false 2,
      next := (s.putPairF h z.d fun t => (wrap 64 ((s.pairOf z.a t : Nat) + sext 32 z.imm.toNat), 0)).on }
  | .cbsync _ _ => some { ok := (s.opsOf s.sched.cur).all fun o => o.kind ≠ .store || o.old = [], next := s.on }
  | .rngset h z => some { next := State.on (if s.acts h then
      let n := s.cb.kPair z.b.num % 2 ^ 61
      s.modCb fun b => { b.setK z.d.num (BitVec.ofNat 32 n) with genKey := BitVec.ofNat 64 (s.cb.kPair z.a.num), genCtr := n } else s) }
  | .rngskip h z =>
    let n := s.cb.genCtr + s.cb.kPair z.a.num
    some {
      ok := !s.acts h || n < 2 ^ 61,
      next := State.on (if s.acts h then s.modCb fun b => { b.setK z.d.num (BitVec.ofNat 32 n) with genCtr := n } else s) }
  | .fxrd h z => some { ok := s.within z.d false 1, next := (s.putD (s.part h) z.d (fun t => (s.th t).fx.zeroExtend 32) 9).on }
  | .fxclr h z => some { next := State.on (eachT (s.part h) s fun q t => q.modTh t fun x => { x with fx := x.fx &&& ~~~(z.opx.zeroExtend 8) }) }
  | .spinfo h f => some { ok := s.within f.d false 1, next := (s.putWord h f.d (fun _ => BitVec.ofNat 32 (s.spinfo f.off.toNat)) 9).on }
  | .rdsys h f => some {
      ok := Machine.readable f.sr.toNat && s.within f.d false 1,
      next := (s.putWord h f.d (fun _ => BitVec.ofNat 32 (s.sysRead f.sr.toNat)) 9).on }
  | .wrsys h f => some {
      ok := f.sr = 0 && s.within f.a false 1 && s.unified f.a,
      next := State.on (if s.acts h then s.modCb fun b => { b with tagMode := bit (s.val32 f.a) 0, idivTrap := bit (s.val32 f.a) 1 } else s) }
  | .clk h f => some {
      ok := s.within f.d false 2,
      next := State.on (if f.d.isK && !s.acts h then s else s.putPair (s.part h) f.d s.sched.clk) }
  | .meshid h f => some { ok := s.within f.d false 1, next := (s.putWord h f.d (fun _ => BitVec.ofNat 32 (s.meshid (f.yx.toNat % 4))) 9).on }
  | .pmark h f => some { next := State.on (if s.acts h && (s.reg 0x320).getLsbD 0 then
      s.modCore s.cc fun c => { c with pmarkLast := BitVec.ofNat 32 (imm16 f + 65536 * (s.sched.cur % 64)), pmarkCnt := c.pmarkCnt + 1 } else s) }
  | .role h f => some {
      ok := s.within f.d false 1,
      next := State.on (if (if f.d.isK then s.acts h else s.part h != 0) then s.putD (s.part h) f.d (fun _ => BitVec.ofNat 32 s.cwg.role) 9 else s) }
  | _ => none

/-! ### Control flow (R150 to R160) -/

/-- The threads agree in their guards (R152, R158). -/
def State.guardsAgree (s : State) (h : Hd) : Bool := forT s.cb.active fun t => s.guard h t == s.guard h (lowest s.cb.active)
/-- A jump, call or return is taken (R158). -/
def State.taken (s : State) (h : Hd) (q : BitVec 4) : Bool := s.guard h (lowest s.cb.active) && s.cb.kc q
/-- The path of BRM a thread takes (R153). -/
def State.pathOf (s : State) (h : Hd) (f : BF) (t : Nat) : Nat :=
  if s.guard h t then 0 else if selOf (s.th t) f.q1 then 1 else if selOf (s.th t) f.q2 then 2 else if selOf (s.th t) f.q3 then 3 else 4
def State.pathMask (s : State) (h : Hd) (f : BF) (i : Nat) : BitVec 8 := mask8 fun t => s.active t && s.pathOf h f t == i
/-- An entry on top of the reconvergence stack (R146). -/
def State.pushed (s : State) (e : REntry) : State := s.modCwg fun g => { g with stack := g.stack ++ [e] }
/-- The beam's own LOOP entry for this loop (R155). -/
def State.ownLoop (s : State) : Option (Nat × REntry) :=
  (ownTopIdx s.cwg.stack s.cb.b).bind fun i => match s.cwg.stack[i]? with
    | some e => if e.kind = .loop ∧ e.ft = s.cb.fall then some (i, e) else none
    | none => none

/-- The control-flow words. -/
def State.controlRow (s : State) : Instr → Option Done
  | .nop _ _ => some { next := s.on }
  | .br h f =>
    let t := s.part h
    let n := s.cb.active &&& ~~~t
    let tg := s.cb.target f.off
    some {
      ok := n = 0 || t = 0 || s.cwg.stack.length < 32,
      next :=
        if n = 0 then s.flow (.goto tg)
        else if t = 0 then s.flow (.goto s.cb.fall)
        else ((s.pushed { beam := s.cb.b, kind := .br, rmask := s.cb.active, m := [t, n], next := 1, jn := s.cb.target (BF.jo19 f),
                          tg := tg, ft := s.cb.fall }).modCb fun b => { b with active := t }).flow (.goto tg) }
  | .bru h f =>
    let r := lowest s.cb.active
    let a := (s.th r).sPair f.a.num
    if f.bx.getLsbD 0 then
      some {
        ok := s.within f.a false 2 && s.guardsAgree h && s.oneValue (fun t => (s.th t).sPair f.a.num) && (!s.guard h r || a % 8 == 0),
        next := s.flow (.goto (if s.guard h r then BitVec.ofNat 64 a else s.cb.fall)) }
    else some { ok := s.guardsAgree h, next := s.flow (.goto (if s.guard h r then s.cb.target f.off else s.cb.fall)) }
  | .brm h f =>
    let ms := (List.range 5).map (s.pathMask h f)
    let e : REntry := { beam := s.cb.b, kind := .brm, rmask := s.cb.active, m := ms, next := 0, jn := s.cb.target (BF.jo14 f),
                        tg := s.cb.target f.off, ft := s.cb.fall }
    let whole := (List.range 5).find? fun i => ms.getD i 0 = s.cb.active
    let i := ((List.range 5).find? fun i => ms.getD i 0 ≠ 0).getD 0
    some {
      ok := whole.isSome || s.cwg.stack.length < 32,
      next := match whole with
        | some j => s.flow (.goto (e.pathAddr j))
        | none => ((s.pushed { e with next := i + 1 }).modCb fun b => { b with active := ms.getD i 0 }).flow (.goto (e.pathAddr i)) }
  | .brw h f => some {
      ok := s.rested && s.handsOver s.sched.cur,
      next := (s.modCb fun b =>
        { b with st := .waiting, wait := .brw (s.part h) (s.cb.target f.off) (s.cb.target (BF.jo19 f)), latch := none }).brwTry s.cb.wg }
  | .jmp h f => some { ok := s.guardsAgree h, next := s.flow (.goto (if s.taken h f.q1 then s.cb.target f.off else s.cb.fall)) }
  | .call h f => some {
      ok := s.guardsAgree h,
      next := if s.taken h f.q1 then (s.modCb fun b => b.link f.a.num).flow (.goto (s.cb.target f.off)) else s.flow (.goto s.cb.fall) }
  | .jmpi h f | .ret h f => some {
      ok := s.guardsAgree h && (!s.taken h f.q1 || s.cb.kPair f.a.num % 8 == 0),
      next := s.flow (.goto (if s.taken h f.q1 then BitVec.ofNat 64 (s.cb.kPair f.a.num) else s.cb.fall)) }
  | .calli h f => some {
      ok := s.guardsAgree h && (!s.taken h f.q1 || s.cb.kPair f.a.num % 8 == 0),
      next := if s.taken h f.q1 then (s.modCb fun b => b.link (f.bx.toNat % 64)).flow (.goto (BitVec.ofNat 64 (s.cb.kPair f.a.num)))
        else s.flow (.goto s.cb.fall) }
  | .reconv _ f =>
    let jn := s.cb.target f.off
    match (currentIdx s.cwg.stack s.cb.b).bind fun i => (s.cwg.stack[i]?).map fun e => (i, e) with
    | some (i, e) =>
      if e.kind ≠ .loop ∧ e.jn = jn then
        if e.kind = .brw then
          some {
            ok := s.handsOver s.sched.cur,
            next := ((s.endClause s.sched.cur jn).modBeam s.sched.cur fun b => { b with st := .waiting, wait := .brwPath }).brwAdvance s.cb.wg }
        else match e.nextPath s.cb.live with
          | some (j, m) => some {
              next := ((s.modCwg fun g => { g with stack := g.stack.set i { e with next := j + 1 } }).modCb fun b =>
                { b with active := m }).flow (.goto (e.pathAddr j)) }
          | none => some {
              ok := (e.rmask &&& s.cb.live) ≠ 0,
              next := ((s.modCwg fun g => { g with stack := g.stack.eraseIdx i }).modCb fun b =>
                { b with active := e.rmask &&& b.live }).flow (.goto jn) }
      else some { next := s.flow (.goto jn) }
    | none => some { next := s.flow (.goto jn) }
  | .loop h f =>
    let c := s.part h
    let x := s.cb.active &&& ~~~c
    let ft := s.cb.fall
    if c = 0 then
      match s.ownLoop with
      | some (i, e) => some {
          next := ((s.modCwg fun g => { g with stack := g.stack.eraseIdx i }).modCb fun b =>
            { b with active := (e.m.getD 0 0 ||| x) &&& b.live }).flow (.goto ft) }
      | none => some { next := s.flow (.goto ft) }
    else if x = 0 then some { next := s.flow (.goto (s.cb.target f.off)) }
    else match s.ownLoop with
      | some (i, e) => some {
          next := ((s.modCwg fun g => { g with stack := g.stack.set i { e with m := [e.m.getD 0 0 ||| x] } }).modCb fun b =>
            { b with active := c }).flow (.goto (s.cb.target f.off)) }
      | none => some {
          ok := s.cwg.stack.length < 32,
          next := ((s.pushed { beam := s.cb.b, kind := .loop, rmask := s.cb.active, m := [x], next := 0, jn := ft, tg := 0, ft := ft }).modCb fun b =>
            { b with active := c }).flow (.goto (s.cb.target f.off)) }
  | .loopK _ f =>
    let v := s.cb.getK f.a.num - 1
    some { next := (s.modCb fun b => b.setK f.a.num v).flow (.goto (if v = 0 then s.cb.fall else s.cb.target f.off)) }
  | .yield h _ => some {
      next := State.flow (if s.acts h then
          let q := s.flushSpawn
          match q.cb.lane with
          | some l => q.modCore q.cc fun c => { c with lanes := put c.lanes l { (look c.lanes l).getD {} with switch := true } }
          | none => q
        else s) (.goto s.cb.fall) }
  | .waitf h f =>
    let m : BitVec 12 := f.off.extractLsb' 0 12
    some {
      ok := !s.acts h || (((List.range 12).all fun i => !m.getLsbD i || s.cb.getCtr i ≤ f.bx.toNat % 64) && (s.cb.raisable m).isNone),
      next := s.flow (.goto s.cb.fall) }
  | _ => none

/-! ### Matrix words (R223 to R241) -/

/-- Every thread of the beam is active and all have one guard value (R228). -/
def State.whole (s : State) (h : Hd) : Bool := s.cb.active == -1 && (forT (-1) (fun t => s.guard h t) || forT (-1) fun t => !s.guard h t)
/-- The word takes effect. -/
def State.wholeGo (s : State) (h : Hd) : Bool := s.guard h 0
/-- A scratchpad offset that a matrix word may use (R231). -/
def State.matOk (s : State) (f : RF) (lay n : Nat) : Bool :=
  s.within f false 1 && s.unified f && s.val32 f % (if lay = 0 then 64 else 1024) == 0 && s.val32 f + n ≤ s.cwg.spadSize
/-- The operand latch holds the A operand that MMA.reu names (R227). -/
def State.latchHit (s : State) (x : XF) : Bool := x.reu && (s.cb.latch.map (·.key)) == some (latchKey x)
/-- Nothing has changed the registers since the latch was filled, or they cannot be read: the latch answers. -/
def State.latchKept (s : State) (x : XF) : Bool :=
  (s.cb.latch.all fun l => l.rows (aK x) == (List.range 8).map ((s.modCb fun b => { b with list := l.list }).aRow x))
    || !(s.aTags x).isOk || !(s.aIdx x).isOk
/-- The rows of A. -/
def State.aRows (s : State) (x : XF) : List (List Nat) :=
  if s.latchHit x then match s.cb.latch with
    | some l => if s.latchKept x || Config.free s.sched.freeIdx % 2 = 0 then l.rows (aK x) else (List.range 8).map (s.aRow x)
    | none => []
  else (List.range 8).map (s.aRow x)

/-- The A operand can be read: tags (R227), no bank being filled, valid indices (R226). -/
def State.aReady (s : State) (x : XF) : Bool :=
  let b := s.bank s.cc x.cbk.toNat
  let idx := fun t => if aBook x then (b.indices (s.regOf { f := x.a, v := true, want := .bits 32 } t).1 32 (aHi x)).map fun i => (x.cbk.toNat, i)
    else (aSrcs x).flatMap fun q => s.srcIdx q t
  (!s.cb.tagMode || forT (-1) fun t => (aSrcs x).all fun q => s.srcOk q t)
    && !(((aSrcs x).flatMap (s.srcBanks (-1))).any fun b => s.cbBusy s.cc b)
    && forT (-1) fun t => (idx t).all fun p => (s.cbEntry s.cc s.cwg.launch p.1 p.2).isSome

/-- The error record of bytes of the allocation that cannot be read (R253). -/
def State.spadError (s : State) (lay off n : Nat) : Option FaultRec :=
  if s.spadLost lay off n then some { code := Code.memoryDataError, addr := off, mask := -1 } else none

def State.mmaDone (s : State) (tr : Bool) (h : Hd) (x : XF) : Done :=
  let err := s.spadError x.lay.toNat (s.val32 x.b) 4096
  {
    ok := s.hiFits x && s.whole h && s.within x.a true (if aBook x then 1 else 2) && s.within x.b false 1
      && (!s.wholeGo h || (s.flagged h false && (s.latchHit x || s.aReady x) && s.matOk x.b x.lay.toNat 4096)),
    next := State.on (if s.wholeGo h then
      let s1 := if s.latchHit x && !s.latchKept x then s.draw.2 else s
      let s2 := if err.isSome then s1 else s1.modCore s.cc fun k => k.mma x (s.aRows x) (s.bCols x tr (s.val32 x.b))
      (if s.latchHit x then s2 else s2.modCb fun b =>
        { b with latch := if x.reu then some { key := latchKey x, list := s.cb.list, data := (s.aRows x).flatten } else none }).later (s.ctrOf h) .other [] err
      else s) }

/-- The matrix products (R226 to R232). -/
def State.multiplyRow (s : State) : Instr → Option Done
  | .mma h x => some (s.mmaDone false h x)
  | .mmat h x => some (s.mmaDone true h x)
  | _ => none

/-- The words that move, clear and read tiles (R233, R234, R237). -/
def State.tileRow (s : State) : Instr → Option Done
  | .mzero h x => some {
      next := State.on (if s.acts h then s.modCore s.cc fun c =>
        { c with acc := c.acc.filter fun w => w.1 / 512 < x.tileN || x.tileN + x.mx.toNat < w.1 / 512,
                 tiles := c.tiles.filter fun w => w.1 < x.tileN || x.tileN + x.mx.toNat < w.1 } else s) }
  | .mload h x =>
    let row := fun i => (List.range 64).map fun j => s.spadNat x.lay.toNat (s.val32 x.b + 256 * i + 4 * j) 4
    let err := s.spadError x.lay.toNat (s.val32 x.b) 2048
    some {
      ok := s.flagged h false && s.within x.b false 1 && (!s.acts h || s.matOk x.b x.lay.toNat 2048),
      next := State.on (if s.acts h && err.isSome then s.later (s.ctrOf h) .other [] err
        else if s.acts h then
        (s.modCore s.cc fun k => (k.putTile x.tileN ((List.range 8).map row)).setTileSt x.tileN 0).later (s.ctrOf h) .other []
        else s.later (s.ctrOf h) .other []) }
  | .mrd h x =>
    let v := fun t r => ofElems 32 ((((s.core s.cc).tileRow x.tileN t).drop (8 * (mrdG x + r))).take 8)
    some {
      ok := s.flagged h true && s.within x.a true (mrdC x),
      next := (s.later (s.ctrOf h) .other ((bitsOf (s.part h)).flatMap fun t => (List.range (mrdC x)).map fun r =>
        RegWrite.v (s.tkey t) (x.a.num + r) (BitVec.ofNat 256 (v t r)) (-1) (if x.mx.getLsbD 6 then 9 else 8) 32)).on }
  | .mwr h x =>
    let row := fun t =>
      let old := (s.core s.cc).tileRow x.tileN t
      if (s.part h).getLsbD t then
        old.take (8 * mrdG x) ++ ((List.range (mrdC x)).flatMap fun r => elems ((s.th t).getV (x.a.num + r)).toNat 32 8) ++ old.drop (8 * (mrdG x + mrdC x))
      else old
    some { ok := s.within x.a true (mrdC x), next := (s.modCore s.cc fun k => k.putTile x.tileN ((List.range 8).map row)).on }
  | .mrel h _ => some { next := State.on (if s.acts h then s.modCb fun b => { b with latch := none } else s) }
  | .mstat h x =>
    let st := (s.core s.cc).tileSt x.tileN
    let v : W32 := if x.mx.getLsbD 0 then st.extractLsb' 32 32 else st.extractLsb' 0 32
    some {
      ok := s.flagged h true && s.within x.c false 1,
      next := State.on (if s.acts h then
        (if x.mx.getLsbD 1 then s.modCore s.cc fun k => k.setTileSt x.tileN (st &&& ~~~7#64) else s).later (s.ctrOf h) .other
          (s.wrD (s.part h) x.c (fun _ => v) 9)
        else s.later (s.ctrOf h) .other []) }
  | _ => none

/-! ### Loads and stores (R249 to R262) -/

/-- The translation of an address, where there is one. -/
def State.xlOf (s : State) (k : Acc) (va : Nat) : Xl :=
  match s.xl s.cctx va k with
  | .ok x => x
  | .error _ => { loc := 0, pte := 0 }
def State.mapped (s : State) (k : Acc) (va : Nat) : Bool :=
  match s.xl s.cctx va k with
  | .ok _ => true
  | .error _ => false
/-- The driver has enabled what a page needs (R471). -/
def State.pageOn (s : State) (x : Xl) : Bool := (!x.isPeer || s.enabled 7) && (!x.isAp || s.enabled 9)

/-- The parts of an access, each on one page. -/
def State.placed (s : State) (k : Acc) (ps : List (Nat × Nat)) : List Piece :=
  ps.map fun p => { va := p.1, x := s.xlOf k p.1, n := p.2 }
/-- Steps 5 to 7 of R252 pass for a part: it is mapped, the driver has enabled what its page needs, a write does not
go through an Aperture (R266), and a read meets no unapplied partial of the launch (R307). -/
def State.partOk (s : State) (k : Acc) (p : Piece) : Bool :=
  s.mapped k p.va && s.pageOn p.x && (k ≠ .write || !p.x.isAp) && (k ≠ .read || !s.pieceHazard s.cctx s.cwg.launch p)

/-- Where a thread's access lies. -/
def State.spot (s : State) (f : MF) (sp : Space) (k : Acc) (t : Nat) : Spot :=
  match sp with
  | .spad => .sram (s.spadKeys f.lay (s.ea f sp t) f.bytes)
  | .window => .sram ((s.windowKeys s.cwg.gang f.lay (s.ea f sp t) f.bytes).getD [])
  | .stack => .stack (stackKey s.cdie s.cctx (s.ea f sp t))
  | _ => .mem (s.placed k (partsOf 65536 (s.vaOf f sp t) f.bytes))

/-- The feature an access needs, and step 2 of R252: they hold whichever threads take part. -/
def State.formOk (s : State) (f : MF) (sp : Space) : Bool :=
  (sp ≠ .stack || s.enabled 8) && s.within f.a false (if sp = .mem then 2 else 1) && s.within f.d f.V (if f.isPair then 2 else 1)

/-- Steps 3 to 7 of R252 pass in every thread of a mask. -/
def State.reaches (s : State) (f : MF) (sp : Space) (k : Acc) (m : BitVec 8) : Bool :=
  forT m (fun t => s.ea f sp t % alignOf f.bytes == 0) && forT m (s.inBounds f sp f.bytes)
    && match sp with
      | .spad | .window | .stack => true
      | _ => forT m fun t => (s.placed k (partsOf 65536 (s.vaOf f sp t) f.bytes)).all (s.partOk k)

/-- A read's answer needs no further translation. -/
def delivered {α : Type} (r : Except Fail α) : Bool :=
  match r with
  | .error (.page _ _) | .error (.feature _) => false
  | _ => true

/-- The threads of a mask that met bytes that cannot be read (R253). -/
def lostIn {α : Type} (m : BitVec 8) (d : Nat → Except Fail α) : List Nat :=
  (bitsOf m).filter fun t => match d t with
    | .error (.data _) => true
    | _ => false

def State.loadDone (s : State) (sp : Space) (h : Hd) (f : MF) : Done :=
  let m := s.part h
  let p := s.spot f sp .read
  let va := s.vaOf f sp
  let l1 := s.l1For f.ord f.ch
  let d := fun t => s.readPlace l1 (p t) f.bytes
  let m' : BitVec 8 := if f.d.isK then BitVec.ofNat 8 (2 ^ lowest m) else m
  let ws := (bitsOf m').flatMap fun t => match d t with
    | .ok bs => s.loadWrites f t bs
    | .error _ => []
  let s1 := ((s.fillSpots m p).cacheReads l1.isSome m' p).countLost (lostIn m' d) d
  { ok := s.flagged h true && s.formOk f sp && s.orderOk f.ord
      && if m = 0 then s.offOk f.ord else s.reaches f sp .read m && forT m fun t => delivered (d t),
    next := State.on (if m = 0 then s.fenceOp f.ord (s.ctrOf h)
      else (s1.acquire s.cc f.ord.acqAt).later (s.ctrOf h) .load ws (lostFault (lostIn m' d) fun t => s.lostVa l1 (p t) (va t)) (s.condOf false m' fun t => s.spotRuns (p t))) }

def State.storeDone (s : State) (sp : Space) (h : Hd) (f : MF) : Done :=
  let m := s.part h
  let p := s.spot f sp .write
  let m' : BitVec 8 := if f.d.isK && f.a.isK then BitVec.ofNat 8 (2 ^ lowest m) else m
  let r := (s.fillSpots m p).storeAll m' p f.bytes (s.storeData f)
  { ok := s.flagged h false && s.formOk f sp && s.orderOk f.ord && if m = 0 then s.offOk f.ord else s.reaches f sp .write m,
    next := State.on (if m = 0 then s.fenceOp f.ord (s.ctrOf h)
      else (r.1.acquire s.cc f.ord.acqAt).later (s.ctrOf h) .store [] r.2 (s.condOf true m' fun t => s.spotRuns (p t)) (s.found m' p)) }

/-- Steps 5 to 7 of R252 for LDP6 and STP6 pass (R262). -/
def State.reaches6 (s : State) (f : MF) (k : Acc) (m : BitVec 8) : Bool :=
  forT m fun t => (s.placed k (partsOf 128 (s.ea f .mem t) (3 * f.groups))).all (s.partOk k)
def State.fits6 (s : State) (f : MF) : Bool := s.within f.a false 2 && s.within f.d f.V 1

def State.ldp6Done (s : State) (h : Hd) (f : MF) : Done :=
  let m := s.part h
  let ea := s.ea f .mem
  let p := fun t => Spot.mem (s.placed .read (partsOf 128 (ea t) (3 * f.groups)))
  let l1 := s.l1For f.ord f.ch
  let d := fun t => s.readPlace l1 (p t) 0
  let ws := (bitsOf m).flatMap fun t => match d t with
    | .ok bs =>
      let x := unpack6 (natOfBytes bs) f.groups
      if f.V then [RegWrite.v (s.tkey t) f.d.num (BitVec.ofNat 256 x) (-1) 15 8] else [RegWrite.s (s.tkey t) f.d.num (BitVec.ofNat 32 x) 15]
    | .error _ => []
  let s1 := ((s.fillSpots m p).cacheReads l1.isSome m p).countLost (lostIn m d) d
  { ok := s.flagged h true && s.fits6 f && s.orderOk f.ord
      && if m = 0 then s.offOk f.ord else s.reaches6 f .read m && forT m fun t => delivered (d t),
    next := State.on (if m = 0 then s.fenceOp f.ord (s.ctrOf h)
      else (s1.acquire s.cc f.ord.acqAt).later (s.ctrOf h) .load ws (lostFault (lostIn m d) fun t => s.lostVa l1 (p t) (ea t)) (s.condOf false m fun t => s.spotRuns (p t))) }

def State.stp6Done (s : State) (h : Hd) (f : MF) : Done :=
  let m := s.part h
  let n := 3 * f.groups
  let ea := s.ea f .mem
  let p := fun t => Spot.mem (s.placed .write (partsOf 128 (ea t) n))
  let data := fun t => bytesOfNat n (pack6 (if f.V then ((s.th t).getV f.d.num).toNat else ((s.th t).getS f.d.num).toNat) f.groups)
  let r := (s.fillSpots m p).storeAll m p n data
  { ok := s.flagged h false && s.fits6 f && s.orderOk f.ord && if m = 0 then s.offOk f.ord else s.reaches6 f .write m,
    next := State.on (if m = 0 then s.fenceOp f.ord (s.ctrOf h)
      else (r.1.acquire s.cc f.ord.acqAt).later (s.ctrOf h) .store [] r.2 (s.condOf true m fun t => s.spotRuns (p t)) (s.found m p)) }

/-- The line that PREF with hint 0 brings into the core's L1 (R260): one of a plain page all of which can be read. -/
def State.prefLine (s : State) (va : Nat) : State :=
  let x := s.xlOf .read va
  if s.mapped .read va && !x.nc && !x.isPeer && !x.isAp && !s.badBytes (x.loc / 128 * 128) 128 then s.holdLine s.cc x.loc else s

/-- The loads of chapter 11 and the prefetch. -/
def State.loadRow (s : State) : Instr → Option Done
  | .ld h f => some (s.loadDone .mem h f)
  | .lds h f => some (s.loadDone .spad h f)
  | .ldg h f => some (s.loadDone .window h f)
  | .ldk h f => some (s.loadDone .stack h f)
  | .ldc h f => some (s.loadDone .const h f)
  | .pref h f => some {
      ok := s.flagged h false && s.within f.a false 2,
      next := ((if f.ch = 0 then eachT (s.part h) s fun s t => s.prefLine (s.ea f .mem t) else s).later (s.ctrOf h) .other []).on }
  | _ => none

/-- The stores of chapter 11. -/
def State.storeRow (s : State) : Instr → Option Done
  | .st h f => some (s.storeDone .mem h f)
  | .sts h f => some (s.storeDone .spad h f)
  | .stg h f => some (s.storeDone .window h f)
  | .stk h f => some (s.storeDone .stack h f)
  | _ => none

/-- LDP6 and STP6 (R262). -/
def State.packedRow (s : State) : Instr → Option Done
  | .ldp6 h f => some (s.ldp6Done h f)
  | .stp6 h f => some (s.stp6Done h f)
  | _ => none

/-! ### Atomics, barriers, fences and choices (R292 to R319) -/

/-- A choice outside Mirror mode (R311): appended under LOG. -/
def State.recorded (s : State) (kind key src chc : Nat) : State :=
  if s.cl.log? then s.logAppend s.cwg.launch { kind := kind, key := key, src := src, chc := chc } else s

/-- Steps 3 to 6 of R252 pass for an atomic's word. -/
def State.atomReaches (s : State) (f : MF) (m : BitVec 8) : Bool :=
  forT m fun t =>
    let x := s.xlOf .write (s.atomEa f t)
    s.atomEa f t % atomBytes f == 0 && s.mapped .write (s.atomEa f t) && s.pageOn x && !x.isAp
/-- Step 7 passes: no partial of the launch lies in the word (R307). -/
def State.atomFree (s : State) (f : MF) (m : BitVec 8) : Bool :=
  forT m fun t => !s.hazard s.cwg.launch (s.xlOf .write (s.atomEa f t)).loc (atomBytes f)

def atomSrc (f : MF) : Src := { f := f.b, v := false, want := if f.ty.width = 64 then .bits 32 else .ty f.ty }

/-- The turns of a word are its threads' one after the other: no Mirror run orders them, and none has been taken
before (R312). -/
def State.noTurns (s : State) : Bool := !s.cl.mir && s.cb.partway.isNone
/-- Each thread of a mask does its part in ascending t: a state, register writes, and whether it met an error. -/
def State.eachTurn (s : State) (m : BitVec 8) (f : State → Nat → State × List RegWrite × Bool) : Turns :=
  (bitsOf m).foldl (fun r t =>
    let q := f r.s t
    { r with s := q.1, done := setBit r.done t true, ws := r.ws ++ q.2.1, bad := if q.2.2 then r.bad ++ [t] else r.bad }) { s := s }

/-- What is asked of ATOM, ATOMF, RED and REDF whichever threads take part. -/
def State.atomForm (s : State) (ret : Bool) (f : MF) : Bool :=
  s.within f.a false 2 && (!ret || s.within f.d false (atomRegs f)) && s.within f.b false (atomRegs f)
/-- The end of an atomic word. -/
def State.atomOver (s : State) (h : Hd) (f : MF) (m' : BitVec 8) (r : Turns) (fl : State → State) : State :=
  let x := fun t => s.xlOf .write (s.atomEa f t)
  let cond := s.condOf true m' fun t => [{ va := s.atomEa f t, loc := (x t).loc, n := atomBytes f }]
  (r.close fun q =>
    ((fl q).acquire s.cc f.ord.acqAt).later (s.ctrOf h) .atomic r.ws (lostFault r.bad (s.atomEa f)) cond).1

def State.atomDone (s : State) (ret : Bool) (h : Hd) (f : MF) : Done :=
  let m := s.part h
  let uni := f.b.isK && (!ret || f.d.isK)
  let m' := atomMask f uni m
  let pair := f.ty.width = 64
  let x := fun t => s.xlOf .write (s.atomEa f t)
  let val := fun t => if pair then s.addrOf f.b true t else e0 (s.srcElems (atomSrc f) t).1
  let r := (s.fillAll s.cctx m (s.atomEa f)).eachTurn m' fun q t =>
    let loc := (x t).loc
    let q := if ret && (x t).det then q.recorded 1 (logKey loc) (if uni && f.a.isK then q.srcUni else q.srcOf t) (logChc loc) else q
    match rmw (q.agentOf (x t)) loc (atomBytes f) (fun o => some (atomNew f.ty f.aop o (val t))) q with
    | (q, some o) => (q, if ret then q.oldWrites f t o (Sys2Proof.Ty.tag f.ty) else [], false)
    | (q, none) => (q, [], true)
  { ok := s.flagged h ret && s.atomForm ret f && s.orderOk f.ord
      && if m = 0 then s.offOk f.ord
        else s.readable m' [atomSrc f] && s.atomReaches f m && s.atomFree f m && s.noTurns,
    next := State.on (if m = 0 then s.fenceOp f.ord (s.ctrOf h)
      else s.atomOver h f m' r fun q => q.orFx m' fun t => if pair then 0 else (s.srcElems (atomSrc f) t).2) }

/-- The partial tables take the contributions of a word, and no word would hold two operations (R305, R308). -/
def State.detOk (s : State) (us : List (Nat × Nat)) (op size : Nat) : Bool := (s.detCheckL us op size).isOk

def State.atomfDone (s : State) (ret : Bool) (h : Hd) (f : MF) : Done :=
  let m := s.part h
  let uni := f.b.isK && (!ret || f.d.isK)
  let m' := atomMask f uni m
  let b : Src := { f := f.b, v := false, want := .ty f.ty }
  let x := fun t => s.xlOf .write (s.atomEa f t)
  let dm := mask8 fun t => m'.getLsbD t && (x t).det
  let op := if f.ty = .bf16 then 3 else f.aop
  let val := fun t => ofElems f.ty.width (s.srcElems b t).1
  let r := (s.fillAll s.cctx m (s.atomEa f)).eachTurn m' fun r t =>
    let loc := (x t).loc
    let wr := fun (r : State) o => if ret then r.oldWrites f t o (Sys2Proof.Ty.tag f.ty) else []
    if (x t).det then
      let q := (detParts f.ty f.aop loc (val t)).foldl (fun (q : Mem × List Nat) p =>
        let c := q.1.contribute r.cwg.launch r.cb.wg r.cb.b p.1 p.2.1 p.2.2
        (c.1, q.2 ++ [c.2])) (r.mem, [])
      let r := { r with mem := q.1 }
      (r, wr r (detRet f.ty q.2), false)
    else match rmw (r.agentOf (x t)) loc 4 (fun o => some (atomfNew f.ty f.aop o (val t))) r with
      | (q, some o) => (q, wr q o, false)
      | (q, none) => (q, [], true)
  { ok := s.flagged h ret && s.atomForm ret f && s.orderOk f.ord
      && if m = 0 then s.offOk f.ord
        else s.readable m' [b] && s.atomReaches f m && s.atomFree f (m' &&& ~~~dm)
          && s.detOk ((bitsOf dm).map fun t => (t, (x t).loc)) op 4 && s.cb.partway.isNone,
    next := State.on (if m = 0 then s.fenceOp f.ord (s.ctrOf h)
      else s.atomOver h f m' r fun q => q.orFx m' fun t => (s.srcElems b t).2) }

def State.casDone (s : State) (h : Hd) (f : MF) : Done :=
  let m := s.part h
  let wide := f.ty == .b128
  let uni := f.b.isK && f.d.isK
  let m' := atomMask f uni m
  let x := fun t => s.xlOf .write (s.atomEa f t)
  let r := (s.fillAll s.cctx m (s.atomEa f)).eachTurn m' fun q t =>
    let loc := (x t).loc
    let cn := q.casVals f t
    match rmw (q.agentOf (x t)) loc (atomBytes f) (fun o => if o = cn.1 then some cn.2 else none) q with
    | (q, some o) =>
      let q := q.recorded 2 (logKey loc) (if uni && f.a.isK then q.srcUni else q.srcOf t) (logChc loc + if o = cn.1 then 4 else 0)
      (q, q.oldWrites f t o 15, false)
    | (q, none) => (q, [], true)
  { ok := s.flagged h true && s.within f.a false 2 && s.within f.d wide (if wide then 1 else atomRegs f)
      && s.within f.b wide (if wide then 1 else 2 * atomRegs f) && s.orderOk f.ord
      && if m = 0 then s.offOk f.ord else s.atomReaches f m && s.atomFree f m && s.noTurns,
    next := State.on (if m = 0 then s.fenceOp f.ord (s.ctrOf h) else s.atomOver h f m' r id) }

/-- The offset a barrier word names, and where the object lies (R315). -/
def State.barOff (s : State) (f : MF) : Nat := wrap 32 ((s.val32 f.a : Nat) + f.off.toInt)
def State.barKey (s : State) (f : MF) : Option Nat :=
  if !(s.within f.a false 1 && s.unified f.a && s.barOff f % 16 == 0) then none
  else if f.barScope = 1 then (if s.barOff f + 16 ≤ s.spadLimit then some (sramKey s.cc (s.cwg.spadBase + s.barOff f)) else none)
  else (s.windowKeys s.cwg.gang 0 (s.barOff f) 16).bind List.head?
/-- The fields of the object a word names. -/
def State.barAtKey (s : State) (f : MF) : Nat := s.barObj ((s.barKey f).getD 0)
/-- The object is live and of the word's scope. -/
def State.barLive (s : State) (f : MF) : Bool := (s.barKey f).isSome && barValid (s.barAtKey f) && barSc (s.barAtKey f) == f.barScope
/-- Arrivals of a BARARR (R317). -/
def State.arrivals (s : State) (h : Hd) (f : MF) : Nat :=
  if f.ch.getLsbD 0 then (s.cb.getK f.b.num).toNat % 65536 else (bitsOf (s.part h)).length

/-- FENCE, DETDRAIN and LOGMARK (R292 to R296, R313). -/
def State.fenceRow (s : State) : Instr → Option Done
  | .fence h f => some {
      ok := s.counts h false && s.offOk f.ord,
      next := (s.fenceOp f.ord (s.ctrOf h)).on }
  | .detdrain h f =>
    let num := s.cwg.detNum + 1
    let hold := match f.ord with
      | .ar _ => true
      | _ => false
    some {
      ok := s.counts h false && !s.cb.detDone && s.cb.untracked.isNone,
      next := (((((s.markPartials s.cb.wg s.cb.b num).modCb fun b => { b with detDone := true }).later (s.ctrOf h) .other [] none
        (.drain s.cb.wg num hold f.ord.relAt)).detStart s.cb.wg)).on }
  | .logmark h f => some {
      ok := s.counts h false && (!s.acts h || !s.cl.mir),
      next := State.on (if s.acts h then (s.recorded 8 0 s.srcUni (s.cb.getK f.a.num).toNat).later (s.ctrOf h) .other []
        else s.later (s.ctrOf h) .other []) }
  | _ => none

/-- ATOM and RED (R302). -/
def State.atomRow (s : State) : Instr → Option Done
  | .atom h f => some (s.atomDone true h f)
  | .red h f => some (s.atomDone false h f)
  | _ => none

/-- ATOMF and REDF (R303 to R308). -/
def State.atomfRow (s : State) : Instr → Option Done
  | .atomf h f => some (s.atomfDone true h f)
  | .redf h f => some (s.atomfDone false h f)
  | _ => none

/-- CAS and CAS2 (R301). -/
def State.casRow (s : State) : Instr → Option Done
  | .cas h f => some (s.casDone h f)
  | .cas2 h f => some (s.casDone h f)
  | _ => none

/-- The barrier words (R314 to R319). -/
def State.barrierRow (s : State) : Instr → Option Done
  | .barinit h f =>
    let n := s.val32 f.b
    some {
      ok := s.flagged h false && s.within f.a false 1 && s.within f.b false 1 && s.orderOk f.ord
        && if !s.acts h then s.offOk f.ord
          else s.unified f.b && (s.barKey f).isSome && n ≠ 0 && n < 65536 && barWaiting (s.barAtKey f) == 0,
      next := State.on (if !s.acts h then s.fenceOp f.ord (s.ctrOf h)
        else (s.putBar ((s.barKey f).getD 0) (n + 2 ^ 36 * f.barScope + 2 ^ 39)).later (s.ctrOf h) .other []) }
  | .bararr h f =>
    let k := (s.barKey f).getD 0
    let o := s.barAtKey f
    let n := s.arrivals h f
    let ws : List RegWrite := if f.ch.getLsbD 1 then [.k f.d.num (BitVec.ofNat 32 (barPh o))] else []
    some {
      ok := s.flagged h (f.ch.getLsbD 1) && s.within f.a false 1 && s.relOver (barSync f f.ord.relAt)
        && (!s.acts h || (s.barLive f && n ≠ 0 && barArr o + n ≤ barCnt o)),
      next := State.on (if !s.acts h then s.fenceOp (.rel (barSync f f.ord.relAt)) (s.ctrOf h)
        else if barArr o + n = barCnt o then
          ((s.putBar k (setField (setField (setField o 16 16 0) 32 4 (barPh o + 1)) 96 32 (barTot o + 1))).barWake k).later (s.ctrOf h) .other ws
        else (s.putBar k (setField o 16 16 (barArr o + n))).later (s.ctrOf h) .other ws) }
  | .barwait h f =>
    let d := barDelta (s.barAtKey f) ((s.cb.getK f.b.num).toNat % 16)
    some {
      ok := !s.held && s.within f.a false 1
        && if !s.acts h then s.cb.untracked.isNone else s.cb.met || (s.barLive f && 1 ≤ d && d ≤ 7),
      next := (s.acquire s.cc (some (barSync f f.ord.acqAt))).flow (.goto s.cb.fall) }
  | .barqry h f =>
    let o := s.barAtKey f
    some {
      ok := s.flagged h true && s.within f.a false 1 && s.within f.d false 1 && (!s.acts h || (s.barKey f).isSome),
      next := State.on (if !s.acts h then s.later (s.ctrOf h) .other []
        else s.later (s.ctrOf h) .other (s.wrD (s.part h) f.d (fun _ => BitVec.ofNat 32 (barArr o + 2 ^ 16 * barPh o + 2 ^ 20 * b2n (barValid o))) 9)) }
  | _ => none

/-! ### Codebook loads, copies and tile drains (R212, R235, R320 to R328) -/

/-- The gang position a copy word names (R323). -/
def State.chanCore (s : State) (f : TF) : Nat := (s.gang s.cwg.gang).coreAt (f.x 3 4)
def State.chanThere (s : State) (f : TF) : Bool := f.x 3 4 < (s.gang s.cwg.gang).w * (s.gang s.cwg.gang).h
/-- The channel as the gang sees it. -/
def State.chanSeen (s : State) (f : TF) : Chan := (s.chan (s.chanCore f) (f.x 0 3)).seenBy s.cwg.gang
/-- The command a descriptor in the scratchpad gives (R321). -/
def State.cpyBytes (s : State) (f : TF) : List Byte :=
  getBs s.mem.scratch (sramKey s.cc (s.cwg.spadBase + (s.cb.getK f.a.num).toNat)) 64
def State.cpyCmd (s : State) (f : TF) : CopyCmd := descCmd (s.cpyBytes f) (s.chan s.cc (f.x 0 3)).nextSeq s

/-- CBLD: bank, first entry, count and address (R212). -/
def State.cbldRange (s : State) (f : TF) : Nat × Nat × Nat × Nat :=
  let kb := (s.cb.getK f.b.num).toNat
  (f.x 0 3, kb % 256, bits kb 16 8, s.cb.kPair f.a.num)
/-- The parts of its range, one for each entry. -/
def State.cbldParts (s : State) (f : TF) : List Piece :=
  s.placed .read ((List.range (s.cbldRange f).2.2.1).map fun i => ((s.cbldRange f).2.2.2 + 16 * i, 16))
/-- The bank after a CBLD: entries of the same launch and shape stay, uncorrectable ones become invalid. -/
def State.cbldBank (s : State) (f : TF) : Bank :=
  let r := s.cbldRange f
  let b := s.bank s.cc r.1
  let keep := b.owner == some s.cwg.launch && b.ew == f.x 3 2 && b.iw == f.x 5 1
  { b with valid := if keep then b.valid else 0, ew := f.x 3 2, iw := f.x 5 1, owner := some s.cwg.launch, loading := 1 : Bank }.filled r.2.1
    ((s.cbldParts f).map s.cbRead)

/-- The shape of an MDRAIN that runs (R235). -/
def State.drainFits (s : State) (x : XF) : Bool :=
  let f := s.fslot x.fs.toNat
  x.drainKind == 2 || (x.drainKind ≤ 1 && f.efmt ≤ 16 && f.efmt ≠ 7 && f.efmt ≠ 8 && f.efmt ≠ 12 && f.efmt ≠ 15 && f.bsz == 0)
def drainRowSrc (x : XF) : List Src := if x.mx.getLsbD 0 then [{ f := x.a, v := false, want := .ty .f32 }] else []
def State.drainLen (s : State) (x : XF) : Nat := 8 * drainRow (s.fslot x.fs.toNat) + 4
/-- Where it writes: an offset, an address, or a tile. -/
def State.drainTo (s : State) (x : XF) : Nat := if x.drainKind = 0 then s.val32 x.b else if x.drainKind = 1 then s.cb.kPair x.b.num else (s.cb.getK x.b.num).toNat
/-- The parts of a drain into memory, of 64 bytes each. -/
def State.drainParts (s : State) (x : XF) : List Piece :=
  s.placed .write ((List.range ((s.drainLen x + 63) / 64)).map fun i =>
    ((s.drainTo x + 64 * i) % 2 ^ 64, min 64 (s.drainLen x - 64 * i)))
def State.drainOk (s : State) (x : XF) : Bool :=
  match x.drainKind with
  | 0 => s.matOk x.b x.lay.toNat (s.drainLen x)
  | 1 => s.drainTo x % 64 == 0 && (s.drainParts x).all fun p => s.mapped .write p.va && s.pageOn p.x && !p.x.isAp
  | _ => s.drainTo x < 128
/-- Its register fields lie in the budget, whether it runs or not (R130). -/
def State.drainForm (s : State) (x : XF) : Bool :=
  (x.drainKind == 1 || s.within x.b false 1) && (!x.mx.getLsbD 0 || s.within x.a false 1) && (!x.mx.getLsbD 1 || s.within x.c false 1)
/-- Element values of a row of the tile, scaled, and the flags of its scale. -/
def State.drainVals (s : State) (x : XF) (i : Nat) : List XV × Nat :=
  let cs := s.colScales x (if x.mx.getLsbD 1 then s.val32 x.c else 0)
  let r := s.rowScale x i
  ((((s.core s.cc).tileRow x.tileN i).zip cs).map fun p => ((tileVal x p.1).mul r.1).mul p.2, r.2)
/-- A row added into another tile (kind 2), or rounded into its format: elements with their flags. -/
def State.drainRowOut (s : State) (x : XF) (i : Nat) : List (WithFx Nat) :=
  if x.drainKind = 2 then
    ((s.drainVals x i).1.zip ((s.core s.cc).tileRow (s.drainTo x) i)).map fun q => rn32 ((decodeF .f32 false q.2).add false q.1)
  else (s.drainVals x i).1.map fun y => slotRound (s.fslot x.fs.toNat) (drainRm x) false 16 0 y
/-- The error of column scales that cannot be read. -/
def State.scaleError (s : State) (x : XF) : Option FaultRec := if x.mx.getLsbD 1 then s.spadError 0 (s.val32 x.c) 256 else none
/-- The state MDRAIN leaves. -/
def State.drainNext (s : State) (h : Hd) (x : XF) : State :=
  let rows := (List.range 8).map (s.drainRowOut x)
  let ws := (rows.zip (List.range 8)).map fun p => RegWrite.fx (s.tkey p.2) (orAll (p.1.map (·.2)) ||| (s.drainVals x p.2).2)
  let n := (rows.flatten.filter fun e => e.2 / Fx.sat % 2 = 1).length
  let bytes := (rows.flatMap fun r => rowBytes (s.fslot x.fs.toNat) (r.map (·.1))) ++ bytesOfNat 4 n
  let dst := s.drainTo x
  let s0 := s.acquire s.cc (x.drainOrd.getD .none).acqAt
  let s1 := s0.modCore s.cc fun k => k.setTileSt x.tileN ((k.tileSt x.tileN &&& 0xFFFFFFFF#64) + BitVec.ofNat 64 (n * 2 ^ 32))
  if (s.scaleError x).isSome then s0.later (s.ctrOf h) .engineRead [] (s.scaleError x)
  else match x.drainKind with
  | 2 => (s0.modCore s.cc fun k => k.putTile dst (rows.map fun r => r.map (·.1))).later (s.ctrOf h) .other ws
  | 0 => (s1.storeS (s1.spadKeys x.lay.toNat dst (s.drainLen x)) bytes).later (s.ctrOf h) .engineWrite ws
  | _ =>
    let ps := s.drainParts x
    let cond := (s1.condOf true 1 fun _ => ps.map fun p => { va := dst, loc := p.x.loc, n := p.n }).masked s1.cb.active
    let r := (ps.zip (List.range ps.length)).foldl (fun (q : State × List (Nat × Nat)) p =>
      let w := q.1.storePart (q.1.engineOf p.1.x) (ps.map fun p => (p.x.loc, p.n)) p.1.x.loc ((bytes.drop (64 * p.2)).take 64)
      (w.1, q.2 ++ w.2.map fun l => (p.1.va, l))) (s1, [])
    let flt := r.2.head?.map fun a => { code := Code.memoryDataError, addr := a.1, mask := r.1.cb.active : FaultRec }
    (ps.foldl (fun s p => s.fillTlb s.cctx p.va) (r.1.countUes (r.2.map (·.2)))).later (s.ctrOf h) .engineWrite ws flt cond

/-- CBLD (R212). -/
def State.bankRow (s : State) : Instr → Option Done
  | .cbld h f =>
    let r := s.cbldRange f
    let n := r.1
    let cnt := r.2.2.1
    let va := r.2.2.2
    let kb := (s.cb.getK f.b.num).toNat
    let free := match (s.bank s.cc n).owner with
      | some o => o = s.cwg.launch || s.liveWgs (fun g => g.core == s.cc && g.launch == o) = []
      | none => true
    let ps := s.cbldParts f
    let es := ps.map s.cbRead
    let bad := (List.range cnt).filter fun i => match es[i]? with
      | some (.error _) => true
      | _ => false
    let flt := match bad with
      | [] => none
      | i :: _ => some { code := Code.memoryDataError, addr := va + 16 * i, mask := s.cb.active : FaultRec }
    let s1 := ps.foldl (fun s p => (s.fillTlb s.cctx p.va).afterEngine s.cctx p)
      (s.modCore s.cc fun k => { k with banks := put k.banks n (s.cbldBank f) })
    some {
      ok := s.flagged h false && va % 16 == 0 && 1 ≤ cnt && cnt ≤ 256 && r.2.1 + cnt ≤ 256 && kb / 2 ^ 17 == 0
        && if !s.acts h then s.offOk f.ord
          else (s.bank s.cc n).loading = 0 && free && ps.all (s.partOk .read) && es.all delivered,
      next := State.on (if !s.acts h then s.fenceOp f.ord (s.ctrOf h)
        else ((s1.countLost bad fun i => es.getD i (.ok 0)).acquire s.cc f.ord.acqAt).later (s.ctrOf h) .engineWrite [] flt
          (.bank s.cc n va r.2.1 ((s.condOf false 1 fun _ => ps.flatMap (s.runsOf s.cctx)).masked s.cb.active).remotes)) }
  | _ => none

/-- MDRAIN (R235). -/
def State.mdrainRow (s : State) : Instr → Option Done
  | .mdrain h x =>
    let ord := x.drainOrd.getD .none
    some {
      ok := s.drainFits x && s.whole h && s.drainForm x
        && if s.wholeGo h then s.flagged h false && s.readable (-1) (drainRowSrc x)
            && (!x.mx.getLsbD 1 || s.matOk x.c 0 256) && s.drainOk x && s.orderOk ord
          else true,
      next := State.on (if s.wholeGo h then s.drainNext h x else s) }
  | _ => none

/-- The copy words (R320 to R331). -/
def State.copyRow (s : State) : Instr → Option Done
  | .cpy h f =>
    let ch := f.x 0 3
    let x := s.chan s.cc ch
    let o := (s.cb.getK f.a.num).toNat
    let cmd := s.cpyCmd f
    let add := fun (x : Chan) =>
      let y := { x with holder := some s.cwg.gang, seqCtr := cmd.seq, queue := x.queue ++ [cmd], removed := x.removed.filter (· ≠ cmd.seq) }
      if x.idle then y.start else y
    some {
      ok := s.flagged h true && s.orderOk f.ord
        && if !s.acts h then s.offOk f.ord
          else x.holder.all (· == s.cwg.gang) && x.queue.length + b2n x.running.isSome < 4 && o % 64 == 0 && o + 64 ≤ s.cwg.spadSize
            && descOk (s.cpyBytes f) cmd && s.rangeOk cmd.skind cmd.src cmd.len && s.rangeOk cmd.dkind cmd.dst cmd.len,
      next := State.on (if !s.acts h then s.fenceOp f.ord (s.ctrOf h)
        else (((s.modChan s.cc ch add).modCb fun b => b.setK f.d.num (BitVec.ofNat 32 cmd.seq)).acquire s.cc f.ord.acqAt).later (s.ctrOf h) .other [] none
          (.copyEnd s.cc ch cmd.seq true)) }
  | .cpywp h f =>
    let x := s.chanSeen f
    some {
      ok := s.flagged h true && s.chanThere f && (s.acts h || s.offOk f.ord),
      next := State.on (if !s.acts h then s.fenceOp f.ord (s.ctrOf h)
        else (s.acquire s.cc f.ord.acqAt).later (s.ctrOf h) .other [.k f.d.num (BitVec.ofNat 32 x.wp), .k (f.d.num + 1) (BitVec.ofNat 32 (x.seq + 2 ^ 16 * b2n x.idle))]) }
  | .cpywait h f => some {
      ok := s.flagged h true && s.chanThere f && (s.acts h || s.offOk f.ord),
      next := State.on (if !s.acts h then s.fenceOp f.ord (s.ctrOf h)
        else s.later (s.ctrOf h) .other [] none
          (.copyAt (s.chanCore f) (f.x 0 3) (s.cb.getK f.a.num).toNat ((s.cb.getK (f.a.num + 1)).toNat % 65536) f.d.num s.cwg.gang f.ord.acqAt)) }
  | .cpycan h f =>
    let ch := f.x 0 3
    let x := s.chan s.cc ch
    let hit := fun (r : CopyCmd) => f.x 3 1 == 1 || r.seq == (s.cb.getK f.a.num).toNat
    let cut := fun (x : Chan) =>
      { x with queue := x.queue.filter fun r => !hit r, removed := x.removed ++ (x.queue.filter hit).map (·.seq),
               running := x.running.map fun r => if hit r then { r with cancel := true }.halt else r }
    let s1 := (s.modChan s.cc ch cut).modChan s.cc ch fun x => { x with holder := if x.idle then none else x.holder }
    let mine := s.acts h && x.holder = some s.cwg.gang
    some {
      ok := s.flagged h false,
      next := State.on (if !mine then s.later (s.ctrOf h) .other []
        else match x.running with
          | some r =>
            if !hit r then s1.later (s.ctrOf h) .other []
            else (if x.stalled.isSome then s1.endCopy s1.cc ch 2 none 0 else s1).later (s.ctrOf h) .other [] none (.copyEnd s.cc ch r.seq false)
          | none => s1.later (s.ctrOf h) .other []) }
  | .cpyst h f => some {
      ok := s.flagged h true && s.chanThere f,
      next := State.on (if !s.acts h then s.later (s.ctrOf h) .other []
        else s.later (s.ctrOf h) .other [.k f.d.num (BitVec.ofNat 32 ((s.chanSeen f).value (f.x 7 2)))]) }
  | _ => none

/-! ### Tasks, queues, launches and variants (R132 to R141, R332 to R360) -/

/-- The queue a word names (R337). -/
def State.queueNo (s : State) (f : TF) : Nat :=
  if f.x 12 1 = 0 then f.x 0 12
  else match f.b with
    | .k n => (s.cb.getK n.toNat).toNat % 4096
    | .t n => ((s.th (lowest s.cb.active)).getS n.toNat).toNat % 4096
def State.queueNamed (s : State) (f : TF) : Bool :=
  f.x 12 1 = 0 || match f.b with
    | .k _ => true
    | .t n => s.oneValue fun t => ((s.th t).getS n.toNat).toNat % 4096
def State.queueForm (s : State) (f : TF) : Bool := f.x 12 1 ≠ 1 || s.within f.b false 1
def State.entryFits (s : State) (r : RF) : Bool := r.isK || s.within r true 2

/-- A push of one thread: taken, or turned away with its predicate false (R338). -/
def State.push1 (s : State) (q : Nat) (f : TF) (r : State × List RegWrite) (t : Nat) : State × List RegWrite :=
  if (r.1.queue q).depth < (r.1.queue q).cap then ((r.1.pushEntry q s.cc (s.entryOf f.a t)).notify, r.2 ++ [s.predWrite f.d t true])
  else (r.1, r.2 ++ [s.predWrite f.d t false])
/-- A pop of one thread, outside Mirror mode (R339). -/
def State.pop1 (s : State) (n : Nat) (f : TF) (t : Nat) : State × List RegWrite × Bool :=
  match s.popEntry n with
  | none => (s, [s.predWrite f.a t false], false)
  | some ((num, bs), q) =>
    (q.recorded 3 n (if f.d.isK then s.srcUni else s.srcOf t) num, s.entryWrites f.d t bs ++ [s.predWrite f.a t true], false)

/-- The counter a JWAIT or AWAIT names, where it can be read. -/
def State.counterCell (s : State) (a : RF) (sp : Bool) : Option Cell :=
  if sp then
    if s.unified a && s.val32 a % 4 == 0 && s.val32 a + 4 ≤ s.spadLimit then some (.spad s.cc (s.cwg.spadBase + s.val32 a)) else none
  else
    let va := s.val64 a
    if s.unifiedPair a && va % 4 == 0 && (s.placed .read [(va, 4)]).all (s.partOk .read) then some (.mem va (s.xlOf .read va)) else none
/-- JWAIT or AWAIT on a word that already meets its condition (R350, R352): the gathers are flushed and the beam
goes on; the acquire side follows. -/
def State.wordDone (s : State) (h : Hd) (f : TF) (sp : Bool) (mode cmp : Nat) : Done :=
  let s1 := if s.cb.waited then s else s.flushSpawn
  let acq : Option Scope := if f.ord.acqAt.isNone && mode = 0 then some .gang else f.ord.acqAt
  let read := (s.counterCell f.a sp).bind fun c => (s1.cellValue c).toOption
  let met := !s1.loadsOut s1.sched.cur && read.any fun r => watchMet r.1 mode cmp
  let off := !s.acts h
  { ok := !s.held && s.within f.a false (if sp then 1 else 2)
      && if off then acq.isNone || s.cb.untracked.isNone else s.cb.met || (s.cb.active ≠ 0 && met),
    next :=
      let q := if off || s.cb.met then s else (read.map (·.2)).getD s
      (q.acquire q.cc acq).flow (.goto s.cb.fall) }

/-- Where a SPAWN's join counters lie, and that steps 2 to 7 of R252 pass for them. -/
def State.joinAt (s : State) (f : TF) (t : Nat) : Cell :=
  if f.x 6 1 = 1 then .spad s.cc (s.cwg.spadBase + s.addrOf f.b false t) else .mem (s.addrOf f.b true t) (s.xlOf .write (s.addrOf f.b true t))
def State.joinForm (s : State) (f : TF) : Bool := f.x 5 1 = 0 || s.within f.b false (if f.x 6 1 = 1 then 1 else 2)
def State.joinsOk (s : State) (f : TF) (m : BitVec 8) : Bool :=
  if f.x 5 1 = 0 then true
  else if f.x 6 1 = 1 then forT m fun t => s.addrOf f.b false t % 4 == 0 && s.addrOf f.b false t + 4 ≤ s.spadLimit
  else forT m fun t =>
    let va := s.addrOf f.b true t
    let x := s.xlOf .write va
    va % 4 == 0 && s.mapped .write va && s.pageOn x && !x.isAp && !s.hazard s.cwg.launch x.loc 4
/-- One thread spawned: its join counter rises, it is numbered, and the gatherer takes it (R343). -/
def State.spawn1 (s : State) (f : TF) (pay : Nat) (cell : Cell) (t : Nat) : State × List RegWrite × Bool :=
  let e := f.x 0 5
  let l := s.cwg.launch
  let j := if f.x 5 1 = 1 then s.addJoin cell 1 else (s, true)
  let n := (look (j.1.launch l).spawnCnt e).getD 0 % 2 ^ 31
  let s2 := (j.1.recorded 6 e (s.srcOf t) n).modLaunch l fun y => { y with spawnCnt := put y.spawnCnt e (n + 1) }
  let it : SpawnItem :=
    { launch := l, gang := s.cwg.gang, wg := s.cb.wg, e := e, payload := s.payload f.a pay t,
      join := if f.x 5 1 = 1 then some (s.joinRef cell) else none, num := e * 2 ^ 31 + n, parent := s.srcOf t, at_ := s.sched.clk }
  if s2.spillLost s.cc it then (s2, [], true) else (s2.acceptSpawn s.cc it, [], !j.2)

/-- Where a path ends and another begins (R148): none where no thread is left to go on. -/
def State.pathNext (s : State) : Option State :=
  match (currentIdx s.cwg.stack s.cb.b).bind fun i => (s.cwg.stack[i]?).map fun e => (i, e) with
  | none => none
  | some (i, e) =>
    if e.kind = .brw then
      if !s.handsOver s.sched.cur then none
      else some (((s.endClause s.sched.cur e.jn).modBeam s.sched.cur fun b => { b with st := .waiting, wait := .brwPath }).brwAdvance s.cb.wg)
    else match e.nextPath s.cb.live with
      | some (j, m) => some (((s.modCwg fun g => { g with stack := g.stack.set i { e with next := j + 1 } }).modCb fun b =>
          { b with active := m }).endClause s.sched.cur (e.pathAddr j))
      | none =>
        let act := (if e.kind = .loop then e.m.getD 0 0 else e.rmask) &&& s.cb.live
        if act = 0 then none
        else some (((s.modCwg fun g => { g with stack := g.stack.eraseIdx i }).modCb fun b => { b with active := act }).endClause s.sched.cur
          (if e.kind = .loop then e.ft else e.jn))

/-- The references EXIT.join decrements, and those in memory (R349). -/
def State.refMask (s : State) (h : Hd) : BitVec 8 := mask8 fun t => (s.part h).getLsbD t && (s.th t).join.isSome
def State.refVa (s : State) (t : Nat) : Nat := (s.memRef t).getD 0
/-- The first half of EXIT: counters fall, references go, workgroups that nobody refers to any more retire. -/
def State.exitRefs' (s : State) (h : Hd) (f : TF) : State :=
  let refs := s.refMask h
  let r := eachT (if f.tx = 1 then refs else 0) (s, ([] : List Nat)) fun r t =>
    match (s.th t).join with
    | some j =>
      let a := r.1.addJoin (s.refCell j (s.xlOf .write (s.refVa t))) (2 ^ 32 - 1)
      (a.1, if a.2 then r.2 else r.2 ++ [t])
    | none => r
  let s1 := match lostFault r.2 s.refVa with
    | some ft => r.1.modCb fun b => { b with untracked := addFault b.untracked ft }
    | none => r.1
  eachT refs (eachT refs s1 fun q t => q.modTh t fun y => { y with join := none }) fun q t => match (s.th t).join with
    | some (.scratch w _) => q.retire w
    | _ => q
/-- The threads of EXIT end. -/
def State.ended (s : State) (h : Hd) : State :=
  (eachT (s.part h) s fun q t => q.modTh t fun y => { y with alive := false }).modCb fun b =>
    { b with live := s.cb.live &&& ~~~s.part h, active := s.cb.active &&& ~~~s.part h }
def State.exitDone (s : State) (h : Hd) (f : TF) : Done :=
  let join := f.tx == 1
  let mm := mask8 fun t => join && (s.part h).getLsbD t && (s.memRef t).isSome
  let s1 := s.exitRefs' h f
  let s2 := s1.ended h
  let m := s1.part h
  { ok := ((f.ord.isNone && !(join && s.refMask h ≠ 0)) || (!s.held && s.relOver (f.ord.relOr .gang)))
      && (forT mm fun t =>
        let x := s.xlOf .write (s.refVa t)
        s.mapped .write (s.refVa t) && s.pageOn x && !x.isAp && !s.hazard s.cwg.launch x.loc 4)
      && (m = 0 || if s2.cb.live = 0 then s1.rested && s1.relOver .sys else s2.cb.active ≠ 0 || s2.pathNext.isSome),
    next :=
      if m = 0 then s1.flow (.goto s1.cb.fall)
      else if s1.cb.live &&& ~~~m = 0 then (s2.lastPath s2.sched.cur).finishBeam s2.sched.cur
      else if s1.cb.active &&& ~~~m = 0 then s2.pathNext.getD s2
      else s2.flow (.goto s1.cb.fall) }

/-- A launch record that LAUNCH can read (R138): its parts, one for each page. -/
def State.recordParts (s : State) (f : TF) : List Piece := s.placed .read (partsOf 65536 (s.cb.kPair f.a.num) 512)
def State.recordOf (s : State) (f : TF) : Except Fail (List Byte) := s.readPieces s.cctx none (s.recordParts f)
def State.recordReads (s : State) (f : TF) : Bool :=
  s.cb.active ≠ 0 && (s.recordParts f).all (s.partOk .read) && (s.recordOf f).isOk
/-- The launch may have one more child (R138). -/
def State.childRoom (s : State) : Option Nat :=
  if s.cl.lrec.nest + 1 ≤ min 8 s.cl.lrec.dmax ∧ s.cl.quotaUsed < s.cl.lrec.quota then s.freeEntry else none

/-- The queue words (R337 to R340). -/
def State.queueRow (s : State) : Instr → Option Done
  | .qpush h f =>
    let m := s.part h
    let q := s.queueNo f
    let ts := if f.a.isK then [lowest m] else bitsOf m
    let r := ts.foldl (s.push1 q f) (s, [])
    some {
      ok := s.flagged h true && s.entryFits f.a && s.queueForm f && s.relOver (f.ord.relOr .dev) && (m = 0 || s.queueNamed f),
      next := State.on (if m = 0 then s.fenceOp (.rel (f.ord.relOr .dev)) (s.ctrOf h)
        else if s.engineDown q then s.noReply (s.ctrOf h) (if f.a.isK then BitVec.ofNat 8 (2 ^ lowest m) else m)
        else if !s.queueOk q then s.later (s.ctrOf h) .other (ts.map fun t => s.predWrite f.d t false) (some (queueFault m))
        else r.1.later (s.ctrOf h) .other r.2) }
  | .qpop h f =>
    let m := s.part h
    let q := s.queueNo f
    let m' : BitVec 8 := if f.d.isK then BitVec.ofNat 8 (2 ^ lowest m) else m
    let r := s.eachTurn m' fun s t => s.pop1 q f t
    some {
      ok := s.flagged h true && s.entryFits f.d && s.queueForm f
        && if m = 0 then s.cb.untracked.isNone else s.queueNamed f && (s.engineDown q || !s.queueOk q || s.noTurns),
      next := State.on (if m = 0 then s.fenceOp (.acq (f.ord.acqOr .dev)) (s.ctrOf h)
        else if s.engineDown q then s.noReply (s.ctrOf h) m'
        else if !s.queueOk q then s.later (s.ctrOf h) .other ((bitsOf m').map fun t => s.predWrite f.a t false) (some (queueFault m))
        else (r.close fun q =>
          (if r.ws.any RegWrite.isEntry then q.acquire q.cc (some (f.ord.acqOr .dev)) else q).later (s.ctrOf h) .other r.ws).1) }
  | .qqry h f =>
    let go := if f.d.isK then s.acts h else s.part h != 0
    let x := s.queue (s.queueNo f)
    let v := if x.type ≠ 0 ∧ x.ctx = s.cctx then x.value (f.x 13 3) else 0
    some {
      ok := s.flagged h true && s.within f.d false 1 && s.queueForm f && (!go || s.queueNamed f),
      next := State.on (if go then
          (if s.engineDown (s.queueNo f) then s.noReply (s.ctrOf h) (if f.d.isK then BitVec.ofNat 8 (2 ^ lowest s.cb.active) else s.part h)
          else s.later (s.ctrOf h) .other (s.wrD (s.part h) f.d (fun _ => BitVec.ofNat 32 v) 9))
        else s.later (s.ctrOf h) .other []) }
  | _ => none

/-- Words that wait, and child launches (R138 to R141, R350 to R352). -/
def State.waitRow (s : State) : Instr → Option Done
  | .jwait h f =>
    let d := s.wordDone h f (f.x 0 1 == 1) 0 0
    some { d with ok := s.enabled 3 && d.ok }
  | .await h f =>
    if f.x 12 3 ≠ 0 then some (s.wordDone h f (f.x 0 1 == 1) (f.x 12 3) (s.cb.getK f.b.num).toNat)
    else some {
      ok := !s.acts h || (s.cb.met && (s.cb.raisable (BitVec.ofNat 12 (f.x 0 12))).isNone),
      next := s.flow (.goto s.cb.fall) }
  | .launch h f =>
    let out := fun (s : State) (v : Nat) (ok : Bool) (flt : Option FaultRec) =>
      s.later (s.ctrOf h) .other [.k f.d.num (BitVec.ofNat 32 v), .kp (f.x 0 2) ok] flt
    let runs := (s.recordParts f).flatMap (s.runsOf s.cctx)
    let far := s.farRead runs
    let s1 := (s.recordParts f).foldl (fun s q => (s.fillTlb s.cctx q.va).afterEngine s.cctx q) (far.1.recorded 7 0 s.srcUni (b2n !far.2))
    let raw := (s.recordOf f).toOption.getD []
    some {
      ok := s.enabled 2 && s.flagged h true && s.relOver (f.ord.relOr .dev)
        && (!s.acts h || (s.cb.kPair f.a.num % 64 == 0 && !s.cl.mir && (s.childRoom.isNone || (s.recordReads f && s.farReady runs)))),
      next := State.on (if !s.acts h then s.fenceOp (.rel (f.ord.relOr .dev)) (s.ctrOf h)
        else match s.childRoom with
          | none => out (s.recorded 7 0 s.srcUni 0) 0 false none
          | some e =>
            if far.2 then out s1 0 false (some { code := Code.memoryDataError, addr := s.cb.kPair f.a.num, mask := s.cb.active }) else
            let r := s1.pushChild e (raw.set 68 (BitVec.ofNat 8 (s.cl.lrec.nest + 1)))
            out r.1 r.2 true none) }
  | .lwait h f =>
    let hd := (s.cb.getK f.a.num).toNat
    let acq := some (f.ord.acqOr .dev)
    let p := s.handle s.cctx hd
    let st := match s.cb.endedAs, p with
      | some st, _ => some ((s.childEnded f.d.num hd st).acquire s.cc acq)
      | none, none => some (s.modCb fun b => b.setK f.d.num 8)
      | none, some p =>
        if p.status ≠ 0 ∧ !s.loadsOut s.sched.cur then some ((s.childEnded f.d.num hd p.status).acquire s.cc acq) else none
    some {
      ok := s.enabled 2 && !s.held && if s.acts h then st.isSome else s.cb.untracked.isNone,
      next := if s.acts h then (st.getD s).flow (.goto s.cb.fall) else (s.acquire s.cc acq).flow (.goto s.cb.fall) }
  | .lpoll h f =>
    let hd := (s.cb.getK f.a.num).toNat
    let acq := f.ord.acqOr .dev
    let out := fun (q : State) (v : Nat) (p : Bool) => q.later (s.ctrOf h) .other [.k f.d.num (BitVec.ofNat 32 v), .kp (f.x 0 2) p]
    some {
      ok := s.enabled 2 && s.flagged h true && (s.acts h || s.cb.untracked.isNone),
      next := State.on (if !s.acts h then s.fenceOp (.acq acq) (s.ctrOf h)
        else match s.handle s.cctx hd with
          | none => out s 8 true
          | some p => if p.status ≠ 0 then out ((s.freePool (hd % 4096)).acquire s.cc (some acq)) p.status true else out s 0 false) }
  | .vswitch h f =>
    let skip := !s.cwg.swreq.getLsbD 0 || s.part h == 0
    some {
      ok := bit s.cl.obj.swmask f.tx.toNat && (skip || (s.rested && s.relOver .wg && s.cb.live == s.cb.active && (currentIdx s.cwg.stack s.cb.b).isNone)),
      next := if skip then s.flow (.goto s.cb.fall) else (s.waitAs .waiting (.vswitch f.tx.toNat)).meet s.cb.wg }
  | _ => none

/-- SPAWN, NEMIT and NINFO (R342, R358, R360). -/
def State.spawnRow (s : State) : Instr → Option Done
  | .spawn h f =>
    let m := s.part h
    let e := f.x 0 5
    let join := f.x 5 1 == 1
    let sp := f.x 6 1 == 1
    match s.cl.obj.spawns[e]? with
    | none => none
    | some en =>
      let s0 := s.gatherDue s.cc
      let r := s0.eachTurn m fun q t => q.spawn1 f en.pay (s.joinAt f t) t
      let ended := fun (q : State) =>
        ((if join && !sp then q.fillAll q.cctx m fun t => s0.addrOf f.b true t else q).gather s.cc s.cwg.launch e false 2049).later (s.ctrOf h)
          (if join then .atomic else .other) [] (lostFault r.bad fun t => if join then (s.joinAt f t).addr else 0)
      some {
        ok := s.enabled 3 && s.counts h false && !s.held && s.within f.a false en.pay && s.joinForm f && s.relOver (f.ord.relOr .gang)
          && (m = 0 || (s.joinsOk f m && (bitsOf m).length ≤ s0.spawnRoom s.cwg.launch s.cc && s.noTurns)),
        next := State.on (if m = 0 then s.fenceOp (.rel (f.ord.relOr .gang)) (s.ctrOf h) else (r.close ended).1) }
  | .nemit h f =>
    let m := s.part h
    let r := s.emitAll s.sched.fresh (s.emitsOf h f)
    let gone := if r.2.2 = 0 then none else some { code := Code.memoryDataError, mask := r.2.2 : FaultRec }
    some {
      ok := s.enabled 4 && s.flagged h false && s.within f.a true 2 && (f.x 8 1 ≠ 1 || s.within f.b false 1) && s.relOver (f.ord.relOr .dev)
        && forT m fun t => s.nodeOf f t < s.cl.obj.nodes.length,
      next := State.on (if m = 0 then s.fenceOp (.rel (f.ord.relOr .dev)) (s.ctrOf h)
        else r.1.startOp r.1.sched.cur (s.ctrOf h) { id := 0, beam := 0, uid := 0, ctr := none, emit := r.2.1, fault := gone }) }
  | .ninfo h f => some {
      ok := s.enabled 4 && s.within f.d false 1,
      next := (s.putWord h f.d (fun _ => BitVec.ofNat 32 (s.cwg.binInfo (f.x 0 2))) 9).on }
  | _ => none

/-- EXIT (R349). -/
def State.exitRow (s : State) : Instr → Option Done
  | .exit h f => some (s.exitDone h f)
  | _ => none

/-! ### Prism, film and time (R362 to R382) -/

/-- What a Prism word computes in a thread from its record. -/
abbrev PrismVal := State → Surf → Nat → P (List Nat)

/-- PSMP, PSMPL and PUPS on a record and surfaces that can be read: every thread's eight elements, and the lines that
come into the Prism cache. -/
def State.prismDone (s : State) (h : Hd) (f : TF) (idx : List Nat) (val : PrismVal) : Done :=
  let m := s.part h
  let xs := (idx.map (coord f.a)) ++ [waves f.b]
  let va := s.cb.kPair f.rp.num
  let s0 := s.pAcquire f.ord
  let r : Option ((Nat → List Nat) × Reads) := match (s0.pRecord va).run {} with
    | .error _ => none
    | .ok (g, ls) => (pAll m (val s0 g)).toOption.map fun v => (v.1, ls.and v.2)
  let s1 := s0.orFx m fun t => orAll (xs.map fun x => (s.srcElems x t).2)
  let s2 := { s1 with sched := { s1.sched with freeIdx := s1.sched.freeIdx + 64 } }
  { ok := s.flagged h true && s.within f.a false 4 && s.within f.b true 1 && s.within f.d true 1
      && if m = 0 then s.offOk f.ord else s.readable m xs && va % 64 == 0 && s.orderOk f.ord && r.isSome,
    next := State.on (if m = 0 then s.fenceOp f.ord (s.ctrOf h)
      else r.elim s fun v => ((s2.pHold v.2.lines).touchFar v.2).later (s.ctrOf h) .engineRead ((bitsOf m).map fun t =>
        RegWrite.v (s.tkey t) f.d.num (BitVec.ofNat 256 (ofElems 32 (v.1 t))) (-1) 8 32) none (v.2.cond m)) }

/-- A coordinate of a sample. -/
def State.at3 (s : State) (f : TF) (t i : Nat) : XV := (s.f32s (coord f.a i) t).getD 0 (.nan false)
def State.psmpVal (f : TF) (given : Bool) : PrismVal := fun s g t =>
  let is3 := f.x 11 1 == 1
  s.samples g (f.x 7 2) (f.x 9 2) is3 given ((List.range 4).map fun i => if i = 2 ∧ !is3 then .ofInt 0 else s.at3 f t i)
    (s.f32s (waves f.b) t) (s.sched.freeIdx + 8 * t)
def State.pupsVal (f : TF) : PrismVal := fun s g t =>
  match tableN g with
  | none => throw (.surface (s.cb.kPair f.rp.num))
  | some n => s.spectrum g n ((List.range 3).map (s.at3 f t)) (s.f32s (waves f.b) t)

/-- Pixels that FACC, FRES and FCLR reach (R252). -/
def State.pixelAt (s : State) (f : TF) (t : Nat) : Xl := s.xlOf .write (s.pixel f t)
def State.pixelsOk (s : State) (f : TF) (m : BitVec 8) : Bool :=
  forT m fun t => s.pixel f t % pixelBytes == 0 && s.mapped .write (s.pixel f t) && s.pageOn (s.pixelAt f t) && !(s.pixelAt f t).isAp
def pixelSrc (r : RF) : Src := { f := r, v := true, want := .ty .f32 }
/-- The samples of a thread that fall in a bin (R372). -/
def State.samplesOf (s : State) (f : TF) (t : Nat) : List (Nat × Nat) :=
  filmSamples (s.srcElems (pixelSrc f.a) t).1 (s.srcElems (pixelSrc f.b) t).1
/-- Errors of pixels that cannot be read are counted once for each pixel (R454). -/
def State.pixelErrors (s : State) (x : Nat → Xl) (bad : List Nat) : State :=
  ((bad.map fun t => (x t).loc).eraseDups).foldl (fun s l => s.countUe (s.firstBad l pixelBytes)) s

def State.faccDone (s : State) (h : Hd) (f : TF) : Done :=
  let m := s.part h
  let x := s.pixelAt f
  let dm := mask8 fun t => m.getLsbD t && (x t).det
  let bad := (bitsOf (m &&& ~~~dm)).filter fun t => s.badBytes (x t).loc pixelBytes
  let dropped := (bitsOf m).foldl (fun n t => n + (8 - (s.samplesOf f t).length)) 0
  let s1 := ((s.fillAll s.cctx m (s.pixel f)).drop dropped).pixelErrors x bad
  let s2 := (bitsOf m).foldl (fun (q : State) t =>
    if bad.contains t then q
    else (s.samplesOf f t).foldl (fun q p =>
      if (x t).det then { q with mem := q.mem.filmPart s.cwg.launch s.cb.wg s.cb.b ((x t).loc + 8 * p.1) p.2 }
      else q.addSample (s.engineOf (x t)) (x t).loc p.1 p.2) q) s1
  { ok := s.flagged h false && s.within f.rp false 2 && s.within f.a true 1 && s.within f.b true 1
      && if m = 0 then s.offOk f.ord
        else s.readable m [pixelSrc f.a, pixelSrc f.b] && s.pixelsOk f m
          && forT (m &&& ~~~dm) (fun t => !s.hazard s.cwg.launch (x t).loc pixelBytes)
          && s.detOk ((bitsOf dm).flatMap fun t => (s.samplesOf f t).map fun p => (t, (x t).loc + 8 * p.1)) 4 8 && s.orderOk f.ord,
    next := State.on (if m = 0 then s.fenceOp f.ord (s.ctrOf h)
      else s2.later (s.ctrOf h) .engineWrite [] (lostFault bad (s.pixel f)) (s.condOf true m fun t => [{ va := s.pixel f t, loc := (x t).loc, n := pixelBytes }])) }

def State.fresDone (s : State) (h : Hd) (f : TF) : Done :=
  let m := s.part h
  let x := s.pixelAt f
  let clr := f.x 7 1 == 1
  let bad := (bitsOf m).filter fun t => s.badBytes (x t).loc pixelBytes
  let s1 := ((s.acquire s.cc f.ord.acqAt).fillAll s.cctx m (s.pixel f)).pixelErrors x bad
  let r := (bitsOf m).foldl (fun (r : State × List RegWrite) t =>
    if bad.contains t then r
    else
      let vs := (r.1.bins (x t).loc).map filmValue
      let half := fun (i : Nat) => RegWrite.v (s.tkey t) (f.d.num + i) (BitVec.ofNat 256 (ofElems 32 ((vs.drop (8 * i)).take 8))) (-1) 8 32
      (if clr then r.1.poke (s.engineOf (x t)) (x t).loc (List.replicate pixelBytes 0) else r.1.touch (x t).loc pixelBytes,
        r.2 ++ [half 0, half 1])) (s1, [])
  { ok := s.flagged h true && s.within f.rp false 2 && s.within f.d true 2
      && if m = 0 then s.offOk f.ord
        else s.pixelsOk f m && forT m (fun t => !s.hazard s.cwg.launch (x t).loc pixelBytes) && s.orderOk f.ord,
    next := State.on (if m = 0 then s.fenceOp f.ord (s.ctrOf h)
      else r.1.later (s.ctrOf h) (if clr then .engineWrite else .engineRead) r.2 (lostFault bad (s.pixel f)) (s.condOf clr m fun t => [{ va := s.pixel f t, loc := (x t).loc, n := pixelBytes }])) }

/-- The pixels a thread of FCLR clears, and the parts of their range by page. -/
def State.clearCount (s : State) (f : TF) (t : Nat) : Nat :=
  match f.b with
  | .k r => (s.cb.getK r.toNat).toNat
  | .t r => ((s.th t).getS r.toNat).toNat
def State.clearParts (s : State) (f : TF) (t : Nat) : List (Nat × Nat) := pageParts (s.pixel f t) (pixelBytes * s.clearCount f t)

def State.fclrDone (s : State) (h : Hd) (f : TF) : Done :=
  let m := s.part h
  let va := s.pixel f
  let locs := fun t => (s.clearParts f t).map fun p => (s.xlOf .write (p.1 % 2 ^ 64), p.2)
  let s1 := (bitsOf m).foldl (fun s' t => (s.clearParts f t).foldl (fun s p => s.fillTlb s.cctx (p.1 % 2 ^ 64)) s') s
  let rs := fun t => (locs t).map fun p => (p.1.loc, p.2)
  let r := (bitsOf m).foldl (fun (r : State × List (Nat × Nat)) t =>
    (locs t).foldl (fun (q : State × List (Nat × Nat)) p =>
      let w := q.1.storePart (s.engineOf p.1) ((bitsOf m).flatMap rs) p.1.loc (List.replicate p.2 0)
      (w.1, q.2 ++ w.2.map fun l => (t, l))) r) (s1, [])
  { ok := s.flagged h false && s.within f.rp false 2 && s.within f.b false 1
      && if m = 0 then s.offOk f.ord
        else forT m (fun t => 1 ≤ s.clearCount f t && s.clearCount f t ≤ 65536 && va t % pixelBytes == 0
              && (s.clearParts f t).all fun p => s.mapped .write (p.1 % 2 ^ 64)
                && s.pageOn (s.xlOf .write (p.1 % 2 ^ 64)) && !(s.xlOf .write (p.1 % 2 ^ 64)).isAp)
          && s.orderOk f.ord,
    next := State.on (if m = 0 then s.fenceOp f.ord (s.ctrOf h)
      else (r.1.countUes (r.2.map (·.2))).later (s.ctrOf h) .engineWrite [] (lostFault ((r.2.map (·.1)).eraseDups) va)
        (s.condOf true m fun t => (rs t).map fun p => { va := va t, loc := p.1, n := p.2 })) }

/-- The record TRIGARM reads for a slot that pushes (R380). -/
def State.trigParts (s : State) (va : Nat) (push : Bool) : List Piece := if push then s.placed .read [(va, 64)] else []
def State.trigarmDone (s : State) (h : Hd) (f : TF) : Done :=
  let i := f.x 0 4
  let k0 := (s.cb.getK f.b.num).toNat
  let k1 := (s.cb.getK (f.b.num + 1)).toNat
  let va := s.cb.kPair (f.b.num + 2)
  let ps := s.trigParts va (k0 % 2 == 1)
  let d := s.readPieces s.cctx none ps
  let far := (s.acquire s.cc f.ord.acqAt).farRead (ps.flatMap (s.runsOf s.cctx))
  let s1 := ps.foldl (fun s q => (s.fillTlb s.cctx q.va).afterEngine s.cctx q) far.1
  let unread := fun (s1 : State) => s1.later (s.ctrOf h) .load [] (some { code := Code.memoryDataError, addr := va, mask := s.cb.active })
  let armed := fun record => s1.setTrig i
    { st := if k0 % 4 = 0 then 0 else 1, owned := true, ctx := s1.cctx, t := s1.cb.kPair f.a.num, action := k0 % 4, pins := bits k0 5 2,
      width := bits k0 23 8, queue := k1 % 4096, record := record, dropped := false }
  { ok := s.enabled 6 && s.flagged h true && s.orderOk f.ord
      && if !s.acts h then s.offOk f.ord
        else blockOk k0 k1 va && (ps = [] || (s.cb.active ≠ 0 && ps.all (s.partOk .read) && delivered d && s.farReady (ps.flatMap (s.runsOf s.cctx)))),
    next := State.on (if !s.acts h then s.fenceOp f.ord (s.ctrOf h)
      else match d with
        | .error _ => unread (s1.countLost [0] fun _ => d)
        | .ok record =>
          if far.2 then unread s1
          else if (s1.trig i).st ≠ 0 ∧ (s1.trig i).ctx ≠ s1.cctx then s1.later (s.ctrOf h) .load [.kp f.d.num false]
          else (if (armed record).due i then (armed record).fireTrig i else armed record).later (s.ctrOf h) .load [.kp f.d.num true]) }

/-- The Prism words (R366 to R370). -/
def State.sampleRow (s : State) : Instr → Option Done
  | .psmp h f => some (s.prismDone h f (if f.x 11 1 = 1 then [0, 1, 2, 3] else [0, 1, 3]) (State.psmpVal f false))
  | .psmpl h f => some (s.prismDone h f (if f.x 11 1 = 1 then [0, 1, 2, 3] else [0, 1, 3]) (State.psmpVal f true))
  | .pups h f => some (s.prismDone h f [0, 1, 2] (State.pupsVal f))
  | .pqry h f =>
    let sel := f.x 7 4
    let m := s.part h
    let go := if f.d.isK then s.acts h else m != 0
    let va := s.cb.kPair f.rp.num
    let lvl := fun t => match f.b with
      | .k n => (s.cb.getK n.toNat).toNat
      | .t n => ((s.th t).getS n.toNat).toNat
    let g := ((s.pRecord va).run {}).toOption
    some {
      ok := s.flagged h true && s.within f.d false 1 && (2 ≤ sel || s.within f.b false 1)
        && (!go || ((va % 64 == 0 || (f.d.isK && s.cb.active = 0)) && g.isSome)),
      next := State.on (if go then g.elim s fun g => ((s.pHold g.2.lines).touchFar g.2).later (s.ctrOf h) .engineRead
          (s.wrD m f.d (fun t => BitVec.ofNat 32 (g.1.query sel (lvl t))) (if sel = 5 ∨ sel = 6 then 8 else 9)) none (g.2.cond m)
        else s.later (s.ctrOf h) .engineRead []) }
  | _ => none

/-- The film words (R371 to R376). -/
def State.filmRow (s : State) : Instr → Option Done
  | .facc h f => some (s.faccDone h f)
  | .fres h f => some (s.fresDone h f)
  | .fclr h f => some (s.fclrDone h f)
  | _ => none

/-- TIME and the triggers (R378 to R380). -/
def State.timeRow (s : State) : Instr → Option Done
  | .time h f =>
    let lo := BitVec.ofNat 32 s.timeNow
    let hi := BitVec.ofNat 32 (s.timeNow / 2 ^ 32)
    let ws : List RegWrite := match f.d with
      | .k n => [.k n.toNat lo, .k (n.toNat + 1) hi]
      | .t n => (bitsOf (s.part h)).flatMap fun t => [.s (s.tkey t) n.toNat lo 15, .s (s.tkey t) (n.toNat + 1) hi 15]
    some {
      ok := s.counts h true && s.within f.d false 2,
      next := (s.later (s.ctrOf h) .other (if f.d.isK && !s.acts h then [] else ws)).on }
  | .trigarm h f => some (s.trigarmDone h f)
  | .trigq h f =>
    let v := (s.trig (f.x 0 4)).value s.cctx (f.x 4 2)
    some {
      ok := s.counts h true && s.within f.d false 1,
      next := (s.later (s.ctrOf h) .other (if f.d.isK && !s.acts h then [] else s.wrD (s.part h) f.d (fun _ => BitVec.ofNat 32 v) 9)).on }
  | _ => none

/-! ### Collectives (R383 to R390) -/

def State.collK (s : State) (f : TF) (i : Nat) : Nat := (s.cb.getK (f.b.num + i)).toNat
def State.desc (s : State) (f : TF) : Desc := descOf (s.collK f 0) (s.collK f 1)
/-- The checks of R386 pass. -/
def State.collOk (s : State) (f : TF) : Bool :=
  let d := s.desc f
  let r := s.cl.lrec
  s.collK f 0 < 2 ^ 23 && s.collK f 1 < 2 ^ 26 && d.fw ≤ 5 && d.x0 % 2 ^ d.fw == 0 && d.y0 % 2 ^ d.fh == 0
    && r.x0 ≤ d.x0 && d.x0 + 2 ^ d.fw ≤ r.x0 + 2 ^ r.fw && r.y0 ≤ d.y0 && d.y0 + 2 ^ d.fh ≤ r.y0 + 2 ^ r.fh
    && d.inside d.xr d.yr && d.has s.cc

def State.recvDone (s : State) (bcast : Bool) (h : Hd) (f : TF) : Done :=
  let d := s.desc f
  let ts := ((List.range 4).filter fun t => s.cb.live.getLsbD t).map fun t => (t, s.tkey t)
  { ok := s.enabled 5 && s.flagged h true && s.within f.d true 1
      && if !s.acts h then s.offOk f.ord else s.collOk f && if bcast then d.all else !d.all && s.cc == d.root,
    next := State.on (if !s.acts h then s.fenceOp f.ord (s.ctrOf h)
      else s.later (s.ctrOf h) .other [] none (.coll s.cc s.cwg.launch d.id f.d.num ts f.ord.acqAt)) }

/-- The words of chapter 17. -/
def State.collRow (s : State) : Instr → Option Done
  | .rpkt h f =>
    let d := s.desc f
    let l := s.cwg.launch
    let core := s.cc
    let s0 := s.collDue l d.id
    let x := (s0.coll? core l d.id).getD { k0 := s.collK f 0, k1 := s.collK f 1 }
    let m := s.cb.live &&& 0x0F#8
    let a := pixelSrc f.a
    let vals := (List.range 4).flatMap fun t => if m.getLsbD t then (s.srcElems a t).1 else List.replicate 8 0
    let give := fun (y : Coll) =>
      let y := { y.timed s.sched.clk with contributed := true }
      if y.sent then { y with late := true } else { y with slot := true, own := some vals }
    some {
      ok := s.enabled 5 && s.flagged h false && s.within f.a true 1 && s.orderOk f.ord
        && if !s.acts h then s.offOk f.ord
          else s.collOk f && !x.contributed && x.read == 0 && s.readable m [a] && (x.slot || x.sent || s0.collOpen core < 16),
      next := State.on (if !s.acts h then s.fenceOp f.ord (s.ctrOf h)
        else (((s0.modColl core l (s.collK f 0) (s.collK f 1) give).orFx m fun t => (s.srcElems a t).2).collTry core l (s.collK f 0) (s.collK f 1)).later (s.ctrOf h) .other [] none
          (.rpkt core l d.id)) }
  | .rrecv h f => some (s.recvDone false h f)
  | .rbcast h f => some (s.recvDone true h f)
  | .rstat h f =>
    let go := if f.d.isK then s.acts h else s.part h != 0
    let v := (s.coll? s.cc s.cwg.launch (s.desc f).id).elim 0 fun x => x.value s.cc f.tx.toNat
    some {
      ok := s.enabled 5 && s.flagged h true && s.within f.d false 1 && (!go || s.collOk f),
      next := State.on (if go then s.later (s.ctrOf h) .other (s.wrD (s.part h) f.d (fun _ => BitVec.ofNat 32 v) 9)
        else s.later (s.ctrOf h) .other []) }
  | _ => none

/-! ### System words (R398 to R416) and words of an unallocated opcode (R62) -/

/-- The registers a frame gives back (R400). -/
def State.fromFrame (s : State) (skip : Bool) : State :=
  let kv := fun i => BitVec.ofNat 32 (s.frameField (48 + 4 * i) 4)
  let s1 := s.modCb fun b => (List.range 16).foldl (fun b i => b.setK (48 + i) (kv i)) b
  let s2 := s1.modCb fun b => { b with kp := BitVec.ofNat 4 (s.frameByte 112), active := BitVec.ofNat 8 (s.frameByte 18) &&& s.cb.live, hmode := false }
  let s3 := eachT s.cb.live s2 fun q t => q.modTh t fun x => { x with p := BitVec.ofNat 7 (s.frameByte (120 + t)) }
  s3.modCb fun b => { b with pc := BitVec.ofNat 64 (s.frameField 8 8), pos := s.frameByte 16 + b2n skip, mid := true, buf := [] }
/-- A frame none of whose threads is left: the suspended path has ended (R144). -/
def State.frameGone (s : State) : Bool := BitVec.ofNat 8 (s.frameByte 18) &&& s.cb.live == 0

def State.lineRange (s : State) (f : YF) : Option (List Nat) :=
  (s.lineLocs s.cctx (s.cb.kPair f.a.num) (lineCount f)).toOption

/-- The system words with effects beyond registers. -/
def State.systemRow (s : State) : Instr → Option Done
  | .trap h f => some {
      next := if s.acts h then s.takeTrap s.sched.cur { code := Code.softwareTrap, d0 := imm16 f } s.cb.fall 0 else s.on }
  | .tret _ f =>
    let skip := f.yx.getLsbD 0
    some {
      ok := s.cb.hmode && ownCount s.cwg.stack s.cb.b = s.frameByte 17
        && !(skip && (s.frameField 0 4 == Code.softwareTrap || bit (s.frameByte 6) 0)) && s.frameField 8 8 % 8 == 0
        && (!s.frameGone || (s.fromFrame skip).pathNext.isSome),
      next := if s.frameGone then (s.fromFrame skip).pathNext.getD s else s.fromFrame skip }
  | .halt h f =>
    let r := s.newTicket { kind := 2, ctx := s.cctx, launch := s.cwg.launch, addr := 0, who := s.sched.cur, uid := s.cb.uid }
    let q := r.2
    let e := eventRecord 2 (imm16 f % 256) r.1 0 q.cc (s.sched.cur % 64) q.cb.active.toNat q.cl.lrec.done
    let s1 := q.pushEvent q.cctx q.cdie e
    some {
      ok := !s.acts h || s.evRoom s.cctx s.cdie,
      next := if s.acts h then (s1.endClause s.sched.cur s1.cb.fall).modCb fun b => { b.halt with held := .issuing, wait := .host r.1 } else s.on }
  | .tlbinv h f =>
    some {
      ok := s.flagged h false && s.offOk (.rel .dev),
      next := State.on (if s.acts h then
          s.later (s.ctrOf h) .other [] none (.pages s.cctx (if f.yx.getLsbD 0 then none else some (s.cb.kPair f.a.num)))
        else s.fenceOp (.rel .dev) (s.ctrOf h)) }
  | .cflush h f =>
    let all := f.yx.toNat % 8 == 1
    let q := if all then s.flushAll else s.flush ((s.lineRange f).getD [])
    some {
      ok := s.flagged h false && (all || s.cb.kPair f.a.num % 128 == 0) && s.offOk (.rel .dev) && (!s.acts h || all || (s.lineRange f).isSome),
      next := ((if s.acts h then q else s).later (s.ctrOf h) .other [] none (.fence (.rel .dev))).on }
  | .cinv h f => some {
      ok := s.flagged h false && (f.yx.toNat % 8 == 3 || s.cb.kPair f.a.num % 128 == 0),
      next := (s.later (s.ctrOf h) .other [] none (if s.acts h then .lines (s.cinvOf f) else .now)).on }
  | .unallocatedOpcode _ => some {
      next := s.takeTrap s.sched.cur
        { code := Code.illegalInstruction, d0 := s.cb.word.toNat % 2 ^ 32, d1 := s.cb.word.toNat / 2 ^ 32 } s.cb.pc s.cb.pos }
  | _ => none

/-! ### The machine's own steps -/

/-- What an operation waits for has happened (R34): it may complete; while the Vetik Link retrains, none that awaits the
host (R467). -/
def State.mayFall (s : State) (o : Op) : Bool :=
  !((s.reg 0x543).getLsbD 4 && o.cond.remotes.any fun r => !r.peer) && match o.cond with
  | .now | .bank _ _ _ _ _ | .lines _ | .remote _ => true
  | .fence ord => s.fenceDone o ord
  | .pages _ _ => s.fenceDone o (.rel .dev)
  | .copyEnd core ch seq _ => s.copyEnded core ch seq
  | .copyAt core ch ptr seq _ gang _ => ((s.chan core ch).seenBy gang).reached ptr seq
  | .rpkt core launch id => s.collTaken core launch id
  | .coll core launch id d ts _ => (s.collTake core launch id d ts).isSome
  | .drain wg num _ _ => s.drainDone wg num
  | .held => o.eng.any fun e => s.engineFree o && !s.away o.beam && (s.replay o e).isSome
/-- The state its completion leaves: the bank has loaded, the lines or translations are gone, the status of a copy or
the result of a collective stands in its registers, an engine has started over. -/
def State.fallen (s : State) (o : Op) : State :=
  match o.cond with
  | .bank core n _ _ _ => (s.modCore core fun k => { k with banks := upd k.banks n fun b => { b with loading := 0 } }).complete o
  | .lines c => { s with mem := s.mem.invalidate c }.complete o
  | .pages ctx va => { s with mem := s.mem.dropPages ctx va }.complete o
  | .copyAt core ch _ _ d gang acq =>
    (s.complete { o with writes := [.k d (BitVec.ofNat 32 ((s.chan core ch).seenBy gang).status)] }).acquire (coreOf o.beam) acq
  | .coll core launch id d ts acq =>
    (s.collTake core launch id d ts).elim s fun r => (r.2.complete { o with writes := r.1 }).acquire core acq
  | .held => (o.eng.bind (s.replay o)).getD s
  | _ => s.complete o
/-- A register write that lands before the counter falls (R35): of a v register some elements, of any other all of it. -/
def State.earlyWrite (s : State) (o : Op) : Option RegWrite :=
  match o.writes[s.sched.arg.b - 1]? with
  | some (.v tk n val m tag ew) =>
    let now := m &&& elemBits ew s.sched.arg.value
    if now = 0 then none else some (.v tk n val now tag ew)
  | w => w
/-- What is left of the operation's writes. -/
def State.lateWrites (s : State) (o : Op) : List RegWrite :=
  let k := s.sched.arg.b - 1
  match o.writes[k]? with
  | some (.v tk n val m tag ew) =>
    let later := m &&& ~~~ elemBits ew s.sched.arg.value
    if later = 0 then o.writes.eraseIdx k else o.writes.set k (.v tk n val later tag ew)
  | _ => o.writes.eraseIdx k

/-- Scheduling, traps and waits (R34, R60, R134, R142, R312, R396, R411). -/
def State.stepRow (s : State) : Instr → Option Done
  | .clauseStart =>
    let p := s.pick s.sched.arg.a s.sched.arg.b
    some {
      ok := p.isSome,
      next := p.elim s fun p => s.startOn s.sched.arg.a s.sched.arg.b p.1 }
  | .forcedSwitch =>
    let p := s.pick s.sched.arg.a s.sched.arg.b
    some {
      ok := p.any fun p => decide (p.2 = Pick.forced),
      next := p.elim s fun p => s.startOn s.sched.arg.a s.sched.arg.b p.1 }
  | .overdueBeam =>
    let p := s.pick s.sched.arg.a s.sched.arg.b
    some {
      ok := p.any fun p => decide (p.2 = Pick.overdue),
      next := p.elim s fun p => s.startOn s.sched.arg.a s.sched.arg.b p.1 }
  | .handlerEntry =>
    let bk := s.sched.arg.a
    let b := s.beam bk
    some {
      ok := ((look s.beams bk).bind (·.pend)).isSome && b.st ≠ BeamSt.halted,
      next := b.pend.elim s fun t =>
        let q := (s.modBeam bk fun b => { b with pend := none }).takeTrap bk t b.pc b.pos
        if (q.beam bk).st = .ready then q.gate bk else q }
  | .counterFall =>
    match s.ops.find? fun o => o.id == s.sched.arg.a with
    | none => none
    | some o =>
      let free := coreOf o.beam < 256 && !s.requested o
      if 0 < s.sched.arg.b then some {
        ok := free && decide (o.cond = OpCond.now) && (s.earlyWrite o).isSome,
        next := (s.earlyWrite o).elim s fun w => { s.land o.beam w with
          ops := s.ops.map fun x => if x.id = o.id then { x with writes := s.lateWrites o } else x } }
      else if o.emit = [] then some {
        ok := free && s.mayFall o,
        next := s.fallen o }
      else
        let q := s.emitOp o
        match q.ops.find? fun x => x.id == o.id with
        | none => some { ok := free, next := q }
        | some o' => some {
            ok := free && decide (o'.emit ≠ o.emit) && (decide (o'.emit ≠ []) || q.mayFall o'),
            next := if o'.emit = [] then (q.fallen o').emitted o.emit else q }
  | .beamWake =>
    let bk := s.sched.arg.a
    let b := s.beam bk
    let w := if b.st = BeamSt.waiting then s.waitOver bk else s.eventCome bk
    let s1 := match b.wait with
      | .barrier core off _ => if b.st = BeamSt.waiting then s.barCount (sramKey core off) false else s
      | _ => s
    some {
      ok := (look s.beams bk).isSome && (b.st == BeamSt.parked || (b.st == BeamSt.waiting && b.pend.isNone)) && w.isSome,
      next := w.elim s fun w =>
        let s2 := s1.modBeam bk fun b => { b with st := .ready, wait := w }
        if b.st = BeamSt.waiting then s2 else s2.bind bk }
  | .mirrorTurn =>
    let bk := s.sched.arg.a
    let b := s.beam bk
    some {
      ok := (look s.beams bk).isSome && b.st == BeamSt.waiting && b.pend.isNone && (match b.wait with
        | .mirror ts => s.turnCome bk ts
        | _ => false),
      next := s.modBeam bk fun b => { b with st := .ready, wait := .none } }
  | .instructionLineFill =>
    let r := s.fetchLine s.sched.arg.a s.sched.arg.b s.sched.arg.c
    some {
      ok := r.isOk,
      next := match r with
        | .ok q => q
        | .error _ => s }
  | .launchLevelTrap =>
    let l := s.sched.arg.a
    let x := s.launch l
    some {
      ok := if x.trapped.isNone then s.mirrorLost l
        else !x.st.final && s.quiet (fun g => g.launch == l) (s.gangsOf l) && s.evRoom x.ctx x.owner,
      next := match x.trapped with
        | none => s.launchTrap l Code.mirrorDiverge 0
        | some d => (((s.discardLaunch l).writeLog l).endLaunch l 7 d .done).pushEvent x.ctx x.owner
            (dispatcherEvent 4 (d % 256) 0 x.owner x.lrec.done) }
  | .detApplication =>
    let wg := s.sched.arg.a
    let g := s.wg wg
    some {
      ok := (look s.wgs wg).isSome && s.isFirst wg g && ((match g.drains with | d :: _ => s.drainReady wg d.num | [] => false) || (g.drains == [] && g.retired && s.mem.partials.any fun p => p.wg == wg)),
      next := match g.drains with
        | d :: ds => (s.applyParts wg fun p => p.drain == some d.num).modWg wg fun g => { g with drains := ds }
        | [] => s.applyParts wg fun _ => true }
  | _ => none

/-- The best of the launches waiting for a die's dispatcher (R126). -/
def State.bestCand (s : State) (die : Nat) : Option Cand :=
  (s.cands die).foldl (fun m c => match m with
    | none => some c
    | some b => if c.before b then some c else some b) none

/-- Dispatchers, groups, bins and switch requests (R126 to R139, R342 to R359). -/
def State.dispatchRow (s : State) : Instr → Option Done
  | .dispatcherTake =>
    let die := s.sched.arg.a
    let c := s.bestCand die
    let q := match c.map (·.src) with
      | some (.inl q) => q
      | _ => 0
    let fromQueue := (s.takeHead q die ((c.map (·.age)).getD 0)).map fun x => x.2.2.check x.1 (some x.2.1)
    let t := match c.map (·.src) with
      | some (.inr l) => some (s.check l none)
      | some (.inl _) => fromQueue
      | none => none
    match s.discardable die with
    | some (q, .unreadable r c) => some {
        ok := s.evRoom (s.queue q).ctx die,
        next := (s.discardHead q).pushEvent (s.queue q).ctx die (dispatcherEvent 6 c r die 0) }
    | some (q, _) => some { next := s.discardHead q }
    | none => some {
        ok := t.isSome,
        next := t.getD s }
  | .reservationHold =>
    let l := s.sched.arg.a
    let x := s.launch l
    let p := (s.planGangs l x.toReserve x.nextG [] []).filter fun p => s.firstToPlace l (p.flatMap fun q => x.coresAt q.2)
    let pos := fun (G core : Nat) => (x.coresAt (((x.plan.find? fun q => q.1 == G).map (·.2)).getD (0, 0))).idxOf core
    some {
      ok := s.mayReserve l && (x.plan ≠ [] || p.isSome),
      next := if x.plan = [] then
          p.elim s fun p => s.modLaunch l fun x => { x with plan := p, todo := coreOrder (p.flatMap fun q => (x.coresAt q.2).map fun c => (q.1, c)) }
        else match x.todo with
          | [] => s.commit l
          | (G, core) :: rest =>
            match s.holdCore l G core (pos G core) (s.allHolds.filter fun h => h.1 ≠ l) x.holds with
            | some h => s.modLaunch l fun x => { x with holds := x.holds ++ h, todo := rest }
            | none => s.release l (s.holdCore l G core (pos G core) [] x.holds).isSome }
  | .reservationBackoff =>
    let l := s.sched.arg.a
    some {
      ok := (s.launch l).backoff ≠ 0 && (s.launch l).backoff ≤ s.sched.clk,
      next := s.modLaunch l fun x => { x with backoff := 0 } }
  | .launchCompletionRecord =>
    let l := s.sched.arg.a
    let x := s.launch l
    some {
      ok := x.st == LaunchSt.ending && x.trapped.isNone && !(s.mem.partials.any fun p => p.launch == l),
      next := (s.writeLog l).endLaunch l 1 0 .done }
  | .swreqSet =>
    let wg := s.sched.arg.a
    let g := s.wg wg
    let r := (List.range g.variant).findSome? fun m => (s.switchFit wg m).map fun h => (m, h)
    some {
      ok := (look s.wgs wg).isSome && s.maySwitch g && r.isSome,
      next := r.elim s fun r => s.setSwreq wg r.1 r.2 }
  | .spawnGatherTimer =>
    let core := s.sched.arg.a
    let l := s.sched.arg.b
    let e := s.sched.arg.c
    let w := s.waitingAt core l e
    some {
      ok := core < 256 && s.overdueFirst core == some (l, e) && !(s.launch l).mir && w.head?.any fun it => decide (it.at_ + 256 ≤ s.sched.clk),
      next := s.formGroup core l e (w.take ((s.launch l).groupSize e)) }
  | .spawnGroupPlace =>
    let core := s.sched.arg.a
    let g := (s.core core).groups.head?
    let f := g.bind fun g => s.groupFit core g
    some {
      ok := (g.any fun g => decide ((s.gang g.gang).st = .placed) && (s.launch g.launch).trapped.isNone) && f.isSome,
      next := match g, f with
        | some g, some f => s.placeGroup core g f
        | _, _ => s }
  | .spillRefill =>
    let core := s.sched.arg.a
    let q := s.sched.arg.b
    let s1 := s.refillSpawn q core 2048
    some {
      ok := core < 256 && s.spilled q core ≠ [] && (s.core core).spawnQ.length < 2048,
      next := (((s1.core core).spawnQ.map fun i => (i.launch, i.e)).eraseDups).foldl
        (fun s p => s.gather core p.1 p.2 false 2049) s1 }
  | .parkReload =>
    let core := s.sched.arg.a
    let bs := s.beams.filter fun b => coreOf b.1 == core && b.2.st == BeamSt.evicted && (s.eventCome b.1).isSome
    let r := (oldest bs).bind fun b => (s.eventCome b.1).bind fun w =>
      (s.oneBeam core (s.wg b.2.wg).nv (s.wg b.2.wg).ns).map fun slots => s.reload b.1 slots w
    some {
      ok := r.isSome,
      next := r.getD s }
  | .binFireTimer =>
    let l := s.sched.arg.a
    let x := s.launch l
    let b := x.openBin s.sched.arg.b
    let n := x.obj.nodes[s.sched.arg.b]?
    some {
      ok := !x.mir && (match b, n with
        | some b, some n => decide (b.opened + 1000 * n.timer ≤ s.now)
        | _, _ => false),
      next := b.elim s fun b => s.fireBin l b true }
  | .binLaunch =>
    let l := s.sched.arg.a
    let x := s.launch l
    let first := (x.bins.filter (·.fired)).foldl (fun m b => match m with
      | none => some b
      | some y => if b.order < y.order then some b else some y) (none : Option Bin)
    let r := first.bind fun b => (x.obj.nodes[b.node]?).bind fun n =>
      (x.lrec.cores.findSome? fun c => (s.fitVariant l c s.allHolds none).map fun f => (c, f)).map fun r => s.placeBin l r.1 b n r.2
    some {
      ok := x.trapped.isNone && !x.suspended && r.isSome,
      next := r.getD s }
  | _ => none

/-- The ticket a value of FAULT_RESUME names, and its number. -/
def State.ticketNo (s : State) : Nat := s.sched.arg.value.toNat % 2 ^ 24
def State.ticketOf (s : State) : Option Ticket := look s.tickets s.ticketNo

/-- Pre-emption (R405 to R410). -/
def State.preemptRow (s : State) : Instr → Option Done
  | .preemptRequest =>
    let l := s.sched.arg.a
    let o := s.without ((s.gangs.filter fun g => g.2.st == GangSt.halting).map (·.1))
    let vs := o.chooseVictims l [] o.victims
    some {
      ok := s.mayPreempt l && (o.wouldTake l).isNone && vs.isSome,
      next := vs.elim s fun vs => vs.foldl State.preempt s }
  | .preemptSuspend =>
    let l := s.preemptTarget s.sched.arg.value.toNat
    some {
      ok := !(s.reg 0x307).getLsbD 0 && l.any fun l => !(s.launch l).suspended && (!(s.gangsOf l).isEmpty || s.evRoom (s.launch l).ctx (s.launch l).owner),
      next := l.elim s fun l =>
        let s1 := s.modLaunch l fun x => { x with suspended := true, owesSaved := true, holds := [], plan := [], todo := [] }
        ((s1.gangsOf l).foldl State.preempt s1).savedEvent l }
  | .preemptResume =>
    let l := s.preemptTarget s.sched.arg.value.toNat
    some {
      ok := (s.reg 0x307).getLsbD 0 && l.any fun l => (s.launch l).suspended,
      next := l.elim s fun l => s.modLaunch l fun x => { x with suspended := false } }
  | .gangSave =>
    let id := s.sched.arg.a
    let g := s.gang id
    let x := s.launch g.launch
    some {
      ok := g.st == GangSt.halting && x.trapped.isNone && s.drainedGang id && s.poolRoom x.ctx [id] && (!x.owesSaved || s.evRoom x.ctx x.owner),
      next :=
        let s1 := (List.range (g.w * g.h)).foldl (fun s c => s.saveCore id g.launch (g.coreAt c) c) s
        (({ s1 with gangs := upd s1.gangs id fun g => { g with st := .saved } }).saveBytes x.ctx id).savedEvent g.launch }
  | .gangResume =>
    let id := s.sched.arg.a
    let g := s.gang id
    let x := s.launch g.launch
    let p := (s.resumeAt id).filter fun p => s.firstToPlace g.launch (p.2.map (·.dst))
    some {
      ok := g.st == GangSt.saved && !x.suspended && x.trapped.isNone && p.isSome,
      next := p.elim s fun p =>
        let s1 := p.2.foldl (fun s r => s.restoreCore id r) s
        let s2 := { s1.fresh.2 with gangs := upd s1.fresh.2.gangs id fun g => { g with st := .placed, x := p.1.1, y := p.1.2, placed := s1.fresh.1 } }
        ((s2.beamsOf fun g => g.gang == id).foldl State.resumeBeam (s2.unbindGang id)).notify }
  | _ => none

/-- A request over a link gets no completion (R462, R467): one of a copy command, or one of an operation, whose threads
meet the error while its other requests go on. -/
def State.unanswered (s : State) (peer : Bool) (who : Nat) : Option State :=
  if s.sched.arg.flag then s.copyTimeout (who / 8) (who % 8) peer
  else match s.ops.find? fun o => o.id == who with
    | none => none
    | some o => match (o.requests peer)[s.sched.arg.c]? with
      | none => none
      | some r =>
        let s1 := (if r.undo = [] then s else s.undo r.undo).unloaded o.cond r
        some ({ s1 with ops := s1.ops.map fun (x : Op) => if x.id = o.id then ({ x with cond := x.cond.without r } : Op) else x }.loseThreads o r.mask r.va)

/-- What the host answers, pushes and arms, and links that time out (R333 to R341, R401 to R403, R462, R467). -/
def State.hostRow (s : State) : Instr → Option Done
  | .faultResumeRetry =>
    let t := s.ticketOf.getD { kind := 0, ctx := 0, launch := 0, addr := 0, who := 0 }
    let s1 := s.awake.dropPage t.ctx t.addr
    let s2 := { s1 with tickets := del s1.tickets s.ticketNo }
    some {
      ok := s.ticketOf.isSome && t.kind ≠ 2,
      next := if t.kind = 3 ∧ !t.engine then s2.modChan (t.who / 8) (t.who % 8) fun x => { x with stalled := none } else s2 }
  | .faultResumeAbort =>
    let t := s.ticketOf.getD { kind := 0, ctx := 0, launch := 0, addr := 0, who := 0 }
    let q := s.awake
    let mask := ((q.chan (t.who / 8) (t.who % 8)).running.map (·.mask)).getD 0
    some {
      ok := s.ticketOf.isSome,
      next := if t.kind = 3 ∧ !t.engine then
          q.endCopy (t.who / 8) (t.who % 8) 4 (some { code := Code.copyFault, addr := t.addr, mask := mask }) t.addr
        else ({ q with tickets := del q.tickets s.ticketNo }).launchTrap t.launch (if t.kind = 2 then Code.beamHalt else Code.pageFault) 0 }
  | .faultResumeContinue =>
    let t := s.ticketOf.getD { kind := 0, ctx := 0, launch := 0, addr := 0, who := 0 }
    let s1 := { s.awake with tickets := del s.awake.tickets s.ticketNo }
    some {
      ok := s.ticketOf.isSome && t.kind = 2,
      next := if s1.away t.who || (s1.launch t.launch).trapped.isSome then s1.modBeam t.who fun b => { b with wait := .none }
        else (s1.modBeam t.who fun b => { b with wait := .none, st := b.held }).yieldLane t.who }
  | .eventBufferDrain =>
    let ctx := s.sched.arg.b
    let key := s.sched.arg.a * 16 + ctx
    some {
      ok := (look s.evbuf key).isSome && (s.evQueue ctx).isSome,
      next := (s.drainEvents key ctx ((look s.evbuf key).getD [])).notify }
  | .hostPush =>
    let off := s.sched.arg.a
    let ctx := (off - 0x400000) / 0x40000
    let q := off % 0x40000 / 64
    let s1 := s.awake
    let x := s1.queue q
    some {
      ok := 0x400000 ≤ off && off < 0x800000,
      next :=
        if s.sched.arg.flag then { s1 with reply := List.replicate 64 0 }
        else if s.sched.arg.bytes.length ≠ 64 ∨ off % 64 ≠ 0 then { s1 with pushReply := 2 }
        else if !s1.memReady then { s1 with pushReply := 3 }
        else if s1.engineDown q then { s1.draw.2 with pushReply := 1 + s1.draw.1 % 3 }
        else if x.type = 0 ∨ x.type = 3 ∨ x.ctx ≠ ctx then { s1 with pushReply := 2 }
        else if x.cap ≤ x.depth then { s1 with pushReply := 1 }
        else { (s1.fresh.2.pushEntry q (if x.type = 2 then s1.fresh.1 else 0) s.sched.arg.bytes).notify with pushReply := 0 } }
  | .queueArm =>
    let q := s.sched.arg.value.toNat % 4096
    let s1 := s.awake
    let a := s1.reg64 0x303 + 32 * q
    some {
      ok := !s.spillsTo q,
      next := { s1 with queues := put s1.queues q (if inOneRegion a 32 && !s1.badBytes a 32 then queueOf (s1.mem.read a 32) else {}) } }
  | .ualinkTimeout =>
    let p := s.sched.arg.a
    let t := s.unanswered true s.sched.arg.b
    some {
      ok := p < 8 && t.isSome,
      next := t.elim s fun t => t.bump (0x482 + 4 * p) }
  | .vetikTimeout =>
    let t := s.unanswered false s.sched.arg.a
    some {
      ok := t.isSome,
      next := t.elim s fun t => t.bump 0x546 }
  | _ => none

/-- The running command of the channel a step names, and what its next unit comes to. -/
def State.chanRun (s : State) : Option CopyCmd := (s.chan s.sched.arg.a s.sched.arg.b).running
def State.chanUnit (s : State) : List (CopyDst × Byte) × Option CopyStop := s.chanRun.elim ([], none) (s.copyUnit s.sched.arg.a)

/-- Copy channels, routers and the time unit (R320 to R331, R377 to R390). -/
def State.unitRow (s : State) : Instr → Option Done
  | .copyCommandStart =>
    let x := s.chan s.sched.arg.a s.sched.arg.b
    some {
      ok := x.running.isNone && x.queue.head?.any fun c => decide ((s.gang c.gang).st = .placed) && (s.launch c.launch).trapped.isNone,
      next := s.modChan s.sched.arg.a s.sched.arg.b Chan.start }
  | .copyWpAdvance =>
    let core := s.sched.arg.a
    let x := s.chan core s.sched.arg.b
    let us := s.chanUnit.1
    let waits := fun (c : CopyCmd) => (s.reg 0x543).getLsbD 4 && (List.range us.length).any fun j => (s.copyFar c (c.done + j)).any fun y => isHost y.2.1
    some {
      ok := s.chanRun.isSome && x.stalled.isNone && (s.chanRun.all fun c => c.done ≠ c.len && !s.copyHeld c && !waits c) && us ≠ [],
      next := s.chanRun.elim s fun c =>
        let kept := s.keepOver core c (c.done + us.length) us
        let s1 := { s with sched := { s.sched with freeIdx := s.sched.freeIdx + c.len } }
        let s2 := us.foldl (fun s u => s.putCopy core c.ctx u.1 u.2) (s1.copySeen c us.length)
        (s2.mend (us.map (·.1))).modChan core s.sched.arg.b fun x =>
          { x with running := some { c with done := c.done + us.length, lost := kept }, wp := min (x.wp + us.length) (2 ^ 32 - 1) } }
  | .copyCommandEnd => some {
      ok := s.chanRun.any fun c => c.done = c.len || (c.cancel && c.stop.all fun p => p ≤ c.done),
      next := s.chanRun.elim s fun c => s.endCopy s.sched.arg.a s.sched.arg.b (if c.cancel then 2 else 1) none 0 }
  | .copyFaultStall =>
    let core := s.sched.arg.a
    let ch := s.sched.arg.b
    let x := s.chan core ch
    let e : Option CopyStop := match s.chanUnit with
      | ([], e) => e
      | _ => none
    let ends := fun (s : State) (c : CopyCmd) (last code a : Nat) => s.endCopy core ch last (some { code := code, addr := a, mask := c.mask }) a
    some {
      ok := s.chanRun.isSome && x.stalled.isNone && e.isSome && s.chanRun.all fun c => c.done ≠ c.len && !s.copyHeld c && match e with
        | some (.page _ _) => s.evRoom c.ctx (core % 32 / 16)
        | _ => true,
      next := match s.chanRun, e with
        | some c, some (.page a cause) =>
          let r := s.newTicket { kind := 3, ctx := c.ctx, launch := c.launch, addr := a, who := core * 8 + ch }
          (r.2.pushEvent c.ctx (core % 32 / 16) (eventRecord 3 cause r.1 a core (64 + ch) 0 (r.2.launch c.launch).lrec.done)).modChan core ch fun x =>
            { x with stalled := some r.1, faultAddr := a }
        | some c, some (.data a loc) => ends (loc.elim s s.countUe) c 3 Code.memoryDataError a
        | some c, some (.aperture a) => ends s c 5 Code.apertureWrite a
        | some c, some (.hazard a) => ends s c 6 Code.detReadHazard a
        | some c, some (.surface a) => ends s c 7 Code.copyFault a
        | some c, some (.feature n) => s.launchTrap c.launch Code.featureDisabled n
        | _, _ => s }
  | .routerPacketArrival =>
    let p := look s.net s.sched.arg.a
    let s1 := { s with net := del s.net s.sched.arg.a }
    some {
      ok := p.any fun p => match p.kind with
        | .part _ _ _ =>
          let s := s.collDue p.launch (descOf p.k0 p.k1).id
          (s.coll? p.dst p.launch (descOf p.k0 p.k1).id).any (fun c => c.sent || c.slot) || s.collOpen p.dst < 16
        | .flush => true
        | .result _ _ _ => true
        | .notice => false,
      next := p.elim s fun p =>
        let d := descOf p.k0 p.k1
        match p.kind with
        | .part dir v m =>
          let s := s.collDue p.launch d.id
          let s1 := { s with net := del s.net s.sched.arg.a }
          if ((s.coll? p.dst p.launch d.id).map (·.sent)).getD false then (s1.modColl p.dst p.launch p.k0 p.k1 fun c => c.timed s.sched.clk).collAck p dir
          else ((s1.modColl p.dst p.launch p.k0 p.k1 fun c => { c.timed s.sched.clk with slot := true, kids := put c.kids dir (v, m) }).collAck p dir).collTry
            p.dst p.launch p.k0 p.k1
        | .flush => s1.collFlush p.dst p.launch p.k0 p.k1
        | .result v m t => (s1.modColl p.dst p.launch p.k0 p.k1 fun c => { c with result := some (v, m, t) }).sendDown p.dst p.launch p.k0 p.k1
            (d.childDirs p.dst) (.result v m t)
        | .notice => s }
  | .collectiveTimeout =>
    let core := s.sched.arg.a
    let l := s.sched.arg.b
    let c := s.coll? core l s.sched.arg.c
    some {
      ok := c.any fun c => c.due s.sched.clk,
      next := c.elim s fun c =>
        let d := descOf c.k0 c.k1
        let s1 := s.modColl core l c.k0 c.k1 fun c => { c with expired := true }
        if core = d.root then s1.collFlush core l c.k0 c.k1
        else s1.sendPkt { launch := l, id := d.id, k0 := c.k0, k1 := c.k1, dst := d.root, kind := .notice } }
  | .expiryNotice =>
    let p := look s.net s.sched.arg.a
    some {
      ok := p.any fun p => p.kind = .notice,
      next := p.elim s fun p => ({ s with net := del s.net s.sched.arg.a }).collFlush p.dst p.launch p.k0 p.k1 }
  | .timeTick =>
    let f : Int := 2 ^ 32 + s.time.rate + s.time.frac
    some {
      ok := s.time.run,
      next := (s.modTime fun u => { u.addNs (f / 2 ^ 32) with frac := (f % 2 ^ 32).toNat }).compareAll }
  | .ppsEdge => some {
      ok := s.time.ppsen,
      next := s.modTime fun u => { u with pps := s.now % 2 ^ 64 } }
  | .timeStep => some {
      next := (s.awake.modTime fun u => u.addNs (sext 64 (u.stepLo + 2 ^ 32 * s.sched.arg.value.toNat))).compareAll }
  | .triggerFire => some {
      ok := (s.trig s.sched.arg.a).st == 1 && (s.trig s.sched.arg.a).t ≤ s.now,
      next := s.fireTrig s.sched.arg.a }
  | .pinPulseEnd =>
    let due := fun (p : Nat × Nat) => p.1 == s.sched.arg.a && p.2 ≤ s.sched.clk
    some {
      ok := s.time.pulses.any due,
      next := s.modTime fun u => { u with pulses := u.pulses.filter fun p => !due p } }
  | _ => none

/-- The header of the packet a step names. -/
def State.pkt (s : State) : Pkh := pkhOf s.sched.arg.hdr
/-- Its flits on the link of its stack: each one's damage is as the step says (R450). -/
def State.flight (s : State) : Option (Bool × LinkDir) :=
  (s.link s.sched.arg.a).req.send s.packet s.sched.arg.c s.sched.arg.value
/-- A packet of a kind reaches a base die whole: its link is up and not in training, its tag is free (R450 to R452). -/
def State.atStack (s : State) (kind : Nat) : Bool :=
  s.sched.arg.a < 8 && s.pkt.kind = kind && !s.stackDown s.sched.arg.a && !s.training s.sched.arg.a
    && (s.link s.sched.arg.a).tagFree s.pkt && s.flight.any (·.1)
/-- The state in which a base die has the packet: its flits stand in the replay buffer. -/
def State.landed (s : State) : State :=
  s.flight.elim s fun r => s.modLink s.sched.arg.a fun l => { l with req := r.2 }
/-- The sectors a packet names. -/
def Pkh.sectors (p : Pkh) : List Nat := (List.range p.secs).map fun i => p.addr / 32 + i

/-- Sector i of a write is dropped (R454): its codeword cannot be read, and the write does not replace it whole. -/
def Pkh.dropped (p : Pkh) (m : Mem) (ms : List (BitVec 32)) (i : Nat) : Bool :=
  (m.badCodeword (p.addr + 32 * i)).isSome && ms.getD i 0 ≠ (-1)

/-- The frame of a list that was asked for most, the first of them. -/
def hottest : List (Nat × HotFrame) → Option (Nat × HotFrame)
  | [] => none
  | f :: l => match hottest l with
    | none => some f
    | some g => if f.2.count < g.2.count then some g else some f
/-- A frame is nominated; a pinned one only counts in HOT_SKIP (R458, R459). -/
def State.offer (s : State) (kind k : Nat) (f : Nat × HotFrame) : State :=
  if f.2.pin then s.bump (stackReg k 6) else s.nominate kind k f.1 f.2.count

/-- Memory stacks and links (R448 to R467). -/
def State.stackRow (s : State) : Instr → Option Done
  | .packetRd =>
    let k := s.sched.arg.a
    let p := s.pkt
    let s1 := s.landed.trackHot p false
    let s2 := s1.corrected 3 p.addr (32 * p.secs)
    some {
      ok := s.atStack 0 && sectorsOk k p,
      next := match p.sectors.find? fun x => (s1.mem.badCodeword (32 * x)).isSome with
        | some x => (s1.requestUe (32 * x)).answer k p 1 []
        | none => s2.answer k p 0 ((List.range (32 * p.secs)).map fun i => s2.mem.dieByte (p.addr + i)) }
  | .packetWr =>
    let k := s.sched.arg.a
    let p := s.pkt
    let s1 := s.landed.trackHot p false
    let ms := s.sched.arg.masks
    let is := List.range p.secs
    let good := is.filter fun i => !p.dropped s1.mem ms i
    let bad := is.filter (p.dropped s1.mem ms)
    let s2 := bad.head?.elim s1 fun i => s1.requestUe (p.addr + 32 * i)
    let s3 := { s2 with mem := s2.mem.renew ((good.filter fun i => ms.getD i 0 == (-1)).map fun i => p.addr / 32 + i) }
    let put := fun (m : Mem) i => (List.range 32).foldl (fun m j =>
      if (ms.getD i 0).getLsbD j then m.hbmPut (p.addr + 32 * i + j) (s.sched.arg.bytes.getD (32 * i + j) 0) else m) m
    let s4 := { s3 with mem := good.foldl put s3.mem }
    some {
      ok := s.atStack 1 && sectorsOk k p && decide (ms.length = p.secs) && decide (s.sched.arg.bytes.length = 32 * p.secs),
      next := ((((good.map fun i => (p.addr / 32 + i) / 8).eraseDups).foldl (fun s b => s.recode p.rcd b) s4).notify).answer k p
        (if bad = [] then 0 else 1) [] }
  | .packetAtom =>
    let k := s.sched.arg.a
    let p := s.pkt
    let x := if s.sched.arg.bytes.length = 32 then atomOf p s.sched.arg.bytes else none
    some {
      ok := s.atStack 2 && x.any fun x => isHbm (p.addr + atomSize x.ty - 1) && stackOf p.addr == k,
      next := x.elim s fun x =>
        let r := (s.landed.trackHot p true).dieAtomic { nc := true, rcd := p.rcd } p.addr x
        match r.2 with
        | some o => r.1.answer k p 0 (bytesOfNat 32 o)
        | none => r.1.answer k p 1 [] }
  | .packetQcmd =>
    let k := s.sched.arg.a
    let r := s.sched.arg.cmd.bind fun c => if s.pkt.opw = qcmdCode c then s.landed.queueCmd k c else none
    some {
      ok := s.atStack 3 && r.isSome,
      next := r.elim s fun r => r.1.answer k s.pkt 0 (beats r.2) }
  | .packetCtl =>
    let k := s.sched.arg.a
    let rsp := s.sched.arg.flag
    let d := if rsp then (s.link k).rsp else (s.link k).req
    let d1 := { d with asked := false, fails := d.fails + 1 }
    some {
      ok := k < 8 && !s.stackDown k && !s.training k && s.pkt.kind = 4 && d.asked && d.fails < 8 && d.bad = some (s.pkt.opw % 256),
      next := (s.bump (stackReg k 1)).modLink k fun l => if rsp then { l with rsp := d1 } else { l with req := d1 } }
  | .packetRsp =>
    let k := s.sched.arg.a
    let l := s.link k
    let r := l.rsps.find? fun r => r.1 == s.sched.arg.b
    let tag := fun (n : Nat) => (l.tags.find? fun t => t.tag == n).getD { tag := n, tc := 0 }
    let w := r.bind fun r => l.rsp.send (rspPacket r.1 (tag r.1).tc r.2.1 r.2.2) s.sched.arg.c s.sched.arg.value
    some {
      ok := r.isSome && (s.stackDown k || (!s.training k && w.any (·.1))),
      next := r.elim s fun r => (s.served (tag r.1) r.2.1).modLink k fun l =>
        { l with tags := l.tags.filter fun t => t.tag ≠ r.1, rsps := l.rsps.erase r,
                 rsp := if s.stackDown k then l.rsp else w.elim l.rsp (·.2) } }
  | .linkRetrain =>
    let k := s.sched.arg.a
    let st := s.stkStat k
    let keep := bits st 6 6 * 64
    let spare := bits st 5 3
    let s1 := s.bump (stackReg k 2)
    let down := (s1.setStk k (keep + 8 * spare + 2)).modLink k fun l => { l with rsps := l.tags.map fun t => (t.tag, 2, []) }
    some {
      ok := k < 8 && !s.stackDown k && (s.link k).mustTrain,
      next :=
        if !s.sched.arg.flag then
          if (s.link k).trainFails + 1 = 4 then down
          else (s1.setStk k (keep + 8 * spare + 4)).modLink k fun l => { l with trainFails := l.trainFails + 1 }
        else if 4 < spare + s.sched.arg.b then down
        else (s1.setStk k (keep + 8 * (spare + s.sched.arg.b) + 1)).modLink k fun l =>
          { l with req := { l.req with fails := 0, asked := false }, rsp := { l.rsp with fails := 0, asked := false }, trainFails := 0 } }
  | .ualinkPortRetrain =>
    let p := s.sched.arg.a
    let st := (s.reg (0x483 + 4 * p)).toNat
    let n := bits st 1 1 + s.sched.arg.b
    some {
      ok := p < 8 && !bit st 2,
      next :=
        if s.sched.arg.c = 1 then s.bump (0x480 + 4 * p)
        else if s.sched.arg.c = 2 then s.bump (0x481 + 4 * p)
        else s.setReg (0x483 + 4 * p) (BitVec.ofNat 32 (if n ≤ 1 then 1 + 2 * n else 2 * bits st 1 1 + 4)) }
  | .vetikRetrain =>
    let st := (s.reg 0x543).toNat
    let l := (look s.ports 8).getD {}
    let c := s.sched.arg.c
    let spare := bits st 2 1
    let trained := fun (v : Nat) (fails : Nat) => { s.setReg 0x543 (BitVec.ofNat 32 v) with ports := put s.ports 8 { l with trainFails := fails } }
    let down :=
      let q := trained (2 * spare + 8) l.trainFails
      q.ops.foldl (fun s o => (o.requests false).foldl (fun s r => s.linkError o r) s) q
    some {
      ok := !bit st 3 && (if c = 1 then !bit st 4 && !l.req.asked else if c = 2 then !bit st 4 && l.req.asked && l.req.fails < 8 else true),
      next :=
        if c = 1 then { s.bump 0x544 with ports := put s.ports 8 { l with req := { l.req with asked := true, fails := if s.sched.arg.flag then l.req.fails else 0 } } }
        else if c = 2 then { s.bump 0x545 with ports := put s.ports 8 { l with req := { l.req with asked := false, fails := l.req.fails + 1 } } }
        else if !s.sched.arg.flag then (if l.trainFails + 1 = 4 then down else trained (2 * spare + 16) (l.trainFails + 1))
        else if 2 < spare + s.sched.arg.a then down
        else
          let q := trained (1 + 2 * (spare + s.sched.arg.a)) 0
          { q with ports := upd q.ports 8 fun l => { l with req := {} } } }
  | .scrub =>
    let k := s.sched.arg.a
    let sec := stackSector k (s.link k).scrub
    let s1 := s.modLink k fun l => { l with scrub := (l.scrub + 1) % 2 ^ 31 }
    some {
      ok := (s.reg 0x4A5).getLsbD 0 && s.depth < 3 && !s.stackDown k && k < 8,
      next :=
        if s.mem.recoded.contains (sec / 8) ∧ 6 ≤ sec % 8 then s1
        else if s.mem.bad sec then s1.logUe sec
        else s1.corrected 5 (32 * sec) 32 }
  | .hotWindowEnd =>
    let k := s.sched.arg.a
    let mine := s.hot.filter fun f => stackOf (65536 * f.1) == k
    let own := s.windowXfers k
    let others := ((List.range 8).filter (· ≠ k)).foldl (fun n j => n + s.windowXfers j) 0
    let hit := mine.filter fun f => bits (s.reg 0x4A3).toNat 23 8 ≤ f.2.count && f.2.sk && !f.2.nc
    let s1 := hit.foldl (fun s f => s.offer 1 k f) s
    let s2 := if 3 * others < 14 * own then (hottest mine).elim s1 fun f => s1.offer 2 k f else s1
    some {
      ok := k < 8 && (s.reg 0x4A3).getLsbD 0 && s.windowOver k,
      next := s2.closeWindow k }
  | .ualinkInbound =>
    let p := s.sched.arg.a
    let a := s.sched.arg.acc
    let s1 := s.awake
    let ok := a.any fun a => ((List.range 16).any fun i => windowAllows (s1.mem.read (s1.reg64 0x4A1 + 32 * i) 32) s.sched.arg.b a)
      && inOneRegion (accRange a).1 (accRange a).2
    some {
      ok := p < 8 && !(s.reg (0x483 + 4 * p)).getLsbD 2 && a.any fun a => (accRange a).2 ≠ 0 && (!accFilm a || (accRange a).1 % pixelBytes = 0),
      next := a.elim s fun a => if ok then s1.perform {} a else ({ s1 with reply := [1] }).bump (0x482 + 4 * p) }
  | .hostMemoryAccess =>
    let a := s.sched.arg.acc
    let own := fun (a : HostAccess) => isHost (accRange a).1 && isHost ((accRange a).1 + (accRange a).2 - 1)
    some {
      ok := a.any fun a => (accRange a).2 ≠ 0 && !accFilm a
        && (own a || (!(s.reg 0x543).getLsbD 3 && isHbm ((accRange a).1 + (accRange a).2 - 1))),
      next := a.elim s fun a =>
        let p := (accRange a).1
        let n := (accRange a).2
        let s1 := s.awake.perform {} a
        let lines := (List.range ((p + n - 1) / 128 - p / 128 + 1)).map fun i => p / 128 + i
        if own a then s.hostOwn a
        else { s1 with mem := { s1.mem with present := s1.mem.present ++ lines.filter fun x => !s1.mem.present.contains x } } }
  | .stackHotSet =>
    let s1 := s.sense s.sched.arg.a s.sched.arg.b s.sched.arg.c
    some {
      ok := s.sched.arg.a < 2 && s.sched.arg.b < 8,
      next := if 95 ≤ s.sched.arg.c then s1.setReg 0x302 (setBit (s1.reg 0x302) s.sched.arg.a true) else s1 }
  | .stackHotClear => some {
      ok := s.sched.arg.a < 2 && s.allCool s.sched.arg.a && (look s.cool s.sched.arg.a).getD 0 + 2100000 ≤ s.sched.clk,
      next := s.setReg 0x302 (setBit (s.reg 0x302) s.sched.arg.a false) }
  | _ => none

/-- A write of the host (R468): the bits that may be written, of a register that has no behaviour of its own; a value
that puts a field out of its range is ignored. -/
def State.hostWrote (s : State) (v : W32) (r : HostReg) : State :=
  match r with
  | .ctx c n => (ctxMask n).elim (s.hostWrite v r) fun m => s.setCtxReg c n (v &&& m)
  | .dev n => (devMask n).elim (s.hostWrite v r) fun m =>
    let s1 := if inRange n v then s.setReg n (v &&& m) else s
    if n = 0x4A3 then s1.openWindows else s1
  | .core _ _ | .other => s
/-- Report bytes [191:32] and its signature (R480). -/
def State.signedReport (s : State) (nonce : List Byte) : List Byte :=
  let body := publicKey Config.identitySeed.toList ++ sha512 s.firmware ++ bytesOfNat 4 (fwVersion s.firmware).toNat
    ++ bytesOfNat 1 0xB0 ++ bytesOfNat 1 s.sparesInUse ++ List.replicate 58 0
  body ++ signWith Config.identitySeed.toList (sha512 (nonce ++ body))

/-- The host's registers, start, idle depths, sparing, failures and power (R246, R247, R463 to R482). -/
def State.serviceRow (s : State) : Instr → Option Done
  | .registerWrite =>
    let off := s.sched.arg.a
    let s1 := s.awake
    some {
      ok := off < 0x1000000,
      next :=
        if s.sched.arg.flag then { s1 with reply := bytesOfNat 4 (s1.hostRead (hostReg off)) }
        else if 0x400000 ≤ off ∧ off < 0x800000 then { s1 with pushReply := 2 }
        else s1.hostWrote s.sched.arg.value (hostReg off) }
  | .coreSplitWrite =>
    let v := s.sched.arg.value.toNat % 16
    let s1 := s.awake
    some {
      ok := s.sched.arg.a < 16,
      next := if 2 ≤ v ∧ v ≤ 10 ∧ !s1.ctxBusy s.sched.arg.a then s1.setCtxReg s.sched.arg.a 0x102 (BitVec.ofNat 32 v) else s1 }
  | .stackSplitWrite =>
    let ctx := s.sched.arg.a
    let v := s.sched.arg.value.toNat % 256
    let q := s.awake
    let others := ((List.range 16).filter (· ≠ ctx)).foldl (fun n c => n + (q.ctxReg c 0x103).toNat % 16) 0
    let s1 := q.setCtxReg ctx 0x103 (BitVec.ofNat 32 v)
    some {
      ok := ctx < 16,
      next :=
        if v % 16 ≤ 8 ∧ v / 16 ≤ 8 * (v % 16) ∧ others + v % 16 ≤ 8 ∧ !q.ctxBusy ctx then
          { s1 with mem := { s1.mem with
            stack := (List.range 2).foldl (fun m d => clearRange m (stackKey d ctx 0) (2 ^ 28)) s1.mem.stack,
            struck := s1.mem.struck.filter fun w => !(w % 2 == 1 && (List.range 2).any fun d =>
              stackKey d ctx 0 / 32 ≤ w / 2 && w / 2 < (stackKey d ctx 0 + 2 ^ 28) / 32) } }
        else q }
  | .enabWrite =>
    let i := s.sched.arg.a
    let s1 := s.awake
    some {
      ok := i < 4,
      next := if s1.anyLaunch then s1 else s1.setReg (0x504 + i) (s.sched.arg.value &&& s1.reg (0x500 + i)) }
  | .counterClear => some {
      ok := isCounter s.sched.arg.a,
      next := s.awake.setReg s.sched.arg.a 0 }
  | .powerOn =>
    let image := s.sched.arg.bytes
    let s1 := s.setReg 0x50B (selStat image)
    some {
      ok := s.reg 0x50B == 0 || s.startable,
      next :=
        if s.reg 0x50B = 0 then (if fwOk image then { s1 with firmware := image }.bringUp else s1)
        else s.bringUp }
  | .warm => some {
      ok := s.sched.arg.value.getLsbD 0,
      next := s.warmReset (s.sched.arg.value.getLsbD 1) }
  | .go =>
    let s1 := s.awake
    let a := s1.reg64 0x540
    some {
      ok := inOneRegion a 256,
      next := (s1.storeRange {} (a + 32) (s1.signedReport (s1.mem.read a 32))).1.setReg 0x542 2 }
  | .trip =>
    let s1 := s.warmReset true
    some { next := s1.setReg 0x509 (setBit (s1.reg 0x509) 4 true) }
  | .throt => some { next := s.setReg 0x509 (setBit (s.reg 0x509) 3 s.sched.arg.flag) }
  | .idleEntry =>
    let d := depthFor (s.reg 0x508).toNat
    some {
      ok := s.idle && s.depth ≠ d,
      next := if 3 ≤ d then (s.setDepth d).selfRefresh true else s.awake.setDepth d }
  | .idleWake => some {
      ok := s.depth ≠ 0,
      next := s.awake }
  | .coreRetire =>
    let core := s.sched.arg.a
    let m := (s.reg (spareReg core)).toNat
    let col := s.physCol core
    some {
      ok := core < 256 && 2 ≤ s.depth && (!bit m 5 || !s.coreFenced core),
      next := if bit m 5 then s.fence core
        else (s.setReg (spareReg core) (BitVec.ofNat 32 (m / 64 * 64 + 32 + col))).unfence core col }
  | .unitFailed =>
    let a := s.sched.arg.a
    let b := s.sched.arg.b
    let strike := fun (w : Nat) => { s with mem := { s.mem with struck := s.mem.struck.filter (· ≠ w) ++ [w] } }
    if !s.sched.arg.flag then some {
      ok := a < 256,
      next := (s.usersOf a).foldl (fun s l => s.launchTrap l Code.unitFailed 0) (s.fence a) }
    else match s.sched.arg.c with
      | 0 => some { ok := a < 256 && b < sramSpan, next := strike (2 * (sramKey a b / 32)) }
      | 1 => some { ok := a < 2 && b < 2 ^ 32, next := strike (2 * ((stackKey a 0 0 + b) / 32) + 1) }
      | 2 => some { ok := isHbm (32 * b), next := { s with mem := { s.mem with poison := s.mem.poison.filter (· ≠ b) ++ [b] } } }
      | 3 => some { ok := a < 2, next := s.bump (0x530 + 2 * a) }
      | 4 => some { ok := a < 2, next := s.bump (0x531 + 2 * a) }
      | _ => none
  | .sliceFailed =>
    let d := s.sched.arg.a
    let sl := s.sched.arg.b
    let s1 := ((s.takeQueued.launches.filter fun l => !l.2.st.final).map (·.1)).foldl State.endFailed s.takeQueued
    let used := (s1.reg (0x520 + d)).getLsbD 6
    some {
      ok := d < 2 && sl < 32,
      next := (if used then { s1 with outDies := s1.outDies.filter (· ≠ d) ++ [d] }
        else s1.setReg (0x520 + d) (BitVec.ofNat 32 (sl + 64))).warmReset true }
  | _ => none

/-! ### What a word leaves as it was -/

/-- A word of the lanes, whatever its table. -/
def State.laneRow (s : State) (i : Instr) : Option LaneWord :=
  s.arithRow i <|> s.bitRow i <|> s.specialRow i <|> s.floatRow i <|> s.packetRow i <|> s.convertRow i

/-- NINFO, which reads what its workgroup was made for. -/
def readsBin : Instr → Bool
  | .ninfo _ _ => true
  | _ => false

/-- A word that reads and writes registers alone. -/
def State.registerWord (s : State) (i : Instr) : Bool :=
  (s.laneRow i).isSome || (s.predRow i).isSome || (s.productRow i).isSome || (s.registerRow i).isSome || readsBin i

/-- The bytes of the current beam's trap frame that a trap writes (R394, R395). -/
def State.inFrame (s : State) (a : Nat) : Bool := frameAt s.cwg s.cb.b ≤ a && a < frameAt s.cwg s.cb.b + 128

/-- The words of a scratchpad's SRAM that a trap frame takes, by their number among those a soft error strikes. -/
def State.frameWord (s : State) (w : Nat) : Bool :=
  w % 2 == 0 && frameAt s.cwg s.cb.b / 32 ≤ w / 2 && w / 2 < (frameAt s.cwg s.cb.b + 128) / 32

/-- The bytes that an event of the current context's launch would write in its queue (R402). -/
def State.inEvent (s : State) (a : Nat) : Bool :=
  match s.evQueue s.cl.ctx with
  | some q =>
    let x := s.queue q
    x.ring + 64 * (x.push % x.cap) ≤ a && a < x.ring + 64 * (x.push % x.cap) + 64
  | none => false

/-- Memory, caches, partials and every other store hold what they held, but for the current beam's trap frame. -/
def State.keepsMemory (s t : State) : Prop :=
  { t.mem with scratch := [], struck := [] } = { s.mem with scratch := [], struck := [] }
    ∧ (∀ w, w ∈ t.mem.struck → w ∈ s.mem.struck)
    ∧ (∀ w, w ∈ s.mem.struck → s.frameWord w = false → w ∈ t.mem.struck)
    ∧ ∀ a, s.inFrame a = false → getB t.mem.scratch a = getB s.mem.scratch a

/-- A core's channels but for the boundaries that their running commands are to stop at. -/
def Core.copies (c : Core) : List (Nat × Chan) :=
  c.chans.map fun x => (x.1, { x.2 with running := x.2.running.map fun r => { r with stop := none } })

/-- Registers of the device and of contexts, queues, pools, tickets, time and links are as they were; of a core
only its lanes, its mark registers and the boundaries of its channels may differ, and of a launch only whether it has
trapped. -/
def State.keepsUnits (s t : State) : Prop :=
  t.regs = s.regs ∧ t.ctxRegs = s.ctxRegs ∧ t.queues = s.queues ∧ t.pool = s.pool ∧ t.poolGen = s.poolGen ∧ t.tickets = s.tickets
    ∧ t.net = s.net ∧ t.evbuf = s.evbuf ∧ t.time = s.time ∧ t.links = s.links ∧ t.hot = s.hot ∧ t.heat = s.heat ∧ t.cool = s.cool ∧ t.ports = s.ports ∧ t.gangs = s.gangs
    ∧ (∀ c, { t.core c with lanes := [], pmarkLast := 0, pmarkCnt := 0, chans := [] }
        = { s.core c with lanes := [], pmarkLast := 0, pmarkCnt := 0, chans := [] } ∧ (t.core c).copies = (s.core c).copies)
    ∧ ∀ l, { t.launch l with trapped := none } = { s.launch l with trapped := none }

/-- Identity, threads, counters and fault records of every beam are as they were. -/
def State.keepsBeams (s t : State) : Prop :=
  ∀ bk, (t.beam bk).uid = (s.beam bk).uid ∧ (t.beam bk).wg = (s.beam bk).wg ∧ (t.beam bk).b = (s.beam bk).b
    ∧ (t.beam bk).list = (s.beam bk).list ∧ (t.beam bk).live = (s.beam bk).live ∧ (t.beam bk).ctr = (s.beam bk).ctr
    ∧ (t.beam bk).recs = (s.beam bk).recs

/-- The uniform registers, the generator and the mode bits of every other beam are as they were. -/
def State.keepsOthers (s t : State) : Prop :=
  ∀ bk, bk ≠ s.sched.cur → (t.beam bk).k = (s.beam bk).k ∧ (t.beam bk).kp = (s.beam bk).kp ∧ (t.beam bk).genKey = (s.beam bk).genKey
    ∧ (t.beam bk).genCtr = (s.beam bk).genCtr ∧ (t.beam bk).tagMode = (s.beam bk).tagMode ∧ (t.beam bk).idivTrap = (s.beam bk).idivTrap
    ∧ (t.beam bk).active = (s.beam bk).active ∧ (t.beam bk).hmode = (s.beam bk).hmode

/-- The register of a class that a word of the lanes writes. -/
def LaneWord.writes (x : LaneWord) (v : Bool) (n : Nat) : Bool :=
  match x.d with
  | .t i => x.v == v && i.toNat == n
  | .k _ => false

/-- The jumps and branches that need no other beam, and the k registers each writes (R151 to R155, R158). -/
def jumpLinks : Instr → Option (List Nat)
  | .nop _ _ | .br _ _ | .bru _ _ | .brm _ _ | .jmp _ _ | .jmpi _ _ | .ret _ _ | .loop _ _ => some []
  | .call _ f => some [f.a.num, f.a.num + 1]
  | .calli _ f => some [f.bx.toNat % 64, f.bx.toNat % 64 + 1]
  | .loopK _ f => some [f.a.num]
  | _ => none

/-- A word that accesses memory: its base form, and what it stores. -/
inductive Access where
  | load
  | bytes (h : Hd) (f : MF) (sp : Space)
  | packed (h : Hd) (f : MF)
  | atomic (h : Hd) (f : MF)
  deriving DecidableEq, Repr

def accessOf : Instr → Option Access
  | .ld _ _ | .lds _ _ | .ldg _ _ | .ldk _ _ | .ldc _ _ | .ldp6 _ _ | .pref _ _ => some .load
  | .st h f => some (.bytes h f .mem)
  | .sts h f => some (.bytes h f .spad)
  | .stg h f => some (.bytes h f .window)
  | .stk h f => some (.bytes h f .stack)
  | .stp6 h f => some (.packed h f)
  | .atom h f | .red h f | .atomf h f | .redf h f | .cas h f | .cas2 h f => some (.atomic h f)
  | _ => none

/-- A word of that kind is an atomic. -/
def Access.isAtomic : Access → Bool
  | .atomic _ _ => true
  | _ => false

/-- The bytes a place names. -/
def Spot.at_ (p : Spot) (n : Nat) : List Nat := (p.keys n).map (·.1)

/-- The bytes of memory, of the scratchpads and of stack scratch that a word stores to. -/
def State.storedBytes (s : State) : Access → List Nat
  | .bytes h f .mem => (bitsOf (s.part h)).flatMap fun t => (s.spot f .mem .write t).at_ f.bytes
  | .packed h f => (bitsOf (s.part h)).flatMap fun t =>
      (s.placed .write (partsOf 128 (s.ea f .mem t) (3 * f.groups))).flatMap fun p => (List.range p.n).map (p.x.loc + ·)
  | .atomic h f => (bitsOf (s.part h)).flatMap fun t =>
      (List.range (atomBytes f)).map ((s.xlOf .write (s.atomEa f t)).loc + ·)
  | _ => []
def State.storedSram (s : State) : Access → List Nat
  | .bytes h f .spad => (bitsOf (s.part h)).flatMap fun t => (s.spot f .spad .write t).at_ f.bytes
  | .bytes h f .window => (bitsOf (s.part h)).flatMap fun t => (s.spot f .window .write t).at_ f.bytes
  | _ => []
def State.storedStack (s : State) : Access → List Nat
  | .bytes h f .stack => (bitsOf (s.part h)).flatMap fun t => (s.spot f .stack .write t).at_ f.bytes
  | _ => []

/-- Every byte that is not stored to reads as before. The frame of a trap and the record of an event stand for
themselves. -/
def State.storesOnly (s t : State) (a : Access) : Prop :=
  (∀ x, x ∉ s.storedBytes a → s.inEvent x = false → getB t.mem.bytes x = getB s.mem.bytes x)
    ∧ (∀ x, x ∉ s.storedSram a → s.inFrame x = false → getB t.mem.scratch x = getB s.mem.scratch x)
    ∧ ∀ x, x ∉ s.storedStack a → getB t.mem.stack x = getB s.mem.stack x

/-- The registers a program names are as they were: what a word brings lands when its counter falls (R34). -/
def State.keepsRegisters (s t : State) : Prop :=
  (∀ k, (t.thread k).v = (s.thread k).v ∧ (t.thread k).s = (s.thread k).s ∧ (t.thread k).vtag = (s.thread k).vtag
      ∧ (t.thread k).stag = (s.thread k).stag ∧ (t.thread k).p = (s.thread k).p)
    ∧ (∀ bk, (t.beam bk).k = (s.beam bk).k ∧ (t.beam bk).kp = (s.beam bk).kp ∧ (t.beam bk).live = (s.beam bk).live
      ∧ (t.beam bk).list = (s.beam bk).list)
    ∧ t.ctxRegs = s.ctxRegs

/-! ### Taking a trap and returning (R394 to R400) -/

/-- A trap that the beam's handler takes. -/
def State.handles (s : State) (bk : Nat) (t : TrapInfo) : Bool :=
  (look s.beams bk).isSome && !launchLevel t.code && !(s.beam bk).hmode && (s.wg (s.beam bk).wg).region
    && s.ctxReg64 (s.launch (s.wg (s.beam bk).wg).launch).ctx 0x100 ≠ 0

/-- n bytes of a beam's trap frame from an offset, as a number. -/
def State.frameAtOf (s t : State) (bk o n : Nat) : Nat :=
  natOfBytes (getBs t.mem.scratch (frameAt (s.wg (s.beam bk).wg) (s.beam bk).b + o) n)


/-! ### Where a word traps (R172, R210, R231, R252, R255, R316 to R318, R397, R400) -/

/-- A trap, and when the word takes it. -/
structure TrapAt where
  ok : Bool
  t : TrapInfo

/-- The bank and index of the first element of a thread's sources that names no valid entry (R210). -/
def State.badIndex (s : State) (xs : List Src) (t : Nat) : Option (Nat × Nat) :=
  (xs.flatMap fun x => s.srcIdx x t).find? fun p => (s.cbEntry s.cc s.cwg.launch p.1 p.2).isNone
/-- Sources that lie in the budget, whose banks no load fills, and whose tags TRAP lets pass. -/
def State.reachable (s : State) (m : BitVec 8) (xs : List Src) : Bool :=
  (xs.all fun x => s.within x.f x.v 1) && !((xs.flatMap (s.srcBanks m)).any fun b => s.cbBusy s.cc b)
    && (!s.cb.tagMode || forT m fun t => xs.all fun x => s.srcOk x t)
/-- INVALID_INDEX of a word of the lanes (R210). -/
def State.indexTrap (s : State) (x : LaneWord) : TrapAt :=
  let m := s.part x.h
  let bad := mask8 fun t => m.getLsbD t && (s.badIndex x.srcs t).isSome
  let p := (s.badIndex x.srcs (lowest bad)).getD (0, 0)
  { ok := bad ≠ 0 && s.within x.d x.v 1 && s.reachable m x.srcs && x.also && (!x.draw || s.mayDraw),
    t := { code := 0x09, mask := bad, d0 := p.1, d1 := p.2 } }

/-- INT_DIVIDE (R172): under IDIVTRAP, of the threads with a division that has no quotient. -/
def State.divideTrap (s : State) (h : Hd) (z : ZF) : TrapAt :=
  let m := s.part h
  let bad := mask8 fun t => m.getLsbD t && !s.divides z t
  { ok := s.cb.idivTrap && bad ≠ 0 && s.within z.d z.V 1 && s.readable m [srcA z (.ty z.ty), srcB z (.ty z.ty)],
    t := { code := 0x0B, mask := bad } }

/-- MISALIGNED, and SCRATCH_BOUNDS or CONST_BOUNDS (R252, R255, R259): the threads that fail the step, and the address
of the lowest. -/
def State.placeTrap (s : State) (sp : Space) (k : Acc) (h : Hd) (f : MF) : TrapAt :=
  let m := s.part h
  let off := mask8 fun t => m.getLsbD t && s.ea f sp t % alignOf f.bytes ≠ 0
  let out := mask8 fun t => m.getLsbD t && !s.inBounds f sp f.bytes t
  let t : TrapInfo :=
    if off ≠ 0 then { code := 0x0D, mask := off, addr := s.ea f sp (lowest off) }
    else { code := if sp = .const then 0x0F else 0x0E, mask := out, addr := s.ea f sp (lowest out) }
  { ok := (off ≠ 0 || out ≠ 0) && s.flagged h (k == .read) && s.formOk f sp && s.orderOk f.ord, t := t }

/-- ILLEGAL_CONVERGENCE of a matrix word (R231): the threads that are not active, or whose guard is false. -/
def State.wholeTrap (s : State) (h : Hd) (fits : Bool) : TrapAt :=
  let g := mask8 (s.guard h)
  { ok := fits && !s.whole h, t := { code := 0x05, mask := if s.cb.active ≠ -1 then ~~~s.cb.active else ~~~g } }

/-- BAR_INVALID of a barrier word that reaches its object (R316 to R318). -/
def State.barTrap (s : State) (f : MF) (ok : Bool) : TrapAt :=
  { ok := ok && s.within f.a false 1 && (s.barKey f).isSome, t := { code := 0x14, mask := s.cb.active } }

/-- The traps of a word that the rules above name. -/
def State.trapsAt (s : State) (i : Instr) : List TrapAt :=
  ((s.laneRow i).map s.indexTrap).toList ++ match i with
  | .idiv h z | .irem h z => [s.divideTrap h z]
  | .ld h f => [s.placeTrap .mem .read h f]
  | .lds h f => [s.placeTrap .spad .read h f]
  | .ldg h f => [s.placeTrap .window .read h f]
  | .ldk h f => [s.placeTrap .stack .read h f]
  | .ldc h f => [s.placeTrap .const .read h f]
  | .st h f => [s.placeTrap .mem .write h f]
  | .sts h f => [s.placeTrap .spad .write h f]
  | .stg h f => [s.placeTrap .window .write h f]
  | .stk h f => [s.placeTrap .stack .write h f]
  | .mma h x | .mmat h x => [s.wholeTrap h (s.hiFits x)]
  | .mdrain h x => [s.wholeTrap h (s.drainFits x)]
  | .barinit h f =>
    let n := s.val32 f.b
    [s.barTrap f (s.flagged h false && s.within f.b false 1 && s.orderOk f.ord && s.acts h && s.unified f.b
      && (n = 0 || 65536 ≤ n || barWaiting (s.barAtKey f) ≠ 0))]
  | .bararr h f =>
    let o := s.barAtKey f
    let n := s.arrivals h f
    let ready := s.flagged h (f.ch.getLsbD 1) && s.relOver (barSync f f.ord.relAt) && s.acts h
    [s.barTrap f (ready && (!s.barLive f || n = 0)),
     { ok := ready && s.within f.a false 1 && s.barLive f && n ≠ 0 && barCnt o < barArr o + n,
       t := { code := 0x15, mask := s.cb.active, d0 := barCnt o, d1 := barArr o, d2 := n } }]
  | .barwait h f =>
    let d := barDelta (s.barAtKey f) ((s.cb.getK f.b.num).toNat % 16)
    [s.barTrap f (!s.held && s.acts h && !s.cb.met && (!s.barLive f || 7 < d))]
  | .tret _ f =>
    let skip := f.yx.getLsbD 0
    [{ ok := s.cb.hmode && (decide (ownCount s.cwg.stack s.cb.b ≠ s.frameByte 17)
          || (skip && (s.frameField 0 4 == 0x19 || bit (s.frameByte 6) 0))), t := { code := 0x33 } }]
  | _ => []

/-! ### What the words of the units leave as it was -/

/-- A word that a unit of the core or the machine carries out, or that waits: what it brings to registers lands when its
counter falls. -/
def unitWord : Instr → Bool
  | .yield _ _ | .waitf _ _ | .mma _ _ | .mmat _ _ | .mzero _ _ | .mload _ _ | .mrd _ _ | .mwr _ _ | .mrel _ _ | .mstat _ _ | .mdrain _ _
  | .cbld _ _ | .fence _ _ | .detdrain _ _ | .logmark _ _ | .barinit _ _ | .bararr _ _ | .barwait _ _ | .barqry _ _
  | .cpy _ _ | .cpywp _ _ | .cpywait _ _ | .cpycan _ _ | .cpyst _ _ | .qpush _ _ | .qpop _ _ | .qqry _ _
  | .jwait _ _ | .await _ _ | .launch _ _ | .lwait _ _ | .lpoll _ _ | .spawn _ _ | .nemit _ _
  | .psmp _ _ | .psmpl _ _ | .pups _ _ | .pqry _ _ | .facc _ _ | .fres _ _ | .fclr _ _ | .time _ _ | .trigarm _ _ | .trigq _ _
  | .rpkt _ _ | .rrecv _ _ | .rbcast _ _ | .rstat _ _ | .trap _ _ | .halt _ _ | .tlbinv _ _ | .cflush _ _ | .cinv _ _ => true
  | _ => false

/-- The k registers such a word writes as it issues. -/
def issueWrites : Instr → List Nat
  | .cpy _ f | .lwait _ f => [f.d.num]
  | _ => []

/-- The registers a program names are as they were, but for these k registers of the current beam. -/
def State.keepsRegistersBut (s t : State) (ks : List Nat) : Prop :=
  (∀ k, (t.thread k).v = (s.thread k).v ∧ (t.thread k).s = (s.thread k).s ∧ (t.thread k).vtag = (s.thread k).vtag
      ∧ (t.thread k).stag = (s.thread k).stag ∧ (t.thread k).p = (s.thread k).p)
    ∧ (∀ bk n, n < 64 → bk ≠ s.sched.cur ∨ n ∉ ks → (t.beam bk).getK n = (s.beam bk).getK n)
    ∧ (∀ bk, (t.beam bk).kp = (s.beam bk).kp ∧ (t.beam bk).live = (s.beam bk).live ∧ (t.beam bk).list = (s.beam bk).list)
    ∧ t.ctxRegs = s.ctxRegs

/-- A byte of a barrier object that a word names. -/
def State.inBarrier (s : State) (f : MF) (a : Nat) : Bool := (s.barKey f).any fun k => k ≤ a && a < k + 16
/-- A byte of the rows that MDRAIN writes into the scratchpad, or into memory. -/
def State.inDrain (s : State) (x : XF) (a : Nat) : Bool :=
  x.drainKind == 0 && (s.spadKeys x.lay.toNat (s.val32 x.b) (s.drainLen x)).contains a
def State.inDrained (s : State) (x : XF) (a : Nat) : Bool :=
  x.drainKind == 1 && (s.drainParts x).any fun p => p.x.loc ≤ a && a < p.x.loc + p.n
/-- The push number that a queue has after i more entries (R335). -/
def Queue.pushAfter (x : Queue) : Nat → Nat
  | 0 => x.push
  | i + 1 => (x.pushAfter i + 1) % 2 ^ 32
/-- A byte of the places in a queue's ring that its next n entries take (R335). -/
def State.inNext (s : State) (q n a : Nat) : Bool :=
  let x := s.queue q
  (List.range n).any fun i => x.ring + 64 * (x.pushAfter i % x.cap) ≤ a && a < x.ring + 64 * (x.pushAfter i % x.cap) + 64
/-- The places that the records of a NEMIT take, one after another, in the bins of their nodes (R356, R358): address and
length. -/
def State.emitPlaces (before : Nat) : List Emit → State → List (Nat × Nat)
  | [], _ => []
  | e :: es, s =>
    if s.engineDown e.node then emitPlaces before es s
    else match (if s.emitAhead before e then none else s.emitOne e), s.binFor e, (s.launch e.launch).obj.nodes[e.node]? with
      | some s1, some b, some n => (n.place b, e.bytes.length) :: emitPlaces before es s1
      | _, _, _ => []
/-- A byte of those places. -/
def State.inBins (s : State) (h : Hd) (f : TF) (a : Nat) : Bool :=
  (s.emitPlaces s.sched.fresh (s.emitsOf h f)).any fun p => p.1 ≤ a && a < p.1 + p.2
/-- A byte of the join counters that a SPAWN.join raises (R343), in memory or in the scratchpad. -/
def State.inJoins (s : State) (h : Hd) (f : TF) (a : Nat) : Bool :=
  f.x 5 1 == 1 && (bitsOf (s.part h)).any fun t => match s.joinAt f t with
    | .mem _ x => x.loc ≤ a && a < x.loc + 4
    | .spad _ _ => false
def State.inSpadJoins (s : State) (h : Hd) (f : TF) (a : Nat) : Bool :=
  f.x 5 1 == 1 && (bitsOf (s.part h)).any fun t => match s.joinAt f t with
    | .mem _ _ => false
    | .spad c o => sramKey c o ≤ a && a < sramKey c o + 4
/-- A byte of the pixels that a film word names (R371 to R375). -/
def State.inPixel (s : State) (h : Hd) (f : TF) (a : Nat) : Bool :=
  (bitsOf (s.part h)).any fun t => (s.pixelAt f t).loc ≤ a && a < (s.pixelAt f t).loc + pixelBytes
def State.inCleared (s : State) (h : Hd) (f : TF) (a : Nat) : Bool :=
  (bitsOf (s.part h)).any fun t => (s.clearParts f t).any fun p =>
    (s.xlOf .write (p.1 % 2 ^ 64)).loc ≤ a && a < (s.xlOf .write (p.1 % 2 ^ 64)).loc + p.2

/-- The bytes of memory, and those of the scratchpads, that a unit word may store to: the rows of an MDRAIN, the object of a
barrier word, the places of the ring that the entries of a QPUSH, the record of a TRIGARM or the threads that a SPAWN spills
take next, the places of a NEMIT's records, the join counters of a SPAWN, and the pixels of a film word. -/
def State.mayStore (s : State) : Instr → (Nat → Bool) × (Nat → Bool)
  | .mdrain _ x => (s.inDrained x, s.inDrain x)
  | .barinit _ f | .bararr _ f | .barwait _ f => (fun _ => false, s.inBarrier f)
  | .qpush h f => (s.inNext (s.queueNo f) (if f.a.isK then 1 else (bitsOf (s.part h)).length), fun _ => false)
  | .facc h f | .fres h f => (s.inPixel h f, fun _ => false)
  | .fclr h f => (s.inCleared h f, fun _ => false)
  | .nemit h f => (s.inBins h f, fun _ => false)
  | .trigarm _ f =>
    (fun a => (s.cb.getK f.b.num).getLsbD 0 && s.inNext ((s.cb.getK (f.b.num + 1)).toNat % 4096) 1 a, fun _ => false)
  | .spawn h f =>
    (fun a => s.inJoins h f a || s.inNext s.cl.lrec.spillq (bitsOf (s.part h)).length a, s.inSpadJoins h f)
  | _ => (fun _ => false, fun _ => false)

/-- Every byte that a word does not store to reads as before; the frame of a trap and the record of an event stand for
themselves. -/
def State.storesBut (s t : State) (p : (Nat → Bool) × (Nat → Bool)) : Prop :=
  (∀ a, p.1 a = false → s.inEvent a = false → getB t.mem.bytes a = getB s.mem.bytes a)
    ∧ (∀ a, p.2 a = false → s.inFrame a = false → getB t.mem.scratch a = getB s.mem.scratch a)
    ∧ t.mem.stack = s.mem.stack

/-- The words of paths that other beams may wait for, and the return from a handler. -/
def pathWord : Instr → Bool
  | .reconv _ _ | .brw _ _ | .tret _ _ => true
  | _ => false
/-- While the workgroup has not retired (R131), the registers, counters and fault records of every other beam, and every
thread of another beam, are as they were. -/
def State.keepsOtherBeams (s t : State) : Prop :=
  (t.wg s.cb.wg).retired = false →
    (∀ k, (∀ u, u < 8 → k ≠ s.tkey u) → t.thread k = s.thread k)
    ∧ ∀ bk, bk ≠ s.sched.cur →
      (t.beam bk).k = (s.beam bk).k ∧ (t.beam bk).kp = (s.beam bk).kp ∧ (t.beam bk).ctr = (s.beam bk).ctr ∧ (t.beam bk).recs = (s.beam bk).recs
end Sys2Proof.Machine
end

