-- ==== Sys2Proof/Certificates/Slice0/Obligations.lean ====
section
/-! DEFINITION. The statements for the provers. -/

open Sys2Proof Sys2Proof.Machine

/-- R169, R170, R173, R176, R179: each integer word writes its row's result. The class in which CONVERT reads an integer tag, and the value of a bank entry it takes, are the model's (log entries 16 and 21). -/
def Obligations.IntegerWordsComplete : Prop :=
    (∀ (i : Instr) (s : State) (x : LaneWord), s.arithRow i = some x → s.canRun x = true → exec i s = .next (s.laneNext x))
    ∧ (∀ (i : Instr) (s : State) (x : LaneWord), s.bitRow i = some x → s.canRun x = true → exec i s = .next (s.laneNext x))

/-- R172, R174, R175, R177, R178, R179. That a k source of MOV or SEL fills every 32-bit element, and that IDP2 takes bits [15:0] of a k source in both halves, are read by inference (log entries 22 and 104). -/
def Obligations.MoveDivideAndFieldWordsComplete : Prop :=
    (∀ (i : Instr) (s : State) (x : LaneWord), s.specialRow i = some x → s.canRun x = true → exec i s = .next (s.laneNext x))

/-- R183 to R192, R201. The bits of expanded sources of FABS, FNEG and FSIGN are read by inference (log entry 107). -/
def Obligations.FloatWordsComplete : Prop :=
    (∀ (i : Instr) (s : State) (x : LaneWord), s.floatRow i = some x → s.canRun x = true → exec i s = .next (s.laneNext x))

/-- R193 to R198. The bits of expanded sources of the moves are read by inference (log entry 107). -/
def Obligations.PacketWordsComplete : Prop :=
    (∀ (i : Instr) (s : State) (x : LaneWord), s.packetRow i = some x → s.canRun x = true → exec i s = .next (s.laneNext x))

/-- R215 to R222. That CBX draws a block even where nothing rounds, that QNT and SCLQ ignore FTZ, that CVTS takes the scale +0 for that of a block of code 0, the class of a converted code of SCLQ.dec, which value of an entry it takes, what an infinite source of QNT beside a bad scale gives, and SCLQ of one beside a bad S are the model's (log entries 27, 26, 101, 123, 21, 118). -/
def Obligations.ConversionWordsComplete : Prop :=
    (∀ (i : Instr) (s : State) (x : LaneWord), s.convertRow i = some x → s.canRun x = true → exec i s = .next (s.laneNext x))

/-- R161 to R166. That PSET, VOTE and ELECT with a kp destination and no taking-part thread write nothing is read by inference (log entry 28). -/
def Obligations.PredicateWordsComplete : Prop :=
    ∀ (i : Instr) (s : State) (x : Done), s.issuing = true → s.predRow i = some x → x.ok = true → exec i s = .next x.next

/-- R55, R57, R199. The free random bits of POLMM under SR, the NaN flags of the products and the tag of compact logic are read by inference (log entries 23, 79, 84); so is the order in which the half-ops are checked (30). -/
def Obligations.PairedAndMatrixOfPolarisationWordsComplete : Prop :=
    ∀ (i : Instr) (s : State) (x : Done), s.issuing = true → s.productRow i = some x → x.ok = true → exec i s = .next x.next

/-- R141, R171, R200, R203, R204, R213, R261, R413, R414, R417, R418. That RDSYS reads its value at issue, and that CBSYNC waits for every store still on its way, are the model's (log entries 9, 87, 108). -/
def Obligations.PairGeneratorAndIdentityWordsComplete : Prop :=
    ∀ (i : Instr) (s : State) (x : Done), s.issuing = true → s.registerRow i = some x → x.ok = true → exec i s = .next x.next

/-- R150 to R160. That a target with low bits set traps at the branching word is read by inference (log entry 80). -/
def Obligations.ControlFlowWordsComplete : Prop :=
    ∀ (i : Instr) (s : State) (x : Done), s.issuing = true → s.controlRow i = some x → x.ok = true → exec i s = .next x.next

/-- R226 to R232. The key of a latch hit, the free choice between latched and current operand, and that the tile changes at issue are the model's (log entries 86, 112, 9). -/
def Obligations.MatrixProductWordsComplete : Prop :=
    ∀ (i : Instr) (s : State) (x : Done), s.issuing = true → s.multiplyRow i = some x → x.ok = true → exec i s = .next x.next

/-- R233, R234, R237. That MLOAD, MRD and MSTAT read and change tile and scratchpad when they issue is the model's (log entries 9 and 85). -/
def Obligations.TileWordsComplete : Prop :=
    ∀ (i : Instr) (s : State) (x : Done), s.issuing = true → s.tileRow i = some x → x.ok = true → exec i s = .next x.next

/-- R235, R236. That the drain reads the tile and writes its bytes at issue while the flags land with the counter, that the slot is not checked for .acc, and which address an error names, are the model's (log entries 85, 123, 120). -/
def Obligations.MatrixDrainCompletes : Prop :=
    ∀ (i : Instr) (s : State) (x : Done), s.issuing = true → s.mdrainRow i = some x → x.ok = true → exec i s = .next x.next

/-- R249 to R260. That a load reads its bytes when it issues, and that one of FP6 elements keeps the bits of memory, and which address an error names, are the model's own choice (log entries 9, 117, 120). -/
def Obligations.LoadWordsComplete : Prop :=
    ∀ (i : Instr) (s : State) (x : Done), s.issuing = true → s.loadRow i = some x → x.ok = true → exec i s = .next x.next

/-- R249 to R258, R275. That a store writes its bytes when it issues, which sectors L2 holds, and which address an error names, are the model's own choice (log entries 9 and 120). -/
def Obligations.StoreWordsComplete : Prop :=
    ∀ (i : Instr) (s : State) (x : Done), s.issuing = true → s.storeRow i = some x → x.ok = true → exec i s = .next x.next

/-- R90, R262. That the bytes are read and written at issue, as in the loads and stores, and which sectors L2 holds, are the model's own choice (log entries 9 and 120). -/
def Obligations.PackedGroupWordsComplete : Prop :=
    ∀ (i : Instr) (s : State) (x : Done), s.issuing = true → s.packedRow i = some x → x.ok = true → exec i s = .next x.next

/-- R292 to R296, R313. What a fence waits for is read by inference (log entry 71). -/
def Obligations.FenceDrainAndMarkWordsComplete : Prop :=
    ∀ (i : Instr) (s : State) (x : Done), s.issuing = true → s.fenceRow i = some x → x.ok = true → exec i s = .next x.next

/-- R297 to R308. That the operations and exchanges are performed in the step of issue is the model's own choice (log entry 9), and so are the DET checks (69). -/
def Obligations.AtomicWordsComplete : Prop :=
    (∀ (i : Instr) (s : State) (x : Done), s.issuing = true → s.atomRow i = some x → x.ok = true → exec i s = .next x.next)
    ∧ (∀ (i : Instr) (s : State) (x : Done), s.issuing = true → s.atomfRow i = some x → x.ok = true → exec i s = .next x.next)
    ∧ (∀ (i : Instr) (s : State) (x : Done), s.issuing = true → s.casRow i = some x → x.ok = true → exec i s = .next x.next)

/-- R314 to R319. That a BARWAIT whose phase has ended completes without reading the object again, that wakes fall in BARARR's own step, and that the object changes at issue are the model's (log entries 42, 43, 9). -/
def Obligations.BarrierWordsComplete : Prop :=
    ∀ (i : Instr) (s : State) (x : Done), s.issuing = true → s.barrierRow i = some x → x.ok = true → exec i s = .next x.next

/-- R205 to R212. That the entries are read at issue, the free choice for stores in flight, the address checks made also when the guard is off, and when another launch's bank may be taken, are the model's (log entries 9, 108, 29, 124). -/
def Obligations.BankLoadCompletes : Prop :=
    ∀ (i : Instr) (s : State) (x : Done), s.issuing = true → s.bankRow i = some x → x.ok = true → exec i s = .next x.next

/-- R320 to R326. That CPY on an idle channel starts its command at once, that a channel held by another gang reads as idle with sequence 0, that CPYWP and CPYST read at issue, and that a CPY guarded off checks nothing are the model's (log entries 40, 41, 9, 29). -/
def Obligations.CopyWordsComplete : Prop :=
    ∀ (i : Instr) (s : State) (x : Done), s.issuing = true → s.copyRow i = some x → x.ok = true → exec i s = .next x.next

/-- R337 to R340. That the push, the pop and the read of QQRY happen at issue, that pops read the memory of the ring, and what a word whose queue is out of reach leaves, are the model's (log entries 9, 33, 120). Waits of Mirror mode are left out. -/
def Obligations.QueueWordsComplete : Prop :=
    ∀ (i : Instr) (s : State) (x : Done), s.issuing = true → s.queueRow i = some x → x.ok = true → exec i s = .next x.next

/-- R135 to R141, R350 to R352. That LAUNCH reads the record only where there is room and takes nothing where the record cannot be read, that LPOLL answers from the pool at issue, the cells of JWAIT and AWAIT, and the switch of variants are read by inference (log entries 83, 102, 32, 52, 75); that the error of a record behind a link is decided at issue is the model's (121). A word whose beam must wait is left out. -/
def Obligations.WaitAndChildLaunchWordsComplete : Prop :=
    ∀ (i : Instr) (s : State) (x : Done), s.issuing = true → s.waitRow i = some x → x.ok = true → exec i s = .next x.next

/-- R342 to R348, R358, R360. That records of NEMIT without a bin stay in the operation, that threads are numbered and counters raised at issue, and what becomes of a thread that cannot be spilled, are the model's (log entries 35, 9, 120). -/
def Obligations.SpawnAndNodeWordsComplete : Prop :=
    ∀ (i : Instr) (s : State) (x : Done), s.issuing = true → s.spawnRow i = some x → x.ok = true → exec i s = .next x.next

/-- R148, R349. That an error of a join decrement is kept as an untracked record, and what EXIT does with open paths, are read by inference (log entries 34 and 73). -/
def Obligations.ExitCompletes : Prop :=
    ∀ (i : Instr) (s : State) (x : Done), s.issuing = true → s.exitRow i = some x → x.ok = true → exec i s = .next x.next

/-- R363 to R370. That a sample is taken at issue, the silent cases of the unit, free wavelength positions, and the conventions of PQRY and of faults are the model's (log entries 9, 63, 64, 65). -/
def Obligations.PrismWordsComplete : Prop :=
    ∀ (i : Instr) (s : State) (x : Done), s.issuing = true → s.sampleRow i = some x → x.ok = true → exec i s = .next x.next

/-- R371 to R376. That pages without DET are tested for hazards, that merges begin at (0, 0), that the words are performed at issue, and which sectors L2 holds, are the model's (log entries 66, 9, 120). -/
def Obligations.FilmWordsComplete : Prop :=
    ∀ (i : Instr) (s : State) (x : Done), s.issuing = true → s.filmRow i = some x → x.ok = true → exec i s = .next x.next

/-- R378 to R380. That TIME reads the tick at issue, that a disarm keeps the slot's other fields, how it pushes, that TIME reads 0 while VALID is clear, and that the error of a record behind a link is decided at issue, are the model's (log entries 9, 67, 68, 121). -/
def Obligations.TimeAndTriggerWordsComplete : Prop :=
    ∀ (i : Instr) (s : State) (x : Done), s.issuing = true → s.timeRow i = some x → x.ok = true → exec i s = .next x.next

/-- R383 to R390. That a receive waits as an operation without a router slot, and that RPKT's counter waits for the parent, are read by inference (log entries 44 and 45). -/
def Obligations.CollectiveWordsComplete : Prop :=
    ∀ (i : Instr) (s : State) (x : Done), s.issuing = true → s.collRow i = some x → x.ok = true → exec i s = .next x.next

/-- R54, R62, R399 to R401, R405, R415, R416. The mask in HALT's event, the number of a ticket, that CFLUSH and CINV check their addresses even when guarded off, that TLBINV drops at its completion, and that a frame header with low bits set traps are the model's (log entries 19, 31, 29, 76, 80). -/
def Obligations.SystemWordsComplete : Prop :=
    ∀ (i : Instr) (s : State) (x : Done), s.issuing = true → s.systemRow i = some x → x.ok = true → exec i s = .next x.next

/-- R33 to R36, R59, R134, R142, R295, R312, R358, R396, R411. When lines are filled, the gate after handler entry, the wakes of barriers, what of a write lands early, and the address of a failed fetch are the model's (log entries 18, 106, 43, 10, 122). -/
def Obligations.BeamAndMachineStepsComplete : Prop :=
    (∀ (i : Instr) (s : State) (x : Done), s.stepRow i = some x → x.ok = true → exec i s = .next x.next)

/-- R126 to R139, R342 to R359. Placement order and holds, the dispatcher's details, spawn groups and bins, the oldest evicted beam first, and the fits of a switch are the model's (log entries 46, 48, 50, 51, 52). -/
def Obligations.DispatcherStepsComplete : Prop :=
    (∀ (i : Instr) (s : State) (x : Done), s.dispatchRow i = some x → x.ok = true → exec i s = .next x.next)

/-- R333 to R336, R402 to R409, R462, R467, R469, R486. The save image and its size, the order of victims and their drain, an unreadable descriptor that turns a queue off, and writes undone at a timeout are the model's (log entries 24, 53, 56, 57). -/
def Obligations.PreemptionAndHostStepsComplete : Prop :=
    (∀ (i : Instr) (s : State) (x : Done), s.preemptRow i = some x → x.ok = true → exec i s = .next x.next)
    ∧ (∀ (i : Instr) (s : State) (x : Done), s.hostRow i = some x → x.ok = true → exec i s = .next x.next)

/-- R320 to R331, R377 to R390. Overlap bytes and stop boundaries of copies, the waiting seventeenth collective, flushes, 2,100 clocks to the microsecond, and pins are the model's (log entries 41, 44, 45, 15, 67); so is the choice between R264 and R326 (114). -/
def Obligations.ChannelRouterAndTimeStepsComplete : Prop :=
    (∀ (i : Instr) (s : State) (x : Done), s.unitRow i = some x → x.ok = true → exec i s = .next x.next)

/-- R448 to R467. How a packet lies in flits, what the tracker counts of a request, which of equally hot frames is the hottest, the scrub's order of codewords, windows and the clock, the sensors' values at reset, permissions and the host's own memory are the model's (log entries 58, 59, 113, 15, 125, 60). -/
def Obligations.StackAndLinkStepsComplete : Prop :=
    (∀ (i : Instr) (s : State) (x : Done), s.stackRow i = some x → x.ok = true → exec i s = .next x.next)

/-- R246, R247, R463 to R482. Firmware and keys, the physical attestation buffer, what a reset, a trip and a failed slice keep, idleness, soft errors, and further fences of a row are the model's (log entries 8, 60, 61, 62, 94, 115); SHA-512 and Ed25519 are taken from their standards (126). -/
def Obligations.ServiceStepsComplete : Prop :=
    (∀ (i : Instr) (s : State) (x : Done), s.serviceRow i = some x → x.ok = true → exec i s = .next x.next)

/-- The frame of the words that read and write registers alone, whatever the outcome. -/
def Obligations.RegisterWordsKeepMemoryAndUnits : Prop :=
    ∀ (i : Instr) (s t : State), s.registerWord i = true → exec i s = .next t →
    s.keepsMemory t ∧ s.keepsUnits t ∧ s.keepsBeams t ∧ s.keepsOthers t ∧ t.ops = s.ops ∧ t.wgs = s.wgs

/-- The frame of the words of the lanes over registers, whatever the outcome. -/
def Obligations.LaneWordsWriteOnlyTheirDestination : Prop :=
    ∀ (i : Instr) (s t : State) (x : LaneWord), s.laneRow i = some x → exec i s = .next t →
    (∀ k, (∀ u, u < 8 → (s.part x.h).getLsbD u = true → k ≠ s.tkey u) → t.thread k = s.thread k)
    ∧ (∀ k, (t.thread k).p = (s.thread k).p)
    ∧ (∀ k n, x.writes true n = false → (t.thread k).getV n = (s.thread k).getV n ∧ (t.thread k).getVt n = (s.thread k).getVt n)
    ∧ (∀ k n, x.writes false n = false → (t.thread k).getS n = (s.thread k).getS n ∧ (t.thread k).getSt n = (s.thread k).getSt n)
    ∧ (∀ bk n, bk ≠ s.sched.cur ∨ x.d ≠ .k (BitVec.ofNat 6 n) → n < 64 → (t.beam bk).getK n = (s.beam bk).getK n)
    ∧ (∀ bk, (t.beam bk).kp = (s.beam bk).kp)

/-- The frame of the words that access memory, whatever the outcome. -/
def Obligations.AccessWordsStoreOnlyWhereTheyAddress : Prop :=
    ∀ (i : Instr) (s t : State) (a : Access), wellFormed i = true → accessOf i = some a → exec i s = .next t →
    s.storesOnly t a ∧ s.keepsRegisters t

/-- The frame of the jumps and branches, whatever the outcome. -/
def Obligations.JumpWordsKeepEverythingButTheirLink : Prop :=
    ∀ (i : Instr) (s t : State) (ks : List Nat), jumpLinks i = some ks → exec i s = .next t →
    s.keepsMemory t ∧ s.keepsUnits t ∧ s.keepsBeams t ∧ s.keepsOthers t ∧ t.threads = s.threads ∧ t.ops = s.ops
    ∧ (∀ n, n ∉ ks → (t.beam s.sched.cur).getK n = (s.beam s.sched.cur).getK n) ∧ (t.beam s.sched.cur).kp = (s.beam s.sched.cur).kp

/-- The frame of the words that a unit carries out or that wait, whatever the outcome. That CPY writes its k register as it issues, and that a store or a push is performed at issue, are the model's own (log entries 9 and 40). -/
def Obligations.UnitWordsWriteNoRegisterAndTheirOwnBytesAlone : Prop :=
    ∀ (i : Instr) (s t : State), unitWord i = true → exec i s = .next t →
    s.keepsRegistersBut t (issueWrites i) ∧ s.storesBut t (s.mayStore i)

/-- The frame of RECONV, BRW and TRET, whatever the outcome. -/
def Obligations.PathWordsKeepMemoryAndOtherBeams : Prop :=
    ∀ (i : Instr) (s t : State), pathWord i = true → exec i s = .next t →
    s.storesBut t (fun _ => false, fun _ => false) ∧ s.keepsOtherBeams t ∧ t.ctxRegs = s.ctxRegs

/-- R172, R210, R231, R252, R255, R316, R317, R318, R397, R400: the words that trap, with the frame each trap brings. -/
def Obligations.WordsTrapWhereTheirRulesSay : Prop :=
    (∀ (i : Instr) (s : State) (x : TrapAt), s.issuing = true → x ∈ s.trapsAt i → x.ok = true →
      exec i s = .next (s.takeTrap s.sched.cur x.t s.cb.pc s.cb.pos))
    ∧ ∀ (i : Instr) (s : State) (x : TrapAt), s.issuing = true → x ∈ s.trapsAt i → x.ok = true → s.cb.hmode = true →
      launchLevel x.t.code = false ∨ x.t.code = 0x33 → (look s.launches s.cwg.launch).isSome = true →
      ∃ t, exec i s = .next t ∧ (t.launch s.cwg.launch).trapped = (if s.cl.trapped.isNone then some 0x33 else s.cl.trapped)
        ∧ t.mem = s.mem ∧ t.threads = s.threads

/-- R27, R39, R54: an issuing beam runs the word it stands at; the agenda's turn runs otherwise. -/
def Obligations.StepRunsTheDecodedInstruction : Prop :=
    (∀ (s : State) (b : Beam) (i : Instr), s.sched.agenda = [] → s.sched.stalled = false → look s.beams s.sched.cur = some b →
      b.st = .issuing → b.mid = true → b.buf ≠ [] → decode b.word = .ok i → step s = exec i s.tick)
    ∧ (∀ (s : State) (b : Beam), s.sched.agenda = [] → s.sched.stalled = false → look s.beams s.sched.cur = some b →
      b.st = .issuing → b.mid = true → b.buf ≠ [] → decode b.word = .error .illegalInstruction →
      step s = .next (s.tick.takeTrap s.sched.cur
        { code := 0x02, d0 := b.word.toNat % 2 ^ 32, d1 := b.word.toNat / 2 ^ 32 } b.pc b.pos))
    ∧ (∀ (s : State) (b : Beam), s.sched.agenda = [] → s.sched.stalled = false → look s.beams s.sched.cur = some b →
      b.st = .issuing → b.mid = true → b.buf ≠ [] → decode b.word = .error .illegalPair →
      step s = .next (s.tick.takeTrap s.sched.cur
        { code := 0x03, d0 := b.word.toNat % 2 ^ 32, d1 := b.word.toNat / 2 ^ 32 } b.pc b.pos))
    ∧ ∀ (s : State) (t : Turn) (ts : List Turn), s.sched.agenda = t :: ts → step s = exec t.instr (s.tick.take.given t)

/-- The word that withFetchWord places is what the very next step runs. -/
def Obligations.PlacedWordIsTheNextToRun : Prop :=
    ∀ (s : State) (w : W64) (i : Instr), decode w = .ok i →
    step (s.withFetchWord 64 w.toNat) = exec i (s.withFetchWord 64 w.toNat).tick

/-- Words the manual prints beside their assembly. -/
def Obligations.DecoderReadsTheManualsExamples : Prop :=
    decode 0x2BD04838A0000020#64 = .ok (.fmax { gn := true, gp := 2, cf := false }
      { d := .t 9, a := .t 3, b := .k 5, c := .t 0, rm := .rn, ty := .f32, cbk := 0, cbs := 0, hi := 0, opx := 0x20 })
    ∧ decode 0x503C302A12000040#64 = .ok (.ld { gn := false, gp := 7, cf := true }
      { d := .t 6, a := .t 2, ty := .b32, ord := .acq .wg, ch := 0, b := .t 0, off := 0x40 })
    ∧ decode 0x64B8000000000000#64 = .ok (.exit { gn := false, gp := 7, cf := false }
      { d := .t 0, a := .t 0, b := .t 0, ord := .none, tc := 0, tx := 0 })
    ∧ decode 0x00B8000000000000#64 = .ok (.nop { gn := false, gp := 7, cf := false }
      { d := .t 0, a := .t 0, b := .t 0, c := .t 0, rm := .rn, ty := .f32, cbk := 0, cbs := 0, hi := 0, opx := 0 })
    ∧ decode 0x753A280030000000#64 = .ok (.rdsys { gn := false, gp := 7, cf := false } { d := .k 5, a := .t 0, sr := 0x300, yx := 0 })
    ∧ decode 0x5100020202000010#64 = .error .illegalInstruction

/-- Decoding inverts encoding on every well-formed instruction word. -/
def Obligations.EncodedWordsDecodeToThemselves : Prop :=
    ∀ (i : Instr) (w : W64), wellFormed i = true → encode i = some w → decode w = .ok i

/-- Encoding inverts decoding: the decoder drops no bit of a word. -/
def Obligations.DecodedWordsEncodeToThemselves : Prop :=
    ∀ (w : W64) (i : Instr), decode w = .ok i → encode i = some w

/-- The values the manual gives for reset. -/
def Obligations.ResetHoldsTheManualsValues : Prop :=
    State.reset.reg 0x300 = 0x4C4E07B0#32 ∧ State.reset.reg 0x4A3 = 0x001000A0#32 ∧ State.reset.reg 0x4A5 = 0x00001801#32
    ∧ (∀ c, State.reset.ctxReg c 0x102 = 5#32) ∧ (∀ c, State.reset.ctxReg c 0x100 = 0#32) ∧ (∀ q, (State.reset.queue q).type = 0)
    ∧ (∀ c, (State.reset.core c).tiles = [] ∧ (State.reset.core c).banks = [] ∧ (State.reset.core c).colls = [])
    ∧ State.reset.beams = [] ∧ State.reset.launches = [] ∧ State.reset.ops = [] ∧ State.reset.time.run = false ∧ State.reset.memReady = false

/-- The memory invariant, kept by every step. The canonical form is the model's own (log entry 5). -/
def Obligations.StepKeepsMemoryCanonical : Prop :=
    ∀ (s t : State), Memory.wf s.mem = true → step s = .next t → Memory.wf t.mem = true

/-- The memory invariant holds at reset. -/
def Obligations.ResetMemoryIsCanonical : Prop :=
    Memory.wf State.reset.mem = true

/-- Every instruction has a meaning, and only EXIT, RECONV and TRET may leave a beam no way to go on. -/
def Obligations.MeaningsNeverRefuse : Prop :=
    (∀ (i : Instr) (s : State) (r : Refusal), exec i s ≠ .refused r)
    ∧ ∀ (i : Instr) (s : State) (f : Fault), exec i s = .fault f → (∃ h z, i = .exit h z) ∨ (∃ h z, i = .reconv h z) ∨ ∃ h z, i = .tret h z

/-- R395, R396: what entering a handler saves and changes. -/
def Obligations.HandlerEntrySavesTheFrame : Prop :=
    ∀ (s : State) (bk : Nat) (t : TrapInfo) (hdr : W64) (pos : Nat), Memory.wf s.mem = true → s.handles bk t = true →
    let u := s.takeTrap bk t hdr pos
    s.frameAtOf u bk 0 4 = t.code % 2 ^ 32 ∧ s.frameAtOf u bk 4 1 = t.mask.toNat ∧ s.frameAtOf u bk 5 1 = t.reg % 256
    ∧ s.frameAtOf u bk 6 1 = b2n t.deferred + 2 * b2n t.ovf ∧ s.frameAtOf u bk 7 1 = t.ctr % 256
    ∧ s.frameAtOf u bk 8 8 = hdr.toNat ∧ s.frameAtOf u bk 16 1 = pos % 256
    ∧ s.frameAtOf u bk 17 1 = ownCount (s.wg (s.beam bk).wg).stack (s.beam bk).b % 256
    ∧ s.frameAtOf u bk 18 1 = (s.beam bk).active.toNat ∧ s.frameAtOf u bk 19 1 = (s.beam bk).live.toNat
    ∧ s.frameAtOf u bk 24 8 = t.addr % 2 ^ 64 ∧ s.frameAtOf u bk 32 4 = t.d0 % 2 ^ 32 ∧ s.frameAtOf u bk 36 4 = t.d1 % 2 ^ 32
    ∧ s.frameAtOf u bk 40 4 = t.d2 % 2 ^ 32 ∧ s.frameAtOf u bk 44 4 = 0
    ∧ (∀ i, i < 16 → s.frameAtOf u bk (48 + 4 * i) 4 = ((s.beam bk).getK (48 + i)).toNat)
    ∧ s.frameAtOf u bk 112 1 = (s.beam bk).kp.toNat
    ∧ (∀ i, i < 8 → s.frameAtOf u bk (120 + i) 1 = (s.thread (tkeyOf bk (s.beam bk) i)).p.toNat)
    ∧ (u.beam bk).active = (s.beam bk).live ∧ (u.beam bk).hmode = true
    ∧ (u.beam bk).pc = BitVec.ofNat 64 (s.ctxReg64 (s.launch (s.wg (s.beam bk).wg).launch).ctx 0x100)
    ∧ (u.beam bk).k = (s.beam bk).k ∧ (u.beam bk).kp = (s.beam bk).kp ∧ (u.beam bk).ctr = (s.beam bk).ctr
    ∧ (u.beam bk).genKey = (s.beam bk).genKey ∧ (u.beam bk).genCtr = (s.beam bk).genCtr ∧ (u.beam bk).latch = (s.beam bk).latch
    ∧ u.threads = s.threads ∧ u.wgs = s.wgs ∧ u.mem.bytes = s.mem.bytes ∧ u.mem.stack = s.mem.stack
    ∧ ∀ a, (a < frameAt (s.wg (s.beam bk).wg) (s.beam bk).b ∨ frameAt (s.wg (s.beam bk).wg) (s.beam bk).b + 128 ≤ a) →
        getB u.mem.scratch a = getB s.mem.scratch a

/-- R396 and R400 together: a return right after entry undoes it. -/
def Obligations.TrapThenReturnResumesTheBeam : Prop :=
    ∀ (s : State) (t : TrapInfo) (hdr : W64) (pos : Nat) (h : Hd) (f : YF), Memory.wf s.mem = true → s.issuing = true →
    s.handles s.sched.cur t = true → f.yx.getLsbD 0 = false → hdr.toNat % 8 = 0 → pos < 256 →
    ownCount s.cwg.stack s.cb.b < 256 → s.cb.active ≠ 0 → s.cb.active &&& s.cb.live = s.cb.active →
    ∃ u, exec (.tret h f) (s.takeTrap s.sched.cur t hdr pos) = .next u ∧ u.threads = s.threads
      ∧ u.cb.pc = hdr ∧ u.cb.pos = pos ∧ u.cb.active = s.cb.active ∧ u.cb.hmode = false ∧ u.cb.k = s.cb.k ∧ u.cb.kp = s.cb.kp
      ∧ u.cb.ctr = s.cb.ctr ∧ u.cb.live = s.cb.live ∧ u.wgs = s.wgs ∧ u.mem.bytes = s.mem.bytes

/-- R391, R399: with TRAP_BASE = 0 a trap is launch-level. -/
def Obligations.TrapWithoutHandlerEndsTheLaunch : Prop :=
    ∀ (h : Hd) (f : YF) (s : State), s.issuing = true → s.acts h = true → s.cb.hmode = false → s.ctxReg64 s.cl.ctx 0x100 = 0 →
    (look s.launches s.cwg.launch).isSome = true →
    ∃ t, exec (.trap h f) s = .next t
      ∧ (t.launch s.cwg.launch).trapped = (if s.cl.trapped.isNone then some 0x19 else s.cl.trapped)
      ∧ (∀ bk, (s.wg (s.beam bk).wg).launch = s.cwg.launch → (look s.beams bk).isSome = true →
          (t.beam bk).st = .halted ∨ (t.beam bk).st = .exited)
      ∧ t.mem = s.mem ∧ t.threads = s.threads

/-- R449. -/
def Obligations.StackOfAnAddressFollowsTheXor : Prop :=
    (∀ p, stackOf p = (p / 2 ^ 16 % 8) ^^^ (p / 2 ^ 19 % 8) ^^^ (p / 2 ^ 22 % 8) ^^^ (p / 2 ^ 25 % 8) ^^^ (p / 2 ^ 28 % 8))
    ∧ (∀ p, stackOf p = stackOf (p / 65536 * 65536))
    ∧ (∀ k j, k < 8 → j < 2 ^ 20 → ∃ l, l < 8 ∧ stackOf (65536 * (8 * j + l)) = k ∧ ∀ m, m < 8 → stackOf (65536 * (8 * j + m)) = k → m = l)
    ∧ stackOf 0x0000001234567880 = 4

/-- R206, with the values of R91. -/
def Obligations.BankZeroIsTheFixedCodebook : Prop :=
    ∀ (s : State) (core launch i : Nat),
    s.cbEntry core launch 0 i = (if i < 16 then some [([0xBC00, 0xB9A9, 0xB856, 0xB6AB, 0xB4F9, 0xB2E9, 0xB013, 0xA964,
      0x2964, 0x3013, 0x32E9, 0x34F9, 0x36AB, 0x3856, 0x39A9, 0x3C00] : List Nat).getD i 0] else none)
    ∧ (s.bank core 0).ew = 0 ∧ (s.bank core 0).iw = 0 ∧ (s.bank core 0).owner = none ∧ s.cbBusy core 0 = false

/-- R418. -/
def Obligations.MarkRecordsOnlyWhileEnabled : Prop :=
    ∀ (h : Hd) (f : YF) (s : State), s.issuing = true → ∃ t, exec (.pmark h f) s = .next t
    ∧ (t.core s.cc).pmarkLast = (if s.acts h && (s.reg 0x320).getLsbD 0
        then BitVec.ofNat 32 (imm16 f + 65536 * (s.sched.cur % 64)) else (s.core s.cc).pmarkLast)
    ∧ (t.core s.cc).pmarkCnt = (if s.acts h && (s.reg 0x320).getLsbD 0 then (s.core s.cc).pmarkCnt + 1 else (s.core s.cc).pmarkCnt)
    ∧ (∀ c, c ≠ s.cc → (t.core c).pmarkLast = (s.core c).pmarkLast ∧ (t.core c).pmarkCnt = (s.core c).pmarkCnt)
    ∧ t.threads = s.threads ∧ t.mem = s.mem ∧ t.ops = s.ops ∧ t.regs = s.regs ∧ t.ctxRegs = s.ctxRegs ∧ t.wgs = s.wgs
    ∧ t.launches = s.launches ∧ t.queues = s.queues ∧ (∀ bk, (t.beam bk).k = (s.beam bk).k ∧ (t.beam bk).kp = (s.beam bk).kp)

/-- R233. -/
def Obligations.ZeroWordClearsItsTiles : Prop :=
    (∀ (h : Hd) (x : XF) (s : State), s.issuing = true → s.acts h = true → ∃ t, exec (.mzero h x) s = .next t
      ∧ (∀ n, x.tileN ≤ n → n ≤ x.tileN + x.mx.toNat →
          (∀ r, (t.core s.cc).tileRow n r = (if r < 8 then List.replicate 64 0 else (t.core s.cc).tileRow n r)) ∧ (t.core s.cc).tileSt n = 0)
      ∧ (∀ n, n < x.tileN ∨ x.tileN + x.mx.toNat < n → (∀ r, r < 8 → (t.core s.cc).tileRow n r = (s.core s.cc).tileRow n r)
          ∧ (t.core s.cc).tileSt n = (s.core s.cc).tileSt n)
      ∧ (∀ c, c ≠ s.cc → (t.core c).acc = (s.core c).acc ∧ (t.core c).tiles = (s.core c).tiles)
      ∧ t.threads = s.threads ∧ t.mem = s.mem)
    ∧ ∀ (h : Hd) (x : XF), 128 < x.tileN + (x.mx.toNat + 1) → wellFormed (.mzero h x) = false

/-- R176, with the condition codes of R68. -/
def Obligations.ComparisonWordWritesAllOnesOrZero : Prop :=
    ∀ (h : Hd) (z : ZF) (s : State) (x : LaneWord), s.bitRow (.iset h z) = some x → s.canRun x = true →
    exec (.iset h z) s = .next (s.laneNext x) ∧ x.d = z.d ∧ x.v = z.V ∧ x.h = h
    ∧ ∀ t e, e < (if z.V then 256 else 32) / z.ty.width →
      let w := z.ty.width
      let a := (s.srcElems (srcA z (.ty z.ty)) t).1.getD e 0
      let b := (s.srcElems (srcB z (.ty z.ty)) t).1.getD e 0
      let holds := match z.x30 with
        | 0 => a % 2 ^ w = b % 2 ^ w
        | 1 => a % 2 ^ w ≠ b % 2 ^ w
        | 2 => sext w a < sext w b
        | 3 => sext w a ≤ sext w b
        | 4 => sext w b < sext w a
        | 5 => sext w b ≤ sext w a
        | 6 => a % 2 ^ w < b % 2 ^ w
        | 7 => a % 2 ^ w ≤ b % 2 ^ w
        | 8 => b % 2 ^ w < a % 2 ^ w
        | _ => b % 2 ^ w ≤ a % 2 ^ w
      (holds → elem (x.out t).val w e = 2 ^ w - 1) ∧ (¬ holds → elem (x.out t).val w e = 0)

/-- R2: a write at a location is read back, and other bytes keep their value. -/
def Obligations.WrittenBytesReadBack : Prop :=
    ∀ (m : Mem) (a : Agent) (loc : Nat) (bs : List Byte), Memory.wf m = true →
    (m.write a loc bs).read loc bs.length = bs ∧ Memory.wf (m.write a loc bs) = true
    ∧ ∀ x, (x < loc ∨ loc + bs.length ≤ x) → getB (m.write a loc bs).bytes x = getB m.bytes x
end

