-- ==== Sys2Proof/Laws/Maps.lean ====
section
/-! SUPPORT. Laws of the sparse tables: what a table reads after it is written, and that every operation
keeps the keys rising and the byte tables canonical. -/

namespace Sys2Proof.Machine

/-! ### Reading after writing -/

@[simp] theorem look_nil {α : Type} (x : Nat) : look ([] : NMap α) x = none := rfl

@[simp] theorem look_put_self {α : Type} (m : NMap α) (x : Nat) (a : α) : look (put m x a) x = some a := by
  induction m with
  | nil => simp [put, look]
  | cons c m ih =>
    obtain ⟨k, v⟩ := c
    simp only [put]
    split
    · simp [look]
    · split
      · simp [look]
      · simp [look, *]

theorem look_put_ne {α : Type} (m : NMap α) {x y : Nat} (a : α) (h : y ≠ x) : look (put m x a) y = look m y := by
  induction m with
  | nil => simp [put, look, h]
  | cons c m ih =>
    obtain ⟨k, v⟩ := c
    simp only [put]
    split
    · simp [look, h]
    · split
      · simp_all [look]
      · simp only [look]; split <;> simp_all

theorem look_put {α : Type} (m : NMap α) (x y : Nat) (a : α) :
    look (put m x a) y = if y = x then some a else look m y := by
  split
  · rename_i h; subst h; exact look_put_self m y a
  · exact look_put_ne m a ‹_›

theorem look_upd {α : Type} (m : NMap α) (x y : Nat) (f : α → α) :
    look (upd m x f) y = if y = x then (look m y).map f else look m y := by
  induction m with
  | nil => simp [upd, look]
  | cons c m ih =>
    obtain ⟨k, v⟩ := c
    simp only [upd]
    by_cases h1 : x = k
    · subst h1; simp only [if_true, look]; split <;> simp
    · simp only [h1, if_false, look]
      by_cases h2 : y = k
      · subst h2
        have : ¬ y = x := fun h => h1 h.symm
        simp [this]
      · simp [h2, ih]

/-- Changes under one key, one after the other. -/
theorem upd_upd {α : Type} (m : NMap α) (x : Nat) (f g : α → α) : upd (upd m x f) x g = upd m x (fun a => g (f a)) := by
  induction m with
  | nil => rfl
  | cons c m ih =>
    obtain ⟨k, v⟩ := c
    simp only [upd]
    by_cases h : x = k
    · simp [upd, h]
    · simp [upd, h, ih]

/-- A change of every value keeps the keys. -/
theorem look_map {α : Type} (m : NMap α) (f : α → α) (x : Nat) :
    look (List.map (fun (c : Nat × α) => (c.1, f c.2)) m) x = (look m x).map f := by
  induction m with
  | nil => rfl
  | cons c m ih =>
    obtain ⟨k, v⟩ := c
    simp only [List.map_cons, look]
    split
    · rfl
    · exact ih

@[simp] theorem look_upd_self {α : Type} (m : NMap α) (x : Nat) (f : α → α) : look (upd m x f) x = (look m x).map f := by
  simp [look_upd]

theorem look_upd_ne {α : Type} (m : NMap α) {x y : Nat} (f : α → α) (h : y ≠ x) : look (upd m x f) y = look m y := by
  simp [look_upd, h]

theorem look_del_ne {α : Type} (m : NMap α) {x y : Nat} (h : y ≠ x) : look (del m x) y = look m y := by
  induction m with
  | nil => rfl
  | cons c m ih =>
    obtain ⟨k, v⟩ := c
    simp only [del]
    split
    · simp_all [look]
    · simp only [look]; split <;> simp_all

/-! ### Rising keys -/

/-- Every key of a table is above a bound. -/
def above {α : Type} (k : Nat) (m : NMap α) : Prop := ∀ c ∈ m, k < c.1

theorem sorted_cons {α : Type} (c : Nat × α) (m : NMap α) : sorted (c :: m) = true ↔ above c.1 m ∧ sorted m = true := by
  induction m generalizing c with
  | nil => simp [sorted, above]
  | cons d m ih =>
    obtain ⟨k, v⟩ := c
    obtain ⟨k', v'⟩ := d
    simp only [sorted, Bool.and_eq_true, decide_eq_true_eq]
    constructor
    · rintro ⟨h1, h2⟩
      refine ⟨?_, h2⟩
      intro c hc
      rcases List.mem_cons.1 hc with rfl | hc
      · exact h1
      · exact Nat.lt_trans h1 (((ih (k', v')).1 h2).1 c hc)
    · rintro ⟨h1, h2⟩
      exact ⟨h1 (k', v') (by simp), h2⟩

theorem above_of_lt {α : Type} {j k : Nat} {m : NMap α} (h : j < k) (hm : above k m) : above j m :=
  fun c hc => Nat.lt_trans h (hm c hc)

theorem above_put {α : Type} {k x : Nat} {m : NMap α} (a : α) (h : k < x) (hm : above k m) : above k (put m x a) := by
  induction m with
  | nil => intro c hc; simp [put] at hc; simp [hc, h]
  | cons d m ih =>
    obtain ⟨k', v⟩ := d
    simp only [put]
    have hk : k < k' := hm (k', v) (by simp)
    have ht : above k m := fun c hc => hm c (by simp [hc])
    split
    · intro c hc
      rcases List.mem_cons.1 hc with rfl | hc
      · exact h
      · exact hm c hc
    · split
      · intro c hc
        rcases List.mem_cons.1 hc with rfl | hc
        · exact h
        · exact ht c hc
      · intro c hc
        rcases List.mem_cons.1 hc with rfl | hc
        · exact hk
        · exact ih ht c hc

theorem sorted_put {α : Type} (m : NMap α) (x : Nat) (a : α) (h : sorted m = true) : sorted (put m x a) = true := by
  induction m with
  | nil => rfl
  | cons d m ih =>
    obtain ⟨k, v⟩ := d
    obtain ⟨h1, h2⟩ := (sorted_cons _ _).1 h
    simp only [put]
    split
    · refine (sorted_cons _ _).2 ⟨?_, h⟩
      intro c hc
      rcases List.mem_cons.1 hc with rfl | hc
      · assumption
      · exact Nat.lt_trans ‹_› (h1 c hc)
    · split
      · rename_i h3; subst h3; exact (sorted_cons _ _).2 ⟨h1, h2⟩
      · exact (sorted_cons _ _).2 ⟨above_put a (by simp only; omega) h1, ih h2⟩

theorem mem_del {α : Type} {m : NMap α} {x : Nat} {c : Nat × α} (h : c ∈ del m x) : c ∈ m := by
  induction m with
  | nil => exact h
  | cons d m ih =>
    obtain ⟨k, v⟩ := d
    simp only [del] at h
    split at h
    · exact List.mem_cons_of_mem _ h
    · rcases List.mem_cons.1 h with rfl | h
      · simp
      · exact List.mem_cons_of_mem _ (ih h)

theorem sorted_del {α : Type} (m : NMap α) (x : Nat) (h : sorted m = true) : sorted (del m x) = true := by
  induction m with
  | nil => rfl
  | cons d m ih =>
    obtain ⟨k, v⟩ := d
    obtain ⟨h1, h2⟩ := (sorted_cons _ _).1 h
    simp only [del]
    split
    · exact h2
    · exact (sorted_cons _ _).2 ⟨fun c hc => h1 c (mem_del hc), ih h2⟩

theorem sorted_filter {α : Type} (m : NMap α) (p : Nat × α → Bool) (h : sorted m = true) : sorted (m.filter p) = true := by
  induction m with
  | nil => rfl
  | cons d m ih =>
    obtain ⟨h1, h2⟩ := (sorted_cons _ _).1 h
    simp only [List.filter]
    split
    · exact (sorted_cons _ _).2 ⟨fun c hc => h1 c (List.mem_filter.1 hc |>.1), ih h2⟩
    · exact ih h2

theorem sorted_upd {α : Type} (m : NMap α) (x : Nat) (f : α → α) (h : sorted m = true) : sorted (upd m x f) = true := by
  induction m with
  | nil => rfl
  | cons d m ih =>
    obtain ⟨k, v⟩ := d
    obtain ⟨h1, h2⟩ := (sorted_cons _ _).1 h
    simp only [upd]
    split
    · exact (sorted_cons _ _).2 ⟨h1, h2⟩
    · refine (sorted_cons _ _).2 ⟨?_, ih h2⟩
      intro c hc
      have key : ∀ (m : NMap α), c ∈ upd m x f → ∃ d ∈ m, d.1 = c.1 := by
        intro m
        induction m with
        | nil => intro h; cases h
        | cons e m ih =>
          obtain ⟨k', v'⟩ := e
          intro h
          simp only [upd] at h
          split at h
          · rcases List.mem_cons.1 h with rfl | h
            · exact ⟨(k', v'), by simp, rfl⟩
            · exact ⟨c, by simp [h], rfl⟩
          · rcases List.mem_cons.1 h with rfl | h
            · exact ⟨_, by simp, rfl⟩
            · obtain ⟨d, hd, he⟩ := ih h; exact ⟨d, by simp [hd], he⟩
      obtain ⟨d, hd, he⟩ := key m hc
      exact he ▸ h1 d hd

/-! ### Byte tables -/

theorem wfB_iff (m : NMap Byte) : wfB m = true ↔ sorted m = true ∧ ∀ c ∈ m, c.2 ≠ 0 := by simp [wfB]

theorem wfB_filter (m : NMap Byte) (p : Nat × Byte → Bool) (h : wfB m = true) : wfB (m.filter p) = true := by
  rw [wfB_iff] at h ⊢
  exact ⟨sorted_filter m p h.1, fun c hc => h.2 c (List.mem_filter.1 hc |>.1)⟩

theorem mem_put {α : Type} {m : NMap α} {x : Nat} {a : α} {c : Nat × α} (h : c ∈ put m x a) : c = (x, a) ∨ c ∈ m := by
  induction m with
  | nil => simpa [put] using h
  | cons d m ih =>
    obtain ⟨k, v⟩ := d
    simp only [put] at h
    split at h
    · rcases List.mem_cons.1 h with rfl | h
      · exact .inl rfl
      · exact .inr h
    · split at h
      · rcases List.mem_cons.1 h with rfl | h
        · exact .inl rfl
        · exact .inr (List.mem_cons_of_mem _ h)
      · rcases List.mem_cons.1 h with rfl | h
        · exact .inr (by simp)
        · rcases ih h with h | h
          · exact .inl h
          · exact .inr (List.mem_cons_of_mem _ h)

/-- Writing a byte keeps the canonical form. -/
theorem wfB_setB (m : NMap Byte) (a : Nat) (b : Byte) (h : wfB m = true) : wfB (setB m a b) = true := by
  rw [wfB_iff] at h
  unfold setB
  split
  · exact (wfB_iff _).2 ⟨sorted_del m a h.1, fun c hc => h.2 c (mem_del hc)⟩
  · refine (wfB_iff _).2 ⟨sorted_put m a b h.1, fun c hc => ?_⟩
    rcases mem_put hc with rfl | hc
    · assumption
    · exact h.2 c hc

/-- Writing bytes keeps the canonical form. -/
theorem wfB_setBs (m : NMap Byte) (a : Nat) (bs : List Byte) (h : wfB m = true) : wfB (setBs m a bs) = true := by
  induction bs generalizing m a with
  | nil => exact h
  | cons b bs ih => exact ih _ _ (wfB_setB m a b h)

/-- Dropping a range keeps the canonical form. -/
theorem wfB_clearRange (m : NMap Byte) (a n : Nat) (h : wfB m = true) : wfB (clearRange m a n) = true := wfB_filter m _ h

theorem look_none_of_above {α : Type} {m : NMap α} {x : Nat} (h : above x m) : look m x = none := by
  induction m with
  | nil => rfl
  | cons d m ih =>
    obtain ⟨k, v⟩ := d
    have hk : x < k := h (k, v) (by simp)
    simp only [look]
    rw [if_neg (by omega)]
    exact ih fun c hc => h c (by simp [hc])

theorem look_del_self {α : Type} (m : NMap α) (x : Nat) (h : sorted m = true) : look (del m x) x = none := by
  induction m with
  | nil => rfl
  | cons d m ih =>
    obtain ⟨k, v⟩ := d
    obtain ⟨h1, h2⟩ := (sorted_cons _ _).1 h
    simp only [del]
    split
    · rename_i h3; subst h3; exact look_none_of_above h1
    · simp only [look, if_neg ‹_›]; exact ih h2

/-- A byte just written reads back, in a canonical table. -/
theorem getB_setB_self (m : NMap Byte) (a : Nat) (b : Byte) (h : wfB m = true) : getB (setB m a b) a = b := by
  rw [wfB_iff] at h
  unfold setB getB
  split
  · rw [look_del_self m a h.1]; simp_all
  · simp

/-- Every other byte reads as before. -/
theorem getB_setB_ne (m : NMap Byte) {a x : Nat} (b : Byte) (h : x ≠ a) : getB (setB m a b) x = getB m x := by
  unfold setB getB
  split
  · rw [look_del_ne m h]
  · rw [look_put_ne m b h]

/-- Bytes outside a written range read as before. -/
theorem getB_setBs_ne (m : NMap Byte) (a x : Nat) (bs : List Byte) (h : x < a ∨ a + bs.length ≤ x) :
    getB (setBs m a bs) x = getB m x := by
  induction bs generalizing m a with
  | nil => rfl
  | cons b bs ih =>
    simp only [List.length_cons] at h
    rw [setBs, ih (setB m a b) (a + 1) (by omega), getB_setB_ne m b (by omega)]

/-- Bytes just written read back. -/
theorem getBs_setBs_self (m : NMap Byte) (a : Nat) (bs : List Byte) (h : wfB m = true) :
    getBs (setBs m a bs) a bs.length = bs := by
  induction bs generalizing m a with
  | nil => rfl
  | cons b bs ih =>
    simp only [List.length_cons, getBs, setBs]
    rw [ih _ _ (wfB_setB m a b h), getB_setBs_ne _ _ _ _ (by omega), getB_setB_self m a b h]

theorem getBs_length (m : NMap Byte) (a n : Nat) : (getBs m a n).length = n := by
  induction n generalizing a with
  | zero => rfl
  | succ n ih => simp [getBs, ih]

/-- A range outside another is read as before the other is written. -/
theorem getBs_setBs_ne (m : NMap Byte) (a x n : Nat) (bs : List Byte) (h : x + n ≤ a ∨ a + bs.length ≤ x) :
    getBs (setBs m a bs) x n = getBs m x n := by
  induction n generalizing x with
  | zero => rfl
  | succ n ih => rw [getBs, getBs, ih (x + 1) (by omega), getB_setBs_ne m a x bs (by omega)]

end Sys2Proof.Machine
end

