-- ==== Sys2Proof/Laws/State.lean ====
section
/-! SUPPORT. One lemma for each field of State under each update of the shared operations, true by
definition, and what the accessors read after an update. -/

namespace Sys2Proof.Machine

/-! ### setBeam -/

@[simp] theorem setBeam_sched (s : State) (bk : Nat) (b : Beam) : (s.setBeam bk b).sched = s.sched := rfl
@[simp] theorem setBeam_threads (s : State) (bk : Nat) (b : Beam) : (s.setBeam bk b).threads = s.threads := rfl
@[simp] theorem setBeam_beams (s : State) (bk : Nat) (b : Beam) : (s.setBeam bk b).beams = put s.beams bk b := rfl
@[simp] theorem setBeam_wgs (s : State) (bk : Nat) (b : Beam) : (s.setBeam bk b).wgs = s.wgs := rfl
@[simp] theorem setBeam_gangs (s : State) (bk : Nat) (b : Beam) : (s.setBeam bk b).gangs = s.gangs := rfl
@[simp] theorem setBeam_launches (s : State) (bk : Nat) (b : Beam) : (s.setBeam bk b).launches = s.launches := rfl
@[simp] theorem setBeam_cores (s : State) (bk : Nat) (b : Beam) : (s.setBeam bk b).cores = s.cores := rfl
@[simp] theorem setBeam_ops (s : State) (bk : Nat) (b : Beam) : (s.setBeam bk b).ops = s.ops := rfl
@[simp] theorem setBeam_mem (s : State) (bk : Nat) (b : Beam) : (s.setBeam bk b).mem = s.mem := rfl
@[simp] theorem setBeam_queues (s : State) (bk : Nat) (b : Beam) : (s.setBeam bk b).queues = s.queues := rfl
@[simp] theorem setBeam_pool (s : State) (bk : Nat) (b : Beam) : (s.setBeam bk b).pool = s.pool := rfl
@[simp] theorem setBeam_poolGen (s : State) (bk : Nat) (b : Beam) : (s.setBeam bk b).poolGen = s.poolGen := rfl
@[simp] theorem setBeam_tickets (s : State) (bk : Nat) (b : Beam) : (s.setBeam bk b).tickets = s.tickets := rfl
@[simp] theorem setBeam_nextTicket (s : State) (bk : Nat) (b : Beam) : (s.setBeam bk b).nextTicket = s.nextTicket := rfl
@[simp] theorem setBeam_net (s : State) (bk : Nat) (b : Beam) : (s.setBeam bk b).net = s.net := rfl
@[simp] theorem setBeam_evbuf (s : State) (bk : Nat) (b : Beam) : (s.setBeam bk b).evbuf = s.evbuf := rfl
@[simp] theorem setBeam_time (s : State) (bk : Nat) (b : Beam) : (s.setBeam bk b).time = s.time := rfl
@[simp] theorem setBeam_regs (s : State) (bk : Nat) (b : Beam) : (s.setBeam bk b).regs = s.regs := rfl
@[simp] theorem setBeam_ctxRegs (s : State) (bk : Nat) (b : Beam) : (s.setBeam bk b).ctxRegs = s.ctxRegs := rfl
@[simp] theorem setBeam_links (s : State) (bk : Nat) (b : Beam) : (s.setBeam bk b).links = s.links := rfl
@[simp] theorem setBeam_hot (s : State) (bk : Nat) (b : Beam) : (s.setBeam bk b).hot = s.hot := rfl
@[simp] theorem setBeam_heat (s : State) (bk : Nat) (b : Beam) : (s.setBeam bk b).heat = s.heat := rfl
@[simp] theorem setBeam_cool (s : State) (bk : Nat) (b : Beam) : (s.setBeam bk b).cool = s.cool := rfl
@[simp] theorem setBeam_ports (s : State) (bk : Nat) (b : Beam) : (s.setBeam bk b).ports = s.ports := rfl
@[simp] theorem setBeam_reply (s : State) (bk : Nat) (b : Beam) : (s.setBeam bk b).reply = s.reply := rfl
@[simp] theorem setBeam_pushReply (s : State) (bk : Nat) (b : Beam) : (s.setBeam bk b).pushReply = s.pushReply := rfl
@[simp] theorem setBeam_firmware (s : State) (bk : Nat) (b : Beam) : (s.setBeam bk b).firmware = s.firmware := rfl
@[simp] theorem setBeam_fencedCols (s : State) (bk : Nat) (b : Beam) : (s.setBeam bk b).fencedCols = s.fencedCols := rfl
@[simp] theorem setBeam_outDies (s : State) (bk : Nat) (b : Beam) : (s.setBeam bk b).outDies = s.outDies := rfl

/-! ### modBeam -/

@[simp] theorem modBeam_sched (s : State) (bk : Nat) (f : Beam → Beam) : (s.modBeam bk f).sched = s.sched := rfl
@[simp] theorem modBeam_threads (s : State) (bk : Nat) (f : Beam → Beam) : (s.modBeam bk f).threads = s.threads := rfl
@[simp] theorem modBeam_beams (s : State) (bk : Nat) (f : Beam → Beam) : (s.modBeam bk f).beams = upd s.beams bk f := rfl
@[simp] theorem modBeam_wgs (s : State) (bk : Nat) (f : Beam → Beam) : (s.modBeam bk f).wgs = s.wgs := rfl
@[simp] theorem modBeam_gangs (s : State) (bk : Nat) (f : Beam → Beam) : (s.modBeam bk f).gangs = s.gangs := rfl
@[simp] theorem modBeam_launches (s : State) (bk : Nat) (f : Beam → Beam) : (s.modBeam bk f).launches = s.launches := rfl
@[simp] theorem modBeam_cores (s : State) (bk : Nat) (f : Beam → Beam) : (s.modBeam bk f).cores = s.cores := rfl
@[simp] theorem modBeam_ops (s : State) (bk : Nat) (f : Beam → Beam) : (s.modBeam bk f).ops = s.ops := rfl
@[simp] theorem modBeam_mem (s : State) (bk : Nat) (f : Beam → Beam) : (s.modBeam bk f).mem = s.mem := rfl
@[simp] theorem modBeam_queues (s : State) (bk : Nat) (f : Beam → Beam) : (s.modBeam bk f).queues = s.queues := rfl
@[simp] theorem modBeam_pool (s : State) (bk : Nat) (f : Beam → Beam) : (s.modBeam bk f).pool = s.pool := rfl
@[simp] theorem modBeam_poolGen (s : State) (bk : Nat) (f : Beam → Beam) : (s.modBeam bk f).poolGen = s.poolGen := rfl
@[simp] theorem modBeam_tickets (s : State) (bk : Nat) (f : Beam → Beam) : (s.modBeam bk f).tickets = s.tickets := rfl
@[simp] theorem modBeam_nextTicket (s : State) (bk : Nat) (f : Beam → Beam) : (s.modBeam bk f).nextTicket = s.nextTicket := rfl
@[simp] theorem modBeam_net (s : State) (bk : Nat) (f : Beam → Beam) : (s.modBeam bk f).net = s.net := rfl
@[simp] theorem modBeam_evbuf (s : State) (bk : Nat) (f : Beam → Beam) : (s.modBeam bk f).evbuf = s.evbuf := rfl
@[simp] theorem modBeam_time (s : State) (bk : Nat) (f : Beam → Beam) : (s.modBeam bk f).time = s.time := rfl
@[simp] theorem modBeam_regs (s : State) (bk : Nat) (f : Beam → Beam) : (s.modBeam bk f).regs = s.regs := rfl
@[simp] theorem modBeam_ctxRegs (s : State) (bk : Nat) (f : Beam → Beam) : (s.modBeam bk f).ctxRegs = s.ctxRegs := rfl
@[simp] theorem modBeam_links (s : State) (bk : Nat) (f : Beam → Beam) : (s.modBeam bk f).links = s.links := rfl
@[simp] theorem modBeam_hot (s : State) (bk : Nat) (f : Beam → Beam) : (s.modBeam bk f).hot = s.hot := rfl
@[simp] theorem modBeam_heat (s : State) (bk : Nat) (f : Beam → Beam) : (s.modBeam bk f).heat = s.heat := rfl
@[simp] theorem modBeam_cool (s : State) (bk : Nat) (f : Beam → Beam) : (s.modBeam bk f).cool = s.cool := rfl
@[simp] theorem modBeam_ports (s : State) (bk : Nat) (f : Beam → Beam) : (s.modBeam bk f).ports = s.ports := rfl
@[simp] theorem modBeam_reply (s : State) (bk : Nat) (f : Beam → Beam) : (s.modBeam bk f).reply = s.reply := rfl
@[simp] theorem modBeam_pushReply (s : State) (bk : Nat) (f : Beam → Beam) : (s.modBeam bk f).pushReply = s.pushReply := rfl
@[simp] theorem modBeam_firmware (s : State) (bk : Nat) (f : Beam → Beam) : (s.modBeam bk f).firmware = s.firmware := rfl
@[simp] theorem modBeam_fencedCols (s : State) (bk : Nat) (f : Beam → Beam) : (s.modBeam bk f).fencedCols = s.fencedCols := rfl
@[simp] theorem modBeam_outDies (s : State) (bk : Nat) (f : Beam → Beam) : (s.modBeam bk f).outDies = s.outDies := rfl

/-! ### modCb -/

@[simp] theorem modCb_sched (s : State) (f : Beam → Beam) : (s.modCb f).sched = s.sched := rfl
@[simp] theorem modCb_threads (s : State) (f : Beam → Beam) : (s.modCb f).threads = s.threads := rfl
@[simp] theorem modCb_beams (s : State) (f : Beam → Beam) : (s.modCb f).beams = upd s.beams s.sched.cur f := rfl
@[simp] theorem modCb_wgs (s : State) (f : Beam → Beam) : (s.modCb f).wgs = s.wgs := rfl
@[simp] theorem modCb_gangs (s : State) (f : Beam → Beam) : (s.modCb f).gangs = s.gangs := rfl
@[simp] theorem modCb_launches (s : State) (f : Beam → Beam) : (s.modCb f).launches = s.launches := rfl
@[simp] theorem modCb_cores (s : State) (f : Beam → Beam) : (s.modCb f).cores = s.cores := rfl
@[simp] theorem modCb_ops (s : State) (f : Beam → Beam) : (s.modCb f).ops = s.ops := rfl
@[simp] theorem modCb_mem (s : State) (f : Beam → Beam) : (s.modCb f).mem = s.mem := rfl
@[simp] theorem modCb_queues (s : State) (f : Beam → Beam) : (s.modCb f).queues = s.queues := rfl
@[simp] theorem modCb_pool (s : State) (f : Beam → Beam) : (s.modCb f).pool = s.pool := rfl
@[simp] theorem modCb_poolGen (s : State) (f : Beam → Beam) : (s.modCb f).poolGen = s.poolGen := rfl
@[simp] theorem modCb_tickets (s : State) (f : Beam → Beam) : (s.modCb f).tickets = s.tickets := rfl
@[simp] theorem modCb_nextTicket (s : State) (f : Beam → Beam) : (s.modCb f).nextTicket = s.nextTicket := rfl
@[simp] theorem modCb_net (s : State) (f : Beam → Beam) : (s.modCb f).net = s.net := rfl
@[simp] theorem modCb_evbuf (s : State) (f : Beam → Beam) : (s.modCb f).evbuf = s.evbuf := rfl
@[simp] theorem modCb_time (s : State) (f : Beam → Beam) : (s.modCb f).time = s.time := rfl
@[simp] theorem modCb_regs (s : State) (f : Beam → Beam) : (s.modCb f).regs = s.regs := rfl
@[simp] theorem modCb_ctxRegs (s : State) (f : Beam → Beam) : (s.modCb f).ctxRegs = s.ctxRegs := rfl
@[simp] theorem modCb_links (s : State) (f : Beam → Beam) : (s.modCb f).links = s.links := rfl
@[simp] theorem modCb_hot (s : State) (f : Beam → Beam) : (s.modCb f).hot = s.hot := rfl
@[simp] theorem modCb_heat (s : State) (f : Beam → Beam) : (s.modCb f).heat = s.heat := rfl
@[simp] theorem modCb_cool (s : State) (f : Beam → Beam) : (s.modCb f).cool = s.cool := rfl
@[simp] theorem modCb_ports (s : State) (f : Beam → Beam) : (s.modCb f).ports = s.ports := rfl
@[simp] theorem modCb_reply (s : State) (f : Beam → Beam) : (s.modCb f).reply = s.reply := rfl
@[simp] theorem modCb_pushReply (s : State) (f : Beam → Beam) : (s.modCb f).pushReply = s.pushReply := rfl
@[simp] theorem modCb_firmware (s : State) (f : Beam → Beam) : (s.modCb f).firmware = s.firmware := rfl
@[simp] theorem modCb_fencedCols (s : State) (f : Beam → Beam) : (s.modCb f).fencedCols = s.fencedCols := rfl
@[simp] theorem modCb_outDies (s : State) (f : Beam → Beam) : (s.modCb f).outDies = s.outDies := rfl

/-! ### modWg -/

@[simp] theorem modWg_sched (s : State) (id : Nat) (f : Wg → Wg) : (s.modWg id f).sched = s.sched := rfl
@[simp] theorem modWg_threads (s : State) (id : Nat) (f : Wg → Wg) : (s.modWg id f).threads = s.threads := rfl
@[simp] theorem modWg_beams (s : State) (id : Nat) (f : Wg → Wg) : (s.modWg id f).beams = s.beams := rfl
@[simp] theorem modWg_wgs (s : State) (id : Nat) (f : Wg → Wg) : (s.modWg id f).wgs = upd s.wgs id f := rfl
@[simp] theorem modWg_gangs (s : State) (id : Nat) (f : Wg → Wg) : (s.modWg id f).gangs = s.gangs := rfl
@[simp] theorem modWg_launches (s : State) (id : Nat) (f : Wg → Wg) : (s.modWg id f).launches = s.launches := rfl
@[simp] theorem modWg_cores (s : State) (id : Nat) (f : Wg → Wg) : (s.modWg id f).cores = s.cores := rfl
@[simp] theorem modWg_ops (s : State) (id : Nat) (f : Wg → Wg) : (s.modWg id f).ops = s.ops := rfl
@[simp] theorem modWg_mem (s : State) (id : Nat) (f : Wg → Wg) : (s.modWg id f).mem = s.mem := rfl
@[simp] theorem modWg_queues (s : State) (id : Nat) (f : Wg → Wg) : (s.modWg id f).queues = s.queues := rfl
@[simp] theorem modWg_pool (s : State) (id : Nat) (f : Wg → Wg) : (s.modWg id f).pool = s.pool := rfl
@[simp] theorem modWg_poolGen (s : State) (id : Nat) (f : Wg → Wg) : (s.modWg id f).poolGen = s.poolGen := rfl
@[simp] theorem modWg_tickets (s : State) (id : Nat) (f : Wg → Wg) : (s.modWg id f).tickets = s.tickets := rfl
@[simp] theorem modWg_nextTicket (s : State) (id : Nat) (f : Wg → Wg) : (s.modWg id f).nextTicket = s.nextTicket := rfl
@[simp] theorem modWg_net (s : State) (id : Nat) (f : Wg → Wg) : (s.modWg id f).net = s.net := rfl
@[simp] theorem modWg_evbuf (s : State) (id : Nat) (f : Wg → Wg) : (s.modWg id f).evbuf = s.evbuf := rfl
@[simp] theorem modWg_time (s : State) (id : Nat) (f : Wg → Wg) : (s.modWg id f).time = s.time := rfl
@[simp] theorem modWg_regs (s : State) (id : Nat) (f : Wg → Wg) : (s.modWg id f).regs = s.regs := rfl
@[simp] theorem modWg_ctxRegs (s : State) (id : Nat) (f : Wg → Wg) : (s.modWg id f).ctxRegs = s.ctxRegs := rfl
@[simp] theorem modWg_links (s : State) (id : Nat) (f : Wg → Wg) : (s.modWg id f).links = s.links := rfl
@[simp] theorem modWg_hot (s : State) (id : Nat) (f : Wg → Wg) : (s.modWg id f).hot = s.hot := rfl
@[simp] theorem modWg_heat (s : State) (id : Nat) (f : Wg → Wg) : (s.modWg id f).heat = s.heat := rfl
@[simp] theorem modWg_cool (s : State) (id : Nat) (f : Wg → Wg) : (s.modWg id f).cool = s.cool := rfl
@[simp] theorem modWg_ports (s : State) (id : Nat) (f : Wg → Wg) : (s.modWg id f).ports = s.ports := rfl
@[simp] theorem modWg_reply (s : State) (id : Nat) (f : Wg → Wg) : (s.modWg id f).reply = s.reply := rfl
@[simp] theorem modWg_pushReply (s : State) (id : Nat) (f : Wg → Wg) : (s.modWg id f).pushReply = s.pushReply := rfl
@[simp] theorem modWg_firmware (s : State) (id : Nat) (f : Wg → Wg) : (s.modWg id f).firmware = s.firmware := rfl
@[simp] theorem modWg_fencedCols (s : State) (id : Nat) (f : Wg → Wg) : (s.modWg id f).fencedCols = s.fencedCols := rfl
@[simp] theorem modWg_outDies (s : State) (id : Nat) (f : Wg → Wg) : (s.modWg id f).outDies = s.outDies := rfl

/-! ### modCwg -/

@[simp] theorem modCwg_sched (s : State) (f : Wg → Wg) : (s.modCwg f).sched = s.sched := rfl
@[simp] theorem modCwg_threads (s : State) (f : Wg → Wg) : (s.modCwg f).threads = s.threads := rfl
@[simp] theorem modCwg_beams (s : State) (f : Wg → Wg) : (s.modCwg f).beams = s.beams := rfl
@[simp] theorem modCwg_wgs (s : State) (f : Wg → Wg) : (s.modCwg f).wgs = upd s.wgs s.cb.wg f := rfl
@[simp] theorem modCwg_gangs (s : State) (f : Wg → Wg) : (s.modCwg f).gangs = s.gangs := rfl
@[simp] theorem modCwg_launches (s : State) (f : Wg → Wg) : (s.modCwg f).launches = s.launches := rfl
@[simp] theorem modCwg_cores (s : State) (f : Wg → Wg) : (s.modCwg f).cores = s.cores := rfl
@[simp] theorem modCwg_ops (s : State) (f : Wg → Wg) : (s.modCwg f).ops = s.ops := rfl
@[simp] theorem modCwg_mem (s : State) (f : Wg → Wg) : (s.modCwg f).mem = s.mem := rfl
@[simp] theorem modCwg_queues (s : State) (f : Wg → Wg) : (s.modCwg f).queues = s.queues := rfl
@[simp] theorem modCwg_pool (s : State) (f : Wg → Wg) : (s.modCwg f).pool = s.pool := rfl
@[simp] theorem modCwg_poolGen (s : State) (f : Wg → Wg) : (s.modCwg f).poolGen = s.poolGen := rfl
@[simp] theorem modCwg_tickets (s : State) (f : Wg → Wg) : (s.modCwg f).tickets = s.tickets := rfl
@[simp] theorem modCwg_nextTicket (s : State) (f : Wg → Wg) : (s.modCwg f).nextTicket = s.nextTicket := rfl
@[simp] theorem modCwg_net (s : State) (f : Wg → Wg) : (s.modCwg f).net = s.net := rfl
@[simp] theorem modCwg_evbuf (s : State) (f : Wg → Wg) : (s.modCwg f).evbuf = s.evbuf := rfl
@[simp] theorem modCwg_time (s : State) (f : Wg → Wg) : (s.modCwg f).time = s.time := rfl
@[simp] theorem modCwg_regs (s : State) (f : Wg → Wg) : (s.modCwg f).regs = s.regs := rfl
@[simp] theorem modCwg_ctxRegs (s : State) (f : Wg → Wg) : (s.modCwg f).ctxRegs = s.ctxRegs := rfl
@[simp] theorem modCwg_links (s : State) (f : Wg → Wg) : (s.modCwg f).links = s.links := rfl
@[simp] theorem modCwg_hot (s : State) (f : Wg → Wg) : (s.modCwg f).hot = s.hot := rfl
@[simp] theorem modCwg_heat (s : State) (f : Wg → Wg) : (s.modCwg f).heat = s.heat := rfl
@[simp] theorem modCwg_cool (s : State) (f : Wg → Wg) : (s.modCwg f).cool = s.cool := rfl
@[simp] theorem modCwg_ports (s : State) (f : Wg → Wg) : (s.modCwg f).ports = s.ports := rfl
@[simp] theorem modCwg_reply (s : State) (f : Wg → Wg) : (s.modCwg f).reply = s.reply := rfl
@[simp] theorem modCwg_pushReply (s : State) (f : Wg → Wg) : (s.modCwg f).pushReply = s.pushReply := rfl
@[simp] theorem modCwg_firmware (s : State) (f : Wg → Wg) : (s.modCwg f).firmware = s.firmware := rfl
@[simp] theorem modCwg_fencedCols (s : State) (f : Wg → Wg) : (s.modCwg f).fencedCols = s.fencedCols := rfl
@[simp] theorem modCwg_outDies (s : State) (f : Wg → Wg) : (s.modCwg f).outDies = s.outDies := rfl

/-! ### modLaunch -/

@[simp] theorem modLaunch_sched (s : State) (id : Nat) (f : Launch → Launch) : (s.modLaunch id f).sched = s.sched := rfl
@[simp] theorem modLaunch_threads (s : State) (id : Nat) (f : Launch → Launch) : (s.modLaunch id f).threads = s.threads := rfl
@[simp] theorem modLaunch_beams (s : State) (id : Nat) (f : Launch → Launch) : (s.modLaunch id f).beams = s.beams := rfl
@[simp] theorem modLaunch_wgs (s : State) (id : Nat) (f : Launch → Launch) : (s.modLaunch id f).wgs = s.wgs := rfl
@[simp] theorem modLaunch_gangs (s : State) (id : Nat) (f : Launch → Launch) : (s.modLaunch id f).gangs = s.gangs := rfl
@[simp] theorem modLaunch_launches (s : State) (id : Nat) (f : Launch → Launch) : (s.modLaunch id f).launches = upd s.launches id f := rfl
@[simp] theorem modLaunch_cores (s : State) (id : Nat) (f : Launch → Launch) : (s.modLaunch id f).cores = s.cores := rfl
@[simp] theorem modLaunch_ops (s : State) (id : Nat) (f : Launch → Launch) : (s.modLaunch id f).ops = s.ops := rfl
@[simp] theorem modLaunch_mem (s : State) (id : Nat) (f : Launch → Launch) : (s.modLaunch id f).mem = s.mem := rfl
@[simp] theorem modLaunch_queues (s : State) (id : Nat) (f : Launch → Launch) : (s.modLaunch id f).queues = s.queues := rfl
@[simp] theorem modLaunch_pool (s : State) (id : Nat) (f : Launch → Launch) : (s.modLaunch id f).pool = s.pool := rfl
@[simp] theorem modLaunch_poolGen (s : State) (id : Nat) (f : Launch → Launch) : (s.modLaunch id f).poolGen = s.poolGen := rfl
@[simp] theorem modLaunch_tickets (s : State) (id : Nat) (f : Launch → Launch) : (s.modLaunch id f).tickets = s.tickets := rfl
@[simp] theorem modLaunch_nextTicket (s : State) (id : Nat) (f : Launch → Launch) : (s.modLaunch id f).nextTicket = s.nextTicket := rfl
@[simp] theorem modLaunch_net (s : State) (id : Nat) (f : Launch → Launch) : (s.modLaunch id f).net = s.net := rfl
@[simp] theorem modLaunch_evbuf (s : State) (id : Nat) (f : Launch → Launch) : (s.modLaunch id f).evbuf = s.evbuf := rfl
@[simp] theorem modLaunch_time (s : State) (id : Nat) (f : Launch → Launch) : (s.modLaunch id f).time = s.time := rfl
@[simp] theorem modLaunch_regs (s : State) (id : Nat) (f : Launch → Launch) : (s.modLaunch id f).regs = s.regs := rfl
@[simp] theorem modLaunch_ctxRegs (s : State) (id : Nat) (f : Launch → Launch) : (s.modLaunch id f).ctxRegs = s.ctxRegs := rfl
@[simp] theorem modLaunch_links (s : State) (id : Nat) (f : Launch → Launch) : (s.modLaunch id f).links = s.links := rfl
@[simp] theorem modLaunch_hot (s : State) (id : Nat) (f : Launch → Launch) : (s.modLaunch id f).hot = s.hot := rfl
@[simp] theorem modLaunch_heat (s : State) (id : Nat) (f : Launch → Launch) : (s.modLaunch id f).heat = s.heat := rfl
@[simp] theorem modLaunch_cool (s : State) (id : Nat) (f : Launch → Launch) : (s.modLaunch id f).cool = s.cool := rfl
@[simp] theorem modLaunch_ports (s : State) (id : Nat) (f : Launch → Launch) : (s.modLaunch id f).ports = s.ports := rfl
@[simp] theorem modLaunch_reply (s : State) (id : Nat) (f : Launch → Launch) : (s.modLaunch id f).reply = s.reply := rfl
@[simp] theorem modLaunch_pushReply (s : State) (id : Nat) (f : Launch → Launch) : (s.modLaunch id f).pushReply = s.pushReply := rfl
@[simp] theorem modLaunch_firmware (s : State) (id : Nat) (f : Launch → Launch) : (s.modLaunch id f).firmware = s.firmware := rfl
@[simp] theorem modLaunch_fencedCols (s : State) (id : Nat) (f : Launch → Launch) : (s.modLaunch id f).fencedCols = s.fencedCols := rfl
@[simp] theorem modLaunch_outDies (s : State) (id : Nat) (f : Launch → Launch) : (s.modLaunch id f).outDies = s.outDies := rfl

/-! ### modCl -/

@[simp] theorem modCl_sched (s : State) (f : Launch → Launch) : (s.modCl f).sched = s.sched := rfl
@[simp] theorem modCl_threads (s : State) (f : Launch → Launch) : (s.modCl f).threads = s.threads := rfl
@[simp] theorem modCl_beams (s : State) (f : Launch → Launch) : (s.modCl f).beams = s.beams := rfl
@[simp] theorem modCl_wgs (s : State) (f : Launch → Launch) : (s.modCl f).wgs = s.wgs := rfl
@[simp] theorem modCl_gangs (s : State) (f : Launch → Launch) : (s.modCl f).gangs = s.gangs := rfl
@[simp] theorem modCl_launches (s : State) (f : Launch → Launch) : (s.modCl f).launches = upd s.launches s.cwg.launch f := rfl
@[simp] theorem modCl_cores (s : State) (f : Launch → Launch) : (s.modCl f).cores = s.cores := rfl
@[simp] theorem modCl_ops (s : State) (f : Launch → Launch) : (s.modCl f).ops = s.ops := rfl
@[simp] theorem modCl_mem (s : State) (f : Launch → Launch) : (s.modCl f).mem = s.mem := rfl
@[simp] theorem modCl_queues (s : State) (f : Launch → Launch) : (s.modCl f).queues = s.queues := rfl
@[simp] theorem modCl_pool (s : State) (f : Launch → Launch) : (s.modCl f).pool = s.pool := rfl
@[simp] theorem modCl_poolGen (s : State) (f : Launch → Launch) : (s.modCl f).poolGen = s.poolGen := rfl
@[simp] theorem modCl_tickets (s : State) (f : Launch → Launch) : (s.modCl f).tickets = s.tickets := rfl
@[simp] theorem modCl_nextTicket (s : State) (f : Launch → Launch) : (s.modCl f).nextTicket = s.nextTicket := rfl
@[simp] theorem modCl_net (s : State) (f : Launch → Launch) : (s.modCl f).net = s.net := rfl
@[simp] theorem modCl_evbuf (s : State) (f : Launch → Launch) : (s.modCl f).evbuf = s.evbuf := rfl
@[simp] theorem modCl_time (s : State) (f : Launch → Launch) : (s.modCl f).time = s.time := rfl
@[simp] theorem modCl_regs (s : State) (f : Launch → Launch) : (s.modCl f).regs = s.regs := rfl
@[simp] theorem modCl_ctxRegs (s : State) (f : Launch → Launch) : (s.modCl f).ctxRegs = s.ctxRegs := rfl
@[simp] theorem modCl_links (s : State) (f : Launch → Launch) : (s.modCl f).links = s.links := rfl
@[simp] theorem modCl_hot (s : State) (f : Launch → Launch) : (s.modCl f).hot = s.hot := rfl
@[simp] theorem modCl_heat (s : State) (f : Launch → Launch) : (s.modCl f).heat = s.heat := rfl
@[simp] theorem modCl_cool (s : State) (f : Launch → Launch) : (s.modCl f).cool = s.cool := rfl
@[simp] theorem modCl_ports (s : State) (f : Launch → Launch) : (s.modCl f).ports = s.ports := rfl
@[simp] theorem modCl_reply (s : State) (f : Launch → Launch) : (s.modCl f).reply = s.reply := rfl
@[simp] theorem modCl_pushReply (s : State) (f : Launch → Launch) : (s.modCl f).pushReply = s.pushReply := rfl
@[simp] theorem modCl_firmware (s : State) (f : Launch → Launch) : (s.modCl f).firmware = s.firmware := rfl
@[simp] theorem modCl_fencedCols (s : State) (f : Launch → Launch) : (s.modCl f).fencedCols = s.fencedCols := rfl
@[simp] theorem modCl_outDies (s : State) (f : Launch → Launch) : (s.modCl f).outDies = s.outDies := rfl

/-! ### setCore -/

@[simp] theorem setCore_sched (s : State) (c : Nat) (x : Core) : (s.setCore c x).sched = s.sched := rfl
@[simp] theorem setCore_threads (s : State) (c : Nat) (x : Core) : (s.setCore c x).threads = s.threads := rfl
@[simp] theorem setCore_beams (s : State) (c : Nat) (x : Core) : (s.setCore c x).beams = s.beams := rfl
@[simp] theorem setCore_wgs (s : State) (c : Nat) (x : Core) : (s.setCore c x).wgs = s.wgs := rfl
@[simp] theorem setCore_gangs (s : State) (c : Nat) (x : Core) : (s.setCore c x).gangs = s.gangs := rfl
@[simp] theorem setCore_launches (s : State) (c : Nat) (x : Core) : (s.setCore c x).launches = s.launches := rfl
@[simp] theorem setCore_cores (s : State) (c : Nat) (x : Core) : (s.setCore c x).cores = put s.cores c x := rfl
@[simp] theorem setCore_ops (s : State) (c : Nat) (x : Core) : (s.setCore c x).ops = s.ops := rfl
@[simp] theorem setCore_mem (s : State) (c : Nat) (x : Core) : (s.setCore c x).mem = s.mem := rfl
@[simp] theorem setCore_queues (s : State) (c : Nat) (x : Core) : (s.setCore c x).queues = s.queues := rfl
@[simp] theorem setCore_pool (s : State) (c : Nat) (x : Core) : (s.setCore c x).pool = s.pool := rfl
@[simp] theorem setCore_poolGen (s : State) (c : Nat) (x : Core) : (s.setCore c x).poolGen = s.poolGen := rfl
@[simp] theorem setCore_tickets (s : State) (c : Nat) (x : Core) : (s.setCore c x).tickets = s.tickets := rfl
@[simp] theorem setCore_nextTicket (s : State) (c : Nat) (x : Core) : (s.setCore c x).nextTicket = s.nextTicket := rfl
@[simp] theorem setCore_net (s : State) (c : Nat) (x : Core) : (s.setCore c x).net = s.net := rfl
@[simp] theorem setCore_evbuf (s : State) (c : Nat) (x : Core) : (s.setCore c x).evbuf = s.evbuf := rfl
@[simp] theorem setCore_time (s : State) (c : Nat) (x : Core) : (s.setCore c x).time = s.time := rfl
@[simp] theorem setCore_regs (s : State) (c : Nat) (x : Core) : (s.setCore c x).regs = s.regs := rfl
@[simp] theorem setCore_ctxRegs (s : State) (c : Nat) (x : Core) : (s.setCore c x).ctxRegs = s.ctxRegs := rfl
@[simp] theorem setCore_links (s : State) (c : Nat) (x : Core) : (s.setCore c x).links = s.links := rfl
@[simp] theorem setCore_hot (s : State) (c : Nat) (x : Core) : (s.setCore c x).hot = s.hot := rfl
@[simp] theorem setCore_heat (s : State) (c : Nat) (x : Core) : (s.setCore c x).heat = s.heat := rfl
@[simp] theorem setCore_cool (s : State) (c : Nat) (x : Core) : (s.setCore c x).cool = s.cool := rfl
@[simp] theorem setCore_ports (s : State) (c : Nat) (x : Core) : (s.setCore c x).ports = s.ports := rfl
@[simp] theorem setCore_reply (s : State) (c : Nat) (x : Core) : (s.setCore c x).reply = s.reply := rfl
@[simp] theorem setCore_pushReply (s : State) (c : Nat) (x : Core) : (s.setCore c x).pushReply = s.pushReply := rfl
@[simp] theorem setCore_firmware (s : State) (c : Nat) (x : Core) : (s.setCore c x).firmware = s.firmware := rfl
@[simp] theorem setCore_fencedCols (s : State) (c : Nat) (x : Core) : (s.setCore c x).fencedCols = s.fencedCols := rfl
@[simp] theorem setCore_outDies (s : State) (c : Nat) (x : Core) : (s.setCore c x).outDies = s.outDies := rfl

/-! ### modCore -/

@[simp] theorem modCore_sched (s : State) (c : Nat) (f : Core → Core) : (s.modCore c f).sched = s.sched := rfl
@[simp] theorem modCore_threads (s : State) (c : Nat) (f : Core → Core) : (s.modCore c f).threads = s.threads := rfl
@[simp] theorem modCore_beams (s : State) (c : Nat) (f : Core → Core) : (s.modCore c f).beams = s.beams := rfl
@[simp] theorem modCore_wgs (s : State) (c : Nat) (f : Core → Core) : (s.modCore c f).wgs = s.wgs := rfl
@[simp] theorem modCore_gangs (s : State) (c : Nat) (f : Core → Core) : (s.modCore c f).gangs = s.gangs := rfl
@[simp] theorem modCore_launches (s : State) (c : Nat) (f : Core → Core) : (s.modCore c f).launches = s.launches := rfl
@[simp] theorem modCore_cores (s : State) (c : Nat) (f : Core → Core) : (s.modCore c f).cores = put s.cores c (f (s.core c)) := rfl
@[simp] theorem modCore_ops (s : State) (c : Nat) (f : Core → Core) : (s.modCore c f).ops = s.ops := rfl
@[simp] theorem modCore_mem (s : State) (c : Nat) (f : Core → Core) : (s.modCore c f).mem = s.mem := rfl
@[simp] theorem modCore_queues (s : State) (c : Nat) (f : Core → Core) : (s.modCore c f).queues = s.queues := rfl
@[simp] theorem modCore_pool (s : State) (c : Nat) (f : Core → Core) : (s.modCore c f).pool = s.pool := rfl
@[simp] theorem modCore_poolGen (s : State) (c : Nat) (f : Core → Core) : (s.modCore c f).poolGen = s.poolGen := rfl
@[simp] theorem modCore_tickets (s : State) (c : Nat) (f : Core → Core) : (s.modCore c f).tickets = s.tickets := rfl
@[simp] theorem modCore_nextTicket (s : State) (c : Nat) (f : Core → Core) : (s.modCore c f).nextTicket = s.nextTicket := rfl
@[simp] theorem modCore_net (s : State) (c : Nat) (f : Core → Core) : (s.modCore c f).net = s.net := rfl
@[simp] theorem modCore_evbuf (s : State) (c : Nat) (f : Core → Core) : (s.modCore c f).evbuf = s.evbuf := rfl
@[simp] theorem modCore_time (s : State) (c : Nat) (f : Core → Core) : (s.modCore c f).time = s.time := rfl
@[simp] theorem modCore_regs (s : State) (c : Nat) (f : Core → Core) : (s.modCore c f).regs = s.regs := rfl
@[simp] theorem modCore_ctxRegs (s : State) (c : Nat) (f : Core → Core) : (s.modCore c f).ctxRegs = s.ctxRegs := rfl
@[simp] theorem modCore_links (s : State) (c : Nat) (f : Core → Core) : (s.modCore c f).links = s.links := rfl
@[simp] theorem modCore_hot (s : State) (c : Nat) (f : Core → Core) : (s.modCore c f).hot = s.hot := rfl
@[simp] theorem modCore_heat (s : State) (c : Nat) (f : Core → Core) : (s.modCore c f).heat = s.heat := rfl
@[simp] theorem modCore_cool (s : State) (c : Nat) (f : Core → Core) : (s.modCore c f).cool = s.cool := rfl
@[simp] theorem modCore_ports (s : State) (c : Nat) (f : Core → Core) : (s.modCore c f).ports = s.ports := rfl
@[simp] theorem modCore_reply (s : State) (c : Nat) (f : Core → Core) : (s.modCore c f).reply = s.reply := rfl
@[simp] theorem modCore_pushReply (s : State) (c : Nat) (f : Core → Core) : (s.modCore c f).pushReply = s.pushReply := rfl
@[simp] theorem modCore_firmware (s : State) (c : Nat) (f : Core → Core) : (s.modCore c f).firmware = s.firmware := rfl
@[simp] theorem modCore_fencedCols (s : State) (c : Nat) (f : Core → Core) : (s.modCore c f).fencedCols = s.fencedCols := rfl
@[simp] theorem modCore_outDies (s : State) (c : Nat) (f : Core → Core) : (s.modCore c f).outDies = s.outDies := rfl

/-! ### modThread -/

@[simp] theorem modThread_sched (s : State) (tk : Nat) (f : Thread → Thread) : (s.modThread tk f).sched = s.sched := rfl
@[simp] theorem modThread_threads (s : State) (tk : Nat) (f : Thread → Thread) : (s.modThread tk f).threads = upd s.threads tk f := rfl
@[simp] theorem modThread_beams (s : State) (tk : Nat) (f : Thread → Thread) : (s.modThread tk f).beams = s.beams := rfl
@[simp] theorem modThread_wgs (s : State) (tk : Nat) (f : Thread → Thread) : (s.modThread tk f).wgs = s.wgs := rfl
@[simp] theorem modThread_gangs (s : State) (tk : Nat) (f : Thread → Thread) : (s.modThread tk f).gangs = s.gangs := rfl
@[simp] theorem modThread_launches (s : State) (tk : Nat) (f : Thread → Thread) : (s.modThread tk f).launches = s.launches := rfl
@[simp] theorem modThread_cores (s : State) (tk : Nat) (f : Thread → Thread) : (s.modThread tk f).cores = s.cores := rfl
@[simp] theorem modThread_ops (s : State) (tk : Nat) (f : Thread → Thread) : (s.modThread tk f).ops = s.ops := rfl
@[simp] theorem modThread_mem (s : State) (tk : Nat) (f : Thread → Thread) : (s.modThread tk f).mem = s.mem := rfl
@[simp] theorem modThread_queues (s : State) (tk : Nat) (f : Thread → Thread) : (s.modThread tk f).queues = s.queues := rfl
@[simp] theorem modThread_pool (s : State) (tk : Nat) (f : Thread → Thread) : (s.modThread tk f).pool = s.pool := rfl
@[simp] theorem modThread_poolGen (s : State) (tk : Nat) (f : Thread → Thread) : (s.modThread tk f).poolGen = s.poolGen := rfl
@[simp] theorem modThread_tickets (s : State) (tk : Nat) (f : Thread → Thread) : (s.modThread tk f).tickets = s.tickets := rfl
@[simp] theorem modThread_nextTicket (s : State) (tk : Nat) (f : Thread → Thread) : (s.modThread tk f).nextTicket = s.nextTicket := rfl
@[simp] theorem modThread_net (s : State) (tk : Nat) (f : Thread → Thread) : (s.modThread tk f).net = s.net := rfl
@[simp] theorem modThread_evbuf (s : State) (tk : Nat) (f : Thread → Thread) : (s.modThread tk f).evbuf = s.evbuf := rfl
@[simp] theorem modThread_time (s : State) (tk : Nat) (f : Thread → Thread) : (s.modThread tk f).time = s.time := rfl
@[simp] theorem modThread_regs (s : State) (tk : Nat) (f : Thread → Thread) : (s.modThread tk f).regs = s.regs := rfl
@[simp] theorem modThread_ctxRegs (s : State) (tk : Nat) (f : Thread → Thread) : (s.modThread tk f).ctxRegs = s.ctxRegs := rfl
@[simp] theorem modThread_links (s : State) (tk : Nat) (f : Thread → Thread) : (s.modThread tk f).links = s.links := rfl
@[simp] theorem modThread_hot (s : State) (tk : Nat) (f : Thread → Thread) : (s.modThread tk f).hot = s.hot := rfl
@[simp] theorem modThread_heat (s : State) (tk : Nat) (f : Thread → Thread) : (s.modThread tk f).heat = s.heat := rfl
@[simp] theorem modThread_cool (s : State) (tk : Nat) (f : Thread → Thread) : (s.modThread tk f).cool = s.cool := rfl
@[simp] theorem modThread_ports (s : State) (tk : Nat) (f : Thread → Thread) : (s.modThread tk f).ports = s.ports := rfl
@[simp] theorem modThread_reply (s : State) (tk : Nat) (f : Thread → Thread) : (s.modThread tk f).reply = s.reply := rfl
@[simp] theorem modThread_pushReply (s : State) (tk : Nat) (f : Thread → Thread) : (s.modThread tk f).pushReply = s.pushReply := rfl
@[simp] theorem modThread_firmware (s : State) (tk : Nat) (f : Thread → Thread) : (s.modThread tk f).firmware = s.firmware := rfl
@[simp] theorem modThread_fencedCols (s : State) (tk : Nat) (f : Thread → Thread) : (s.modThread tk f).fencedCols = s.fencedCols := rfl
@[simp] theorem modThread_outDies (s : State) (tk : Nat) (f : Thread → Thread) : (s.modThread tk f).outDies = s.outDies := rfl

/-! ### modTh -/

@[simp] theorem modTh_sched (s : State) (t : Nat) (f : Thread → Thread) : (s.modTh t f).sched = s.sched := rfl
@[simp] theorem modTh_threads (s : State) (t : Nat) (f : Thread → Thread) : (s.modTh t f).threads = upd s.threads (s.tkey t) f := rfl
@[simp] theorem modTh_beams (s : State) (t : Nat) (f : Thread → Thread) : (s.modTh t f).beams = s.beams := rfl
@[simp] theorem modTh_wgs (s : State) (t : Nat) (f : Thread → Thread) : (s.modTh t f).wgs = s.wgs := rfl
@[simp] theorem modTh_gangs (s : State) (t : Nat) (f : Thread → Thread) : (s.modTh t f).gangs = s.gangs := rfl
@[simp] theorem modTh_launches (s : State) (t : Nat) (f : Thread → Thread) : (s.modTh t f).launches = s.launches := rfl
@[simp] theorem modTh_cores (s : State) (t : Nat) (f : Thread → Thread) : (s.modTh t f).cores = s.cores := rfl
@[simp] theorem modTh_ops (s : State) (t : Nat) (f : Thread → Thread) : (s.modTh t f).ops = s.ops := rfl
@[simp] theorem modTh_mem (s : State) (t : Nat) (f : Thread → Thread) : (s.modTh t f).mem = s.mem := rfl
@[simp] theorem modTh_queues (s : State) (t : Nat) (f : Thread → Thread) : (s.modTh t f).queues = s.queues := rfl
@[simp] theorem modTh_pool (s : State) (t : Nat) (f : Thread → Thread) : (s.modTh t f).pool = s.pool := rfl
@[simp] theorem modTh_poolGen (s : State) (t : Nat) (f : Thread → Thread) : (s.modTh t f).poolGen = s.poolGen := rfl
@[simp] theorem modTh_tickets (s : State) (t : Nat) (f : Thread → Thread) : (s.modTh t f).tickets = s.tickets := rfl
@[simp] theorem modTh_nextTicket (s : State) (t : Nat) (f : Thread → Thread) : (s.modTh t f).nextTicket = s.nextTicket := rfl
@[simp] theorem modTh_net (s : State) (t : Nat) (f : Thread → Thread) : (s.modTh t f).net = s.net := rfl
@[simp] theorem modTh_evbuf (s : State) (t : Nat) (f : Thread → Thread) : (s.modTh t f).evbuf = s.evbuf := rfl
@[simp] theorem modTh_time (s : State) (t : Nat) (f : Thread → Thread) : (s.modTh t f).time = s.time := rfl
@[simp] theorem modTh_regs (s : State) (t : Nat) (f : Thread → Thread) : (s.modTh t f).regs = s.regs := rfl
@[simp] theorem modTh_ctxRegs (s : State) (t : Nat) (f : Thread → Thread) : (s.modTh t f).ctxRegs = s.ctxRegs := rfl
@[simp] theorem modTh_links (s : State) (t : Nat) (f : Thread → Thread) : (s.modTh t f).links = s.links := rfl
@[simp] theorem modTh_hot (s : State) (t : Nat) (f : Thread → Thread) : (s.modTh t f).hot = s.hot := rfl
@[simp] theorem modTh_heat (s : State) (t : Nat) (f : Thread → Thread) : (s.modTh t f).heat = s.heat := rfl
@[simp] theorem modTh_cool (s : State) (t : Nat) (f : Thread → Thread) : (s.modTh t f).cool = s.cool := rfl
@[simp] theorem modTh_ports (s : State) (t : Nat) (f : Thread → Thread) : (s.modTh t f).ports = s.ports := rfl
@[simp] theorem modTh_reply (s : State) (t : Nat) (f : Thread → Thread) : (s.modTh t f).reply = s.reply := rfl
@[simp] theorem modTh_pushReply (s : State) (t : Nat) (f : Thread → Thread) : (s.modTh t f).pushReply = s.pushReply := rfl
@[simp] theorem modTh_firmware (s : State) (t : Nat) (f : Thread → Thread) : (s.modTh t f).firmware = s.firmware := rfl
@[simp] theorem modTh_fencedCols (s : State) (t : Nat) (f : Thread → Thread) : (s.modTh t f).fencedCols = s.fencedCols := rfl
@[simp] theorem modTh_outDies (s : State) (t : Nat) (f : Thread → Thread) : (s.modTh t f).outDies = s.outDies := rfl

/-! ### setReg -/

@[simp] theorem setReg_sched (s : State) (n : Nat) (v : W32) : (s.setReg n v).sched = s.sched := rfl
@[simp] theorem setReg_threads (s : State) (n : Nat) (v : W32) : (s.setReg n v).threads = s.threads := rfl
@[simp] theorem setReg_beams (s : State) (n : Nat) (v : W32) : (s.setReg n v).beams = s.beams := rfl
@[simp] theorem setReg_wgs (s : State) (n : Nat) (v : W32) : (s.setReg n v).wgs = s.wgs := rfl
@[simp] theorem setReg_gangs (s : State) (n : Nat) (v : W32) : (s.setReg n v).gangs = s.gangs := rfl
@[simp] theorem setReg_launches (s : State) (n : Nat) (v : W32) : (s.setReg n v).launches = s.launches := rfl
@[simp] theorem setReg_cores (s : State) (n : Nat) (v : W32) : (s.setReg n v).cores = s.cores := rfl
@[simp] theorem setReg_ops (s : State) (n : Nat) (v : W32) : (s.setReg n v).ops = s.ops := rfl
@[simp] theorem setReg_mem (s : State) (n : Nat) (v : W32) : (s.setReg n v).mem = s.mem := rfl
@[simp] theorem setReg_queues (s : State) (n : Nat) (v : W32) : (s.setReg n v).queues = s.queues := rfl
@[simp] theorem setReg_pool (s : State) (n : Nat) (v : W32) : (s.setReg n v).pool = s.pool := rfl
@[simp] theorem setReg_poolGen (s : State) (n : Nat) (v : W32) : (s.setReg n v).poolGen = s.poolGen := rfl
@[simp] theorem setReg_tickets (s : State) (n : Nat) (v : W32) : (s.setReg n v).tickets = s.tickets := rfl
@[simp] theorem setReg_nextTicket (s : State) (n : Nat) (v : W32) : (s.setReg n v).nextTicket = s.nextTicket := rfl
@[simp] theorem setReg_net (s : State) (n : Nat) (v : W32) : (s.setReg n v).net = s.net := rfl
@[simp] theorem setReg_evbuf (s : State) (n : Nat) (v : W32) : (s.setReg n v).evbuf = s.evbuf := rfl
@[simp] theorem setReg_time (s : State) (n : Nat) (v : W32) : (s.setReg n v).time = s.time := rfl
@[simp] theorem setReg_regs (s : State) (n : Nat) (v : W32) : (s.setReg n v).regs = put s.regs n v := rfl
@[simp] theorem setReg_ctxRegs (s : State) (n : Nat) (v : W32) : (s.setReg n v).ctxRegs = s.ctxRegs := rfl
@[simp] theorem setReg_links (s : State) (n : Nat) (v : W32) : (s.setReg n v).links = s.links := rfl
@[simp] theorem setReg_hot (s : State) (n : Nat) (v : W32) : (s.setReg n v).hot = s.hot := rfl
@[simp] theorem setReg_heat (s : State) (n : Nat) (v : W32) : (s.setReg n v).heat = s.heat := rfl
@[simp] theorem setReg_cool (s : State) (n : Nat) (v : W32) : (s.setReg n v).cool = s.cool := rfl
@[simp] theorem setReg_ports (s : State) (n : Nat) (v : W32) : (s.setReg n v).ports = s.ports := rfl
@[simp] theorem setReg_reply (s : State) (n : Nat) (v : W32) : (s.setReg n v).reply = s.reply := rfl
@[simp] theorem setReg_pushReply (s : State) (n : Nat) (v : W32) : (s.setReg n v).pushReply = s.pushReply := rfl
@[simp] theorem setReg_firmware (s : State) (n : Nat) (v : W32) : (s.setReg n v).firmware = s.firmware := rfl
@[simp] theorem setReg_fencedCols (s : State) (n : Nat) (v : W32) : (s.setReg n v).fencedCols = s.fencedCols := rfl
@[simp] theorem setReg_outDies (s : State) (n : Nat) (v : W32) : (s.setReg n v).outDies = s.outDies := rfl

/-! ### setCtxReg -/

@[simp] theorem setCtxReg_sched (s : State) (c n : Nat) (v : W32) : (s.setCtxReg c n v).sched = s.sched := rfl
@[simp] theorem setCtxReg_threads (s : State) (c n : Nat) (v : W32) : (s.setCtxReg c n v).threads = s.threads := rfl
@[simp] theorem setCtxReg_beams (s : State) (c n : Nat) (v : W32) : (s.setCtxReg c n v).beams = s.beams := rfl
@[simp] theorem setCtxReg_wgs (s : State) (c n : Nat) (v : W32) : (s.setCtxReg c n v).wgs = s.wgs := rfl
@[simp] theorem setCtxReg_gangs (s : State) (c n : Nat) (v : W32) : (s.setCtxReg c n v).gangs = s.gangs := rfl
@[simp] theorem setCtxReg_launches (s : State) (c n : Nat) (v : W32) : (s.setCtxReg c n v).launches = s.launches := rfl
@[simp] theorem setCtxReg_cores (s : State) (c n : Nat) (v : W32) : (s.setCtxReg c n v).cores = s.cores := rfl
@[simp] theorem setCtxReg_ops (s : State) (c n : Nat) (v : W32) : (s.setCtxReg c n v).ops = s.ops := rfl
@[simp] theorem setCtxReg_mem (s : State) (c n : Nat) (v : W32) : (s.setCtxReg c n v).mem = s.mem := rfl
@[simp] theorem setCtxReg_queues (s : State) (c n : Nat) (v : W32) : (s.setCtxReg c n v).queues = s.queues := rfl
@[simp] theorem setCtxReg_pool (s : State) (c n : Nat) (v : W32) : (s.setCtxReg c n v).pool = s.pool := rfl
@[simp] theorem setCtxReg_poolGen (s : State) (c n : Nat) (v : W32) : (s.setCtxReg c n v).poolGen = s.poolGen := rfl
@[simp] theorem setCtxReg_tickets (s : State) (c n : Nat) (v : W32) : (s.setCtxReg c n v).tickets = s.tickets := rfl
@[simp] theorem setCtxReg_nextTicket (s : State) (c n : Nat) (v : W32) : (s.setCtxReg c n v).nextTicket = s.nextTicket := rfl
@[simp] theorem setCtxReg_net (s : State) (c n : Nat) (v : W32) : (s.setCtxReg c n v).net = s.net := rfl
@[simp] theorem setCtxReg_evbuf (s : State) (c n : Nat) (v : W32) : (s.setCtxReg c n v).evbuf = s.evbuf := rfl
@[simp] theorem setCtxReg_time (s : State) (c n : Nat) (v : W32) : (s.setCtxReg c n v).time = s.time := rfl
@[simp] theorem setCtxReg_regs (s : State) (c n : Nat) (v : W32) : (s.setCtxReg c n v).regs = s.regs := rfl
@[simp] theorem setCtxReg_ctxRegs (s : State) (c n : Nat) (v : W32) : (s.setCtxReg c n v).ctxRegs = put s.ctxRegs (c * 65536 + n) v := rfl
@[simp] theorem setCtxReg_links (s : State) (c n : Nat) (v : W32) : (s.setCtxReg c n v).links = s.links := rfl
@[simp] theorem setCtxReg_hot (s : State) (c n : Nat) (v : W32) : (s.setCtxReg c n v).hot = s.hot := rfl
@[simp] theorem setCtxReg_heat (s : State) (c n : Nat) (v : W32) : (s.setCtxReg c n v).heat = s.heat := rfl
@[simp] theorem setCtxReg_cool (s : State) (c n : Nat) (v : W32) : (s.setCtxReg c n v).cool = s.cool := rfl
@[simp] theorem setCtxReg_ports (s : State) (c n : Nat) (v : W32) : (s.setCtxReg c n v).ports = s.ports := rfl
@[simp] theorem setCtxReg_reply (s : State) (c n : Nat) (v : W32) : (s.setCtxReg c n v).reply = s.reply := rfl
@[simp] theorem setCtxReg_pushReply (s : State) (c n : Nat) (v : W32) : (s.setCtxReg c n v).pushReply = s.pushReply := rfl
@[simp] theorem setCtxReg_firmware (s : State) (c n : Nat) (v : W32) : (s.setCtxReg c n v).firmware = s.firmware := rfl
@[simp] theorem setCtxReg_fencedCols (s : State) (c n : Nat) (v : W32) : (s.setCtxReg c n v).fencedCols = s.fencedCols := rfl
@[simp] theorem setCtxReg_outDies (s : State) (c n : Nat) (v : W32) : (s.setCtxReg c n v).outDies = s.outDies := rfl

/-! ### Accessors after updates of other tables -/

@[simp] theorem setBeam_wg (s : State) (bk : Nat) (b : Beam) (k' : Nat) : (s.setBeam bk b).wg k' = s.wg k' := rfl
@[simp] theorem setBeam_gang (s : State) (bk : Nat) (b : Beam) (k' : Nat) : (s.setBeam bk b).gang k' = s.gang k' := rfl
@[simp] theorem setBeam_launch (s : State) (bk : Nat) (b : Beam) (k' : Nat) : (s.setBeam bk b).launch k' = s.launch k' := rfl
@[simp] theorem setBeam_core (s : State) (bk : Nat) (b : Beam) (k' : Nat) : (s.setBeam bk b).core k' = s.core k' := rfl
@[simp] theorem setBeam_thread (s : State) (bk : Nat) (b : Beam) (k' : Nat) : (s.setBeam bk b).thread k' = s.thread k' := rfl
@[simp] theorem setBeam_reg (s : State) (bk : Nat) (b : Beam) (k' : Nat) : (s.setBeam bk b).reg k' = s.reg k' := rfl
@[simp] theorem setBeam_ctxReg (s : State) (bk : Nat) (b : Beam) (c' k' : Nat) : (s.setBeam bk b).ctxReg c' k' = s.ctxReg c' k' := rfl
@[simp] theorem setBeam_queue (s : State) (bk : Nat) (b : Beam) (k' : Nat) : (s.setBeam bk b).queue k' = s.queue k' := rfl
@[simp] theorem modBeam_wg (s : State) (bk : Nat) (f : Beam → Beam) (k' : Nat) : (s.modBeam bk f).wg k' = s.wg k' := rfl
@[simp] theorem modBeam_gang (s : State) (bk : Nat) (f : Beam → Beam) (k' : Nat) : (s.modBeam bk f).gang k' = s.gang k' := rfl
@[simp] theorem modBeam_launch (s : State) (bk : Nat) (f : Beam → Beam) (k' : Nat) : (s.modBeam bk f).launch k' = s.launch k' := rfl
@[simp] theorem modBeam_core (s : State) (bk : Nat) (f : Beam → Beam) (k' : Nat) : (s.modBeam bk f).core k' = s.core k' := rfl
@[simp] theorem modBeam_thread (s : State) (bk : Nat) (f : Beam → Beam) (k' : Nat) : (s.modBeam bk f).thread k' = s.thread k' := rfl
@[simp] theorem modBeam_reg (s : State) (bk : Nat) (f : Beam → Beam) (k' : Nat) : (s.modBeam bk f).reg k' = s.reg k' := rfl
@[simp] theorem modBeam_ctxReg (s : State) (bk : Nat) (f : Beam → Beam) (c' k' : Nat) : (s.modBeam bk f).ctxReg c' k' = s.ctxReg c' k' := rfl
@[simp] theorem modBeam_queue (s : State) (bk : Nat) (f : Beam → Beam) (k' : Nat) : (s.modBeam bk f).queue k' = s.queue k' := rfl
@[simp] theorem modCb_wg (s : State) (f : Beam → Beam) (k' : Nat) : (s.modCb f).wg k' = s.wg k' := rfl
@[simp] theorem modCb_gang (s : State) (f : Beam → Beam) (k' : Nat) : (s.modCb f).gang k' = s.gang k' := rfl
@[simp] theorem modCb_launch (s : State) (f : Beam → Beam) (k' : Nat) : (s.modCb f).launch k' = s.launch k' := rfl
@[simp] theorem modCb_core (s : State) (f : Beam → Beam) (k' : Nat) : (s.modCb f).core k' = s.core k' := rfl
@[simp] theorem modCb_thread (s : State) (f : Beam → Beam) (k' : Nat) : (s.modCb f).thread k' = s.thread k' := rfl
@[simp] theorem modCb_reg (s : State) (f : Beam → Beam) (k' : Nat) : (s.modCb f).reg k' = s.reg k' := rfl
@[simp] theorem modCb_ctxReg (s : State) (f : Beam → Beam) (c' k' : Nat) : (s.modCb f).ctxReg c' k' = s.ctxReg c' k' := rfl
@[simp] theorem modCb_queue (s : State) (f : Beam → Beam) (k' : Nat) : (s.modCb f).queue k' = s.queue k' := rfl
@[simp] theorem modWg_beam (s : State) (id : Nat) (f : Wg → Wg) (k' : Nat) : (s.modWg id f).beam k' = s.beam k' := rfl
@[simp] theorem modWg_gang (s : State) (id : Nat) (f : Wg → Wg) (k' : Nat) : (s.modWg id f).gang k' = s.gang k' := rfl
@[simp] theorem modWg_launch (s : State) (id : Nat) (f : Wg → Wg) (k' : Nat) : (s.modWg id f).launch k' = s.launch k' := rfl
@[simp] theorem modWg_core (s : State) (id : Nat) (f : Wg → Wg) (k' : Nat) : (s.modWg id f).core k' = s.core k' := rfl
@[simp] theorem modWg_thread (s : State) (id : Nat) (f : Wg → Wg) (k' : Nat) : (s.modWg id f).thread k' = s.thread k' := rfl
@[simp] theorem modWg_reg (s : State) (id : Nat) (f : Wg → Wg) (k' : Nat) : (s.modWg id f).reg k' = s.reg k' := rfl
@[simp] theorem modWg_ctxReg (s : State) (id : Nat) (f : Wg → Wg) (c' k' : Nat) : (s.modWg id f).ctxReg c' k' = s.ctxReg c' k' := rfl
@[simp] theorem modWg_queue (s : State) (id : Nat) (f : Wg → Wg) (k' : Nat) : (s.modWg id f).queue k' = s.queue k' := rfl
@[simp] theorem modCwg_beam (s : State) (f : Wg → Wg) (k' : Nat) : (s.modCwg f).beam k' = s.beam k' := rfl
@[simp] theorem modCwg_gang (s : State) (f : Wg → Wg) (k' : Nat) : (s.modCwg f).gang k' = s.gang k' := rfl
@[simp] theorem modCwg_launch (s : State) (f : Wg → Wg) (k' : Nat) : (s.modCwg f).launch k' = s.launch k' := rfl
@[simp] theorem modCwg_core (s : State) (f : Wg → Wg) (k' : Nat) : (s.modCwg f).core k' = s.core k' := rfl
@[simp] theorem modCwg_thread (s : State) (f : Wg → Wg) (k' : Nat) : (s.modCwg f).thread k' = s.thread k' := rfl
@[simp] theorem modCwg_reg (s : State) (f : Wg → Wg) (k' : Nat) : (s.modCwg f).reg k' = s.reg k' := rfl
@[simp] theorem modCwg_ctxReg (s : State) (f : Wg → Wg) (c' k' : Nat) : (s.modCwg f).ctxReg c' k' = s.ctxReg c' k' := rfl
@[simp] theorem modCwg_queue (s : State) (f : Wg → Wg) (k' : Nat) : (s.modCwg f).queue k' = s.queue k' := rfl
@[simp] theorem modLaunch_beam (s : State) (id : Nat) (f : Launch → Launch) (k' : Nat) : (s.modLaunch id f).beam k' = s.beam k' := rfl
@[simp] theorem modLaunch_wg (s : State) (id : Nat) (f : Launch → Launch) (k' : Nat) : (s.modLaunch id f).wg k' = s.wg k' := rfl
@[simp] theorem modLaunch_gang (s : State) (id : Nat) (f : Launch → Launch) (k' : Nat) : (s.modLaunch id f).gang k' = s.gang k' := rfl
@[simp] theorem modLaunch_core (s : State) (id : Nat) (f : Launch → Launch) (k' : Nat) : (s.modLaunch id f).core k' = s.core k' := rfl
@[simp] theorem modLaunch_thread (s : State) (id : Nat) (f : Launch → Launch) (k' : Nat) : (s.modLaunch id f).thread k' = s.thread k' := rfl
@[simp] theorem modLaunch_reg (s : State) (id : Nat) (f : Launch → Launch) (k' : Nat) : (s.modLaunch id f).reg k' = s.reg k' := rfl
@[simp] theorem modLaunch_ctxReg (s : State) (id : Nat) (f : Launch → Launch) (c' k' : Nat) : (s.modLaunch id f).ctxReg c' k' = s.ctxReg c' k' := rfl
@[simp] theorem modLaunch_queue (s : State) (id : Nat) (f : Launch → Launch) (k' : Nat) : (s.modLaunch id f).queue k' = s.queue k' := rfl
@[simp] theorem modCl_beam (s : State) (f : Launch → Launch) (k' : Nat) : (s.modCl f).beam k' = s.beam k' := rfl
@[simp] theorem modCl_wg (s : State) (f : Launch → Launch) (k' : Nat) : (s.modCl f).wg k' = s.wg k' := rfl
@[simp] theorem modCl_gang (s : State) (f : Launch → Launch) (k' : Nat) : (s.modCl f).gang k' = s.gang k' := rfl
@[simp] theorem modCl_core (s : State) (f : Launch → Launch) (k' : Nat) : (s.modCl f).core k' = s.core k' := rfl
@[simp] theorem modCl_thread (s : State) (f : Launch → Launch) (k' : Nat) : (s.modCl f).thread k' = s.thread k' := rfl
@[simp] theorem modCl_reg (s : State) (f : Launch → Launch) (k' : Nat) : (s.modCl f).reg k' = s.reg k' := rfl
@[simp] theorem modCl_ctxReg (s : State) (f : Launch → Launch) (c' k' : Nat) : (s.modCl f).ctxReg c' k' = s.ctxReg c' k' := rfl
@[simp] theorem modCl_queue (s : State) (f : Launch → Launch) (k' : Nat) : (s.modCl f).queue k' = s.queue k' := rfl
@[simp] theorem setCore_beam (s : State) (c : Nat) (x : Core) (k' : Nat) : (s.setCore c x).beam k' = s.beam k' := rfl
@[simp] theorem setCore_wg (s : State) (c : Nat) (x : Core) (k' : Nat) : (s.setCore c x).wg k' = s.wg k' := rfl
@[simp] theorem setCore_gang (s : State) (c : Nat) (x : Core) (k' : Nat) : (s.setCore c x).gang k' = s.gang k' := rfl
@[simp] theorem setCore_launch (s : State) (c : Nat) (x : Core) (k' : Nat) : (s.setCore c x).launch k' = s.launch k' := rfl
@[simp] theorem setCore_thread (s : State) (c : Nat) (x : Core) (k' : Nat) : (s.setCore c x).thread k' = s.thread k' := rfl
@[simp] theorem setCore_reg (s : State) (c : Nat) (x : Core) (k' : Nat) : (s.setCore c x).reg k' = s.reg k' := rfl
@[simp] theorem setCore_ctxReg (s : State) (c : Nat) (x : Core) (c' k' : Nat) : (s.setCore c x).ctxReg c' k' = s.ctxReg c' k' := rfl
@[simp] theorem setCore_queue (s : State) (c : Nat) (x : Core) (k' : Nat) : (s.setCore c x).queue k' = s.queue k' := rfl
@[simp] theorem modCore_beam (s : State) (c : Nat) (f : Core → Core) (k' : Nat) : (s.modCore c f).beam k' = s.beam k' := rfl
@[simp] theorem modCore_wg (s : State) (c : Nat) (f : Core → Core) (k' : Nat) : (s.modCore c f).wg k' = s.wg k' := rfl
@[simp] theorem modCore_gang (s : State) (c : Nat) (f : Core → Core) (k' : Nat) : (s.modCore c f).gang k' = s.gang k' := rfl
@[simp] theorem modCore_launch (s : State) (c : Nat) (f : Core → Core) (k' : Nat) : (s.modCore c f).launch k' = s.launch k' := rfl
@[simp] theorem modCore_thread (s : State) (c : Nat) (f : Core → Core) (k' : Nat) : (s.modCore c f).thread k' = s.thread k' := rfl
@[simp] theorem modCore_reg (s : State) (c : Nat) (f : Core → Core) (k' : Nat) : (s.modCore c f).reg k' = s.reg k' := rfl
@[simp] theorem modCore_ctxReg (s : State) (c : Nat) (f : Core → Core) (c' k' : Nat) : (s.modCore c f).ctxReg c' k' = s.ctxReg c' k' := rfl
@[simp] theorem modCore_queue (s : State) (c : Nat) (f : Core → Core) (k' : Nat) : (s.modCore c f).queue k' = s.queue k' := rfl
@[simp] theorem modThread_beam (s : State) (tk : Nat) (f : Thread → Thread) (k' : Nat) : (s.modThread tk f).beam k' = s.beam k' := rfl
@[simp] theorem modThread_wg (s : State) (tk : Nat) (f : Thread → Thread) (k' : Nat) : (s.modThread tk f).wg k' = s.wg k' := rfl
@[simp] theorem modThread_gang (s : State) (tk : Nat) (f : Thread → Thread) (k' : Nat) : (s.modThread tk f).gang k' = s.gang k' := rfl
@[simp] theorem modThread_launch (s : State) (tk : Nat) (f : Thread → Thread) (k' : Nat) : (s.modThread tk f).launch k' = s.launch k' := rfl
@[simp] theorem modThread_core (s : State) (tk : Nat) (f : Thread → Thread) (k' : Nat) : (s.modThread tk f).core k' = s.core k' := rfl
@[simp] theorem modThread_reg (s : State) (tk : Nat) (f : Thread → Thread) (k' : Nat) : (s.modThread tk f).reg k' = s.reg k' := rfl
@[simp] theorem modThread_ctxReg (s : State) (tk : Nat) (f : Thread → Thread) (c' k' : Nat) : (s.modThread tk f).ctxReg c' k' = s.ctxReg c' k' := rfl
@[simp] theorem modThread_queue (s : State) (tk : Nat) (f : Thread → Thread) (k' : Nat) : (s.modThread tk f).queue k' = s.queue k' := rfl
@[simp] theorem modTh_beam (s : State) (t : Nat) (f : Thread → Thread) (k' : Nat) : (s.modTh t f).beam k' = s.beam k' := rfl
@[simp] theorem modTh_wg (s : State) (t : Nat) (f : Thread → Thread) (k' : Nat) : (s.modTh t f).wg k' = s.wg k' := rfl
@[simp] theorem modTh_gang (s : State) (t : Nat) (f : Thread → Thread) (k' : Nat) : (s.modTh t f).gang k' = s.gang k' := rfl
@[simp] theorem modTh_launch (s : State) (t : Nat) (f : Thread → Thread) (k' : Nat) : (s.modTh t f).launch k' = s.launch k' := rfl
@[simp] theorem modTh_core (s : State) (t : Nat) (f : Thread → Thread) (k' : Nat) : (s.modTh t f).core k' = s.core k' := rfl
@[simp] theorem modTh_reg (s : State) (t : Nat) (f : Thread → Thread) (k' : Nat) : (s.modTh t f).reg k' = s.reg k' := rfl
@[simp] theorem modTh_ctxReg (s : State) (t : Nat) (f : Thread → Thread) (c' k' : Nat) : (s.modTh t f).ctxReg c' k' = s.ctxReg c' k' := rfl
@[simp] theorem modTh_queue (s : State) (t : Nat) (f : Thread → Thread) (k' : Nat) : (s.modTh t f).queue k' = s.queue k' := rfl
@[simp] theorem setReg_beam (s : State) (n : Nat) (v : W32) (k' : Nat) : (s.setReg n v).beam k' = s.beam k' := rfl
@[simp] theorem setReg_wg (s : State) (n : Nat) (v : W32) (k' : Nat) : (s.setReg n v).wg k' = s.wg k' := rfl
@[simp] theorem setReg_gang (s : State) (n : Nat) (v : W32) (k' : Nat) : (s.setReg n v).gang k' = s.gang k' := rfl
@[simp] theorem setReg_launch (s : State) (n : Nat) (v : W32) (k' : Nat) : (s.setReg n v).launch k' = s.launch k' := rfl
@[simp] theorem setReg_core (s : State) (n : Nat) (v : W32) (k' : Nat) : (s.setReg n v).core k' = s.core k' := rfl
@[simp] theorem setReg_thread (s : State) (n : Nat) (v : W32) (k' : Nat) : (s.setReg n v).thread k' = s.thread k' := rfl
@[simp] theorem setReg_ctxReg (s : State) (n : Nat) (v : W32) (c' k' : Nat) : (s.setReg n v).ctxReg c' k' = s.ctxReg c' k' := rfl
@[simp] theorem setReg_queue (s : State) (n : Nat) (v : W32) (k' : Nat) : (s.setReg n v).queue k' = s.queue k' := rfl
@[simp] theorem setCtxReg_beam (s : State) (c n : Nat) (v : W32) (k' : Nat) : (s.setCtxReg c n v).beam k' = s.beam k' := rfl
@[simp] theorem setCtxReg_wg (s : State) (c n : Nat) (v : W32) (k' : Nat) : (s.setCtxReg c n v).wg k' = s.wg k' := rfl
@[simp] theorem setCtxReg_gang (s : State) (c n : Nat) (v : W32) (k' : Nat) : (s.setCtxReg c n v).gang k' = s.gang k' := rfl
@[simp] theorem setCtxReg_launch (s : State) (c n : Nat) (v : W32) (k' : Nat) : (s.setCtxReg c n v).launch k' = s.launch k' := rfl
@[simp] theorem setCtxReg_core (s : State) (c n : Nat) (v : W32) (k' : Nat) : (s.setCtxReg c n v).core k' = s.core k' := rfl
@[simp] theorem setCtxReg_thread (s : State) (c n : Nat) (v : W32) (k' : Nat) : (s.setCtxReg c n v).thread k' = s.thread k' := rfl
@[simp] theorem setCtxReg_reg (s : State) (c n : Nat) (v : W32) (k' : Nat) : (s.setCtxReg c n v).reg k' = s.reg k' := rfl
@[simp] theorem setCtxReg_queue (s : State) (c n : Nat) (v : W32) (k' : Nat) : (s.setCtxReg c n v).queue k' = s.queue k' := rfl

/-! ### Accessors after an update of their own table -/

theorem modBeam_beam (s : State) (bk k : Nat) (f : Beam → Beam) :
    (s.modBeam bk f).beam k = if k = bk ∧ (look s.beams k).isSome then f (s.beam k) else s.beam k := by
  simp only [State.beam, modBeam_beams, look_upd]
  by_cases h : k = bk <;> cases h2 : look s.beams k <;> simp [h]

theorem modThread_thread (s : State) (tk k : Nat) (f : Thread → Thread) :
    (s.modThread tk f).thread k = if k = tk ∧ (look s.threads k).isSome then f (s.thread k) else s.thread k := by
  simp only [State.thread, modThread_threads, look_upd]
  by_cases h : k = tk <;> cases h2 : look s.threads k <;> simp [h]

theorem modWg_wg (s : State) (id k : Nat) (f : Wg → Wg) :
    (s.modWg id f).wg k = if k = id ∧ (look s.wgs k).isSome then f (s.wg k) else s.wg k := by
  simp only [State.wg, modWg_wgs, look_upd]
  by_cases h : k = id <;> cases h2 : look s.wgs k <;> simp [h]

theorem modLaunch_launch (s : State) (id k : Nat) (f : Launch → Launch) :
    (s.modLaunch id f).launch k = if k = id ∧ (look s.launches k).isSome then f (s.launch k) else s.launch k := by
  simp only [State.launch, modLaunch_launches, look_upd]
  by_cases h : k = id <;> cases h2 : look s.launches k <;> simp [h]

theorem modCore_core (s : State) (c k : Nat) (f : Core → Core) :
    (s.modCore c f).core k = if k = c then f (s.core c) else s.core k := by
  simp only [State.core, modCore_cores, look_put]
  by_cases h : k = c <;> simp [h]

theorem setReg_reg (s : State) (n k : Nat) (v : W32) : (s.setReg n v).reg k = if k = n then v else s.reg k := by
  simp only [State.reg, setReg_regs, look_put]
  by_cases h : k = n <;> simp [h]

/-- A register reads what was last written to it. -/
@[simp] theorem setReg_reg_self (s : State) (n : Nat) (v : W32) : (s.setReg n v).reg n = v := by simp [setReg_reg]

theorem setCtxReg_ctxReg (s : State) (c n c' k : Nat) (v : W32) :
    (s.setCtxReg c n v).ctxReg c' k = if c' * 65536 + k = c * 65536 + n then v else s.ctxReg c' k := by
  simp only [State.ctxReg, setCtxReg_ctxRegs, look_put]
  split <;> simp

end Sys2Proof.Machine
end

