-- ==== Sys2Proof/Laws/Memory.lean ====
section
/-! SUPPORT. Every operation on memory keeps its canonical form, and what a write leaves as it was. -/

namespace Sys2Proof.Machine

theorem wf_iff (m : Mem) : Memory.wf m = true ↔
    wfB m.bytes = true ∧ wfB m.scratch = true ∧ wfB m.stack = true ∧ sorted m.unflushed = true ∧ sorted m.unseen = true
      ∧ sorted m.expanded = true := by
  simp only [Memory.wf, Bool.and_eq_true, and_assoc]

/-- The memory at reset. -/
theorem wf_reset : Memory.wf State.reset.mem = true := by decide

/-- Memories with the same byte tables are canonical together. -/
theorem wf_congr {m m' : Mem} (h : Memory.wf m = true) (hb : m'.bytes = m.bytes) (hs : m'.scratch = m.scratch)
    (hk : m'.stack = m.stack) (hu : m'.unflushed = m.unflushed) (hn : m'.unseen = m.unseen) (he : m'.expanded = m.expanded) :
    Memory.wf m' = true := by
  simpa only [Memory.wf, hb, hs, hk, hu, hn, he] using h

/-! ### Tables folded over -/

theorem foldl_keeps {α β : Type} (P : α → Prop) (f : α → β → α) (hf : ∀ a b, P a → P (f a b)) (l : List β) (a : α)
    (h : P a) : P (l.foldl f a) := by
  induction l generalizing a with
  | nil => exact h
  | cons b l ih => exact ih _ (hf a b h)

theorem wfB_foldl_setB (l : List (Nat × Byte)) (m : NMap Byte) (h : wfB m = true) :
    wfB (l.foldl (fun m u => setB m u.1 u.2) m) = true :=
  foldl_keeps (wfB · = true) _ (fun m u hm => wfB_setB m u.1 u.2 hm) l m h

theorem wfB_put {m : NMap Byte} {x : Nat} {b : Byte} (h : wfB m = true) (hb : b ≠ 0) : wfB (put m x b) = true := by
  have e : setB m x b = put m x b := if_neg hb
  exact e ▸ wfB_setB m x b h

/-- Listing values none of which is zero. -/
theorem wfB_foldl_put {α : Type} (k : α → Nat) (v : α → Byte) (l : List α) (hv : ∀ x ∈ l, v x ≠ 0) (m : NMap Byte) (h : wfB m = true) :
    wfB (l.foldl (fun m x => put m (k x) (v x)) m) = true := by
  induction l generalizing m with
  | nil => exact h
  | cons a l ih => exact ih (fun x hx => hv x (by simp [hx])) _ (wfB_put h (hv a (by simp)))

/-- A copy of a range over another (R404 to R408). -/
theorem wfB_copyRange (m : NMap Byte) (a n b : Nat) (h : wfB m = true) : wfB (copyRange m a n b) = true := by
  unfold copyRange
  refine wfB_foldl_put (fun x : Nat × Byte => x.1 - a + b) (·.2) _ ?_ _ (wfB_clearRange m b n h)
  intro x hx
  exact ((wfB_iff m).1 h).2 x (List.mem_filter.1 hx).1

/-- Ranges moved at once (R136). -/
theorem wfB_moveRanges (m : NMap Byte) (rs : List (Nat × Nat × Nat)) (h : wfB m = true) : wfB (moveRanges m rs) = true := by
  unfold moveRanges
  refine wfB_foldl_put (fun x : Nat × Byte => x.1) (fun x => x.2) _ ?_ _ ?_
  · intro x hx
    obtain ⟨r, -, hx⟩ := List.mem_flatMap.1 hx
    obtain ⟨y, hy, rfl⟩ := List.mem_map.1 hx
    exact ((wfB_iff m).1 h).2 y (List.mem_filter.1 hy).1
  · exact foldl_keeps (wfB · = true) _ (fun m r hm => wfB_clearRange m _ _ hm) rs _
      (foldl_keeps (wfB · = true) _ (fun m r hm => wfB_clearRange m _ _ hm) rs _ h)

/-! ### Memory -/

theorem wf_setBytes {m : Mem} {b : NMap Byte} (h : Memory.wf m = true) (hb : wfB b = true) : Memory.wf { m with bytes := b } = true := by
  rw [wf_iff] at h ⊢; exact ⟨hb, h.2⟩
theorem wf_setScratch {m : Mem} {b : NMap Byte} (h : Memory.wf m = true) (hb : wfB b = true) : Memory.wf { m with scratch := b } = true := by
  rw [wf_iff] at h ⊢; exact ⟨h.1, hb, h.2.2⟩
theorem wf_setStack {m : Mem} {b : NMap Byte} (h : Memory.wf m = true) (hb : wfB b = true) : Memory.wf { m with stack := b } = true := by
  rw [wf_iff] at h ⊢; exact ⟨h.1, h.2.1, hb, h.2.2.2⟩
theorem wf_setUnflushed {m : Mem} {b : NMap Byte} (h : Memory.wf m = true) (hb : sorted b = true) :
    Memory.wf { m with unflushed := b } = true := by
  rw [wf_iff] at h ⊢; exact ⟨h.1, h.2.1, h.2.2.1, hb, h.2.2.2.2⟩
theorem wf_setUnseen {m : Mem} {b : NMap (Byte × Nat)} (h : Memory.wf m = true) (hb : sorted b = true) :
    Memory.wf { m with unseen := b } = true := by
  rw [wf_iff] at h ⊢; exact ⟨h.1, h.2.1, h.2.2.1, h.2.2.2.1, hb, h.2.2.2.2.2⟩
theorem wf_setExpanded {m : Mem} {b : NMap Byte} (h : Memory.wf m = true) (hb : sorted b = true) :
    Memory.wf { m with expanded := b } = true := by
  rw [wf_iff] at h ⊢; exact ⟨h.1, h.2.1, h.2.2.1, h.2.2.2.1, h.2.2.2.2.1, hb⟩

theorem wf_dirty {m : Mem} (a : Agent) (loc : Nat) (h : Memory.wf m = true) : Memory.wf (m.dirty a loc) = true := by
  have hs := ((wf_iff m).1 h).2.2.2.1
  unfold Mem.dirty
  split
  · exact wf_setUnflushed h (sorted_del _ _ hs)
  · split
    · exact wf_congr h rfl rfl rfl rfl rfl rfl
    · exact wf_congr (wf_setUnflushed h (sorted_put _ loc (getB m.bytes loc) hs)) rfl rfl rfl rfl rfl rfl

theorem wf_hide {m : Mem} (a : Agent) (loc : Nat) (h : Memory.wf m = true) : Memory.wf (m.hide a loc) = true := by
  have hs := ((wf_iff m).1 h).2.2.2.2.1
  unfold Mem.hide
  split
  · exact wf_setUnseen h (sorted_del _ _ hs)
  · split
    · exact h
    · exact wf_setUnseen h (sorted_put _ _ _ hs)

theorem wf_write {m : Mem} (a : Agent) (loc : Nat) (bs : List Byte) (h : Memory.wf m = true) :
    Memory.wf (m.write a loc bs) = true := by
  induction bs generalizing m loc with
  | nil => exact h
  | cons b bs ih =>
    refine ih (loc + 1) ?_
    have hd := wf_hide a loc (wf_dirty a loc h)
    exact wf_congr (wf_setBytes hd (wfB_setB _ loc b ((wf_iff _).1 hd).1)) rfl rfl rfl rfl rfl rfl

/-- Caches come and go beside the byte tables (R243, R279, R363). -/
theorem wf_refresh {m : Mem} (p : Nat → Bool) (loc n : Nat) (h : Memory.wf m = true) : Memory.wf (m.refresh p loc n) = true :=
  wf_congr h rfl rfl rfl rfl rfl rfl
theorem wf_follow {m : Mem} (a : Agent) (loc n : Nat) (h : Memory.wf m = true) : Memory.wf (m.follow a loc n) = true := by
  unfold Mem.follow
  split
  · exact wf_refresh _ _ _ h
  · exact wf_congr h rfl rfl rfl rfl rfl rfl
  · exact h
theorem wf_dropBehind {m : Mem} (c : Nat) (h : Memory.wf m = true) : Memory.wf (m.dropBehind c) = true :=
  wf_congr h rfl rfl rfl rfl rfl rfl
theorem wf_dropCache {m : Mem} (c : Nat) (h : Memory.wf m = true) : Memory.wf (m.dropCache c) = true :=
  wf_congr h rfl rfl rfl rfl rfl rfl
theorem wf_invalidate {m : Mem} (c : Cinv) (h : Memory.wf m = true) : Memory.wf (m.invalidate c) = true := by
  unfold Mem.invalidate
  refine wf_congr (wf_setExpanded h ?_) rfl rfl rfl rfl rfl rfl
  split
  · exact sorted_filter _ _ ((wf_iff m).1 h).2.2.2.2.2
  · exact ((wf_iff m).1 h).2.2.2.2.2
theorem wf_dropPages {m : Mem} (ctx : Nat) (va : Option Nat) (h : Memory.wf m = true) : Memory.wf (m.dropPages ctx va) = true :=
  wf_congr (wf_setExpanded (wf_setUnseen h (sorted_filter _ _ ((wf_iff m).1 h).2.2.2.2.1))
    (sorted_filter _ _ ((wf_iff m).1 h).2.2.2.2.2)) rfl rfl rfl rfl rfl rfl
theorem wf_flush {m : Mem} (lines : List Nat) (h : Memory.wf m = true) : Memory.wf (m.flush lines) = true := by
  refine wf_congr (wf_setUnflushed h (foldl_keeps (sorted · = true) _ (fun u l hu => ?_) lines _ ((wf_iff m).1 h).2.2.2.1))
    rfl rfl rfl rfl rfl rfl
  exact sorted_filter _ _ hu

theorem wf_hbmPut {m : Mem} (a : Nat) (b : Byte) (h : Memory.wf m = true) : Memory.wf (m.hbmPut a b) = true := by
  have h' := (wf_iff m).1 h
  unfold Mem.hbmPut
  split
  · split
    · exact wf_setUnflushed h (sorted_del _ _ h'.2.2.2.1)
    · exact wf_setUnflushed h (sorted_put _ _ _ h'.2.2.2.1)
  · exact wf_setBytes h (wfB_setB _ _ _ h'.1)

theorem wf_heal {m : Mem} (l : List Nat) (h : Memory.wf m = true) : Memory.wf (m.heal l) = true := wf_congr h rfl rfl rfl rfl rfl rfl

/-- Sectors written anew (R454, R457): codewords are whole again, and no byte changes. -/
theorem wf_renew {m : Mem} (secs : List Nat) (h : Memory.wf m = true) : Memory.wf (m.renew secs) = true := by
  unfold Mem.renew
  refine foldl_keeps (fun m => Memory.wf m = true) _ (fun m x hm => ?_) _ _ h
  simp only
  repeat' split
  all_goals first | exact hm | exact wf_heal _ hm | exact wf_congr hm rfl rfl rfl rfl rfl rfl

/-! ### A block stored anew (R457): its bytes stand -/

/-- Storing a block anew changes which blocks are recoded and which codewords are new, and nothing else of memory. -/
theorem recode_spec (s : State) (rcd : Bool) (blk : Nat) :
    s.recode rcd blk = s ∨ ∃ l r, s.recode rcd blk = { s with mem := { s.mem.heal l with recoded := r } }
      ∨ s.recode rcd blk = { s with mem := { s.mem with recoded := r } } := by
  unfold State.recode
  simp only
  split
  · exact .inl rfl
  · split
    · exact .inr ⟨_, _, .inl rfl⟩
    · exact .inr ⟨[], _, .inr rfl⟩
@[simp] theorem recode_bytes (s : State) (rcd : Bool) (blk : Nat) : (s.recode rcd blk).mem.bytes = s.mem.bytes := by
  obtain h | ⟨l, r, h | h⟩ := recode_spec s rcd blk <;> rw [h] <;> rfl
@[simp] theorem recode_scratch (s : State) (rcd : Bool) (blk : Nat) : (s.recode rcd blk).mem.scratch = s.mem.scratch := by
  obtain h | ⟨l, r, h | h⟩ := recode_spec s rcd blk <;> rw [h] <;> rfl
@[simp] theorem recode_stack (s : State) (rcd : Bool) (blk : Nat) : (s.recode rcd blk).mem.stack = s.mem.stack := by
  obtain h | ⟨l, r, h | h⟩ := recode_spec s rcd blk <;> rw [h] <;> rfl
theorem wf_recode {s : State} (rcd : Bool) (blk : Nat) (h : Memory.wf s.mem = true) : Memory.wf (s.recode rcd blk).mem = true := by
  obtain e | ⟨l, r, e | e⟩ := recode_spec s rcd blk <;> rw [e]
  · exact h
  · exact wf_congr h rfl rfl rfl rfl rfl rfl
  · exact wf_congr h rfl rfl rfl rfl rfl rfl
/-- Blocks stored anew one after the other. -/
theorem recodes_keep {α : Type} (f : State → α) (hf : ∀ s r b, f (State.recode s r b) = f s) (g : State → Nat → Bool) (bs : List Nat) (s : State) :
    f (bs.foldl (fun s b => s.recode (g s b) b) s) = f s := by
  induction bs generalizing s with
  | nil => rfl
  | cons b bs ih => exact (ih _).trans (hf _ _ _)
theorem wf_recodes {s : State} (g : State → Nat → Bool) (bs : List Nat) (h : Memory.wf s.mem = true) :
    Memory.wf (bs.foldl (fun s b => s.recode (g s b) b) s).mem = true :=
  foldl_keeps (fun u : State => Memory.wf u.mem = true) _ (fun _ _ hu => wf_recode _ _ hu) bs s h
theorem wf_writeBack {s : State} (secs : List Nat) (h : Memory.wf s.mem = true) : Memory.wf (s.writeBack secs).mem = true :=
  wf_recodes (fun s b => (look s.mem.rcd b).getD false) _ (wf_renew secs h)

/-! ### What a write leaves as it was (R2) -/

@[simp] theorem dirty_bytes (m : Mem) (a : Agent) (loc : Nat) : (m.dirty a loc).bytes = m.bytes := by
  unfold Mem.dirty; split <;> (try split) <;> rfl
@[simp] theorem dirty_scratch (m : Mem) (a : Agent) (loc : Nat) : (m.dirty a loc).scratch = m.scratch := by
  unfold Mem.dirty; split <;> (try split) <;> rfl
@[simp] theorem dirty_stack (m : Mem) (a : Agent) (loc : Nat) : (m.dirty a loc).stack = m.stack := by
  unfold Mem.dirty; split <;> (try split) <;> rfl
@[simp] theorem hide_bytes (m : Mem) (a : Agent) (loc : Nat) : (m.hide a loc).bytes = m.bytes := by
  unfold Mem.hide; split <;> (try split) <;> rfl
@[simp] theorem hide_scratch (m : Mem) (a : Agent) (loc : Nat) : (m.hide a loc).scratch = m.scratch := by
  unfold Mem.hide; split <;> (try split) <;> rfl
@[simp] theorem hide_stack (m : Mem) (a : Agent) (loc : Nat) : (m.hide a loc).stack = m.stack := by
  unfold Mem.hide; split <;> (try split) <;> rfl

/-- A write is a write of the table of bytes. -/
@[simp] theorem write_bytes (m : Mem) (a : Agent) (loc : Nat) (bs : List Byte) : (m.write a loc bs).bytes = setBs m.bytes loc bs := by
  induction bs generalizing m loc with
  | nil => rfl
  | cons b bs ih => simp only [Mem.write, ih, setBs, hide_bytes, dirty_bytes]
@[simp] theorem write_scratch (m : Mem) (a : Agent) (loc : Nat) (bs : List Byte) : (m.write a loc bs).scratch = m.scratch := by
  induction bs generalizing m loc with
  | nil => rfl
  | cons b bs ih => simp only [Mem.write, ih, hide_scratch, dirty_scratch]
@[simp] theorem write_stack (m : Mem) (a : Agent) (loc : Nat) (bs : List Byte) : (m.write a loc bs).stack = m.stack := by
  induction bs generalizing m loc with
  | nil => rfl
  | cons b bs ih => simp only [Mem.write, ih, hide_stack, dirty_stack]

/-! ### Operations on the state -/

@[simp] theorem notify_mem (s : State) : s.notify.mem = s.mem := rfl
@[simp] theorem notify_threads (s : State) : s.notify.threads = s.threads := rfl
@[simp] theorem notify_ops (s : State) : s.notify.ops = s.ops := rfl
@[simp] theorem notify_cores (s : State) : s.notify.cores = s.cores := rfl
@[simp] theorem notify_regs (s : State) : s.notify.regs = s.regs := rfl
@[simp] theorem notify_sched (s : State) : s.notify.sched = s.sched := rfl
@[simp] theorem touch_mem (s : State) (loc n : Nat) : (s.touch loc n).mem = s.mem := by
  unfold State.touch; split <;> rfl
@[simp] theorem follow_bytes (m : Mem) (a : Agent) (loc n : Nat) : (m.follow a loc n).bytes = m.bytes := by
  unfold Mem.follow; split <;> rfl
@[simp] theorem follow_scratch (m : Mem) (a : Agent) (loc n : Nat) : (m.follow a loc n).scratch = m.scratch := by
  unfold Mem.follow; split <;> rfl
@[simp] theorem follow_stack (m : Mem) (a : Agent) (loc n : Nat) : (m.follow a loc n).stack = m.stack := by
  unfold Mem.follow; split <;> rfl
@[simp] theorem poke_bytes (s : State) (a : Agent) (loc : Nat) (bs : List Byte) :
    (s.poke a loc bs).mem.bytes = setBs s.mem.bytes loc bs := by
  unfold State.poke
  simp only [notify_mem]
  split
  · rw [recodes_keep (·.mem.bytes) recode_bytes fun _ _ => a.rcd]; simp
  · simp
@[simp] theorem poke_scratch (s : State) (a : Agent) (loc : Nat) (bs : List Byte) :
    (s.poke a loc bs).mem.scratch = s.mem.scratch := by
  unfold State.poke
  simp only [notify_mem]
  split
  · rw [recodes_keep (·.mem.scratch) recode_scratch fun _ _ => a.rcd]; simp
  · simp
@[simp] theorem poke_stack (s : State) (a : Agent) (loc : Nat) (bs : List Byte) : (s.poke a loc bs).mem.stack = s.mem.stack := by
  unfold State.poke
  simp only [notify_mem]
  split
  · rw [recodes_keep (·.mem.stack) recode_stack fun _ _ => a.rcd]; simp
  · simp
@[simp] theorem pokeS_mem (s : State) (k : Nat) (bs : List Byte) :
    (s.pokeS k bs).mem = { s.mem with scratch := setBs s.mem.scratch k bs } := rfl

theorem wf_poke {s : State} (a : Agent) (loc : Nat) (bs : List Byte) (h : Memory.wf s.mem = true) :
    Memory.wf (s.poke a loc bs).mem = true := by
  have hw : Memory.wf ((s.mem.write a loc bs).follow a loc bs.length) = true := wf_follow _ _ _ (wf_write a loc bs h)
  unfold State.poke
  simp only [notify_mem, touch_mem]
  split
  · exact wf_recodes (fun _ _ => a.rcd) _ hw
  · exact hw
theorem wf_pokeS {s : State} (k : Nat) (bs : List Byte) (h : Memory.wf s.mem = true) : Memory.wf (s.pokeS k bs).mem = true :=
  wf_setScratch h (wfB_setBs _ _ _ ((wf_iff _).1 h).2.1)

@[simp] theorem bump_mem (s : State) (n : Nat) : (s.bump n).mem = s.mem := by unfold State.bump; split <;> rfl
@[simp] theorem countUe_mem (s : State) (loc : Nat) : (s.countUe loc).mem = s.mem := by
  unfold State.countUe
  split
  · show (s.bump _).mem = s.mem; exact bump_mem _ _
  · rfl

@[simp] theorem countUes_mem (s : State) (locs : List Nat) : (s.countUes locs).mem = s.mem := by
  unfold State.countUes
  refine foldl_keeps (fun u : State => u.mem = s.mem) _ (fun u l hu => ?_) _ _ rfl
  simpa using hu

theorem wf_storePart {s : State} (a : Agent) (rs : List (Nat × Nat)) (loc : Nat) (bs : List Byte) (h : Memory.wf s.mem = true) :
    Memory.wf (s.storePart a rs loc bs).1.mem = true := by
  unfold State.storePart
  simp only
  have h1 : ∀ l : List Nat, Memory.wf (if a.nc then { s with mem := s.mem.renew l } else s : State).mem = true := by
    intro l
    split
    · exact wf_renew l h
    · exact h
  split
  · exact wf_poke _ _ _ (h1 _)
  · exact foldl_keeps (fun u : State => Memory.wf u.mem = true) _ (fun u i hu => wf_poke _ _ _ hu) _ _ (h1 _)

theorem wf_storeRange {s : State} (a : Agent) (loc : Nat) (bs : List Byte) (h : Memory.wf s.mem = true) :
    Memory.wf (s.storeRange a loc bs).1.mem = true := by
  unfold State.storeRange
  simpa using wf_storePart a _ loc bs h

theorem wf_storeS {s : State} (ks : List Nat) (bs : List Byte) (h : Memory.wf s.mem = true) : Memory.wf (s.storeS ks bs).mem = true := by
  unfold State.storeS
  refine foldl_keeps (fun u : State => Memory.wf u.mem = true) _ (fun _ _ hu => wf_pokeS _ _ hu) _ _ ?_
  exact wf_congr h rfl rfl rfl rfl rfl rfl

theorem wf_storeK {s : State} (k : Nat) (bs : List Byte) (h : Memory.wf s.mem = true) : Memory.wf (s.storeK k bs).mem = true := by
  unfold State.storeK
  have h1 := wf_setStack h (wfB_setBs s.mem.stack k bs ((wf_iff _).1 h).2.2.1)
  simpa only [Memory.wf] using h1

theorem wf_writePlace {s : State} (rs : List (Nat × Nat)) (p : Spot) (bs : List Byte) (h : Memory.wf s.mem = true) :
    Memory.wf (s.writePlace rs p bs).1.mem = true := by
  unfold State.writePlace
  cases p with
  | sram ks => exact wf_storeS _ _ h
  | stack k => exact wf_storeK _ _ h
  | mem ps =>
    refine foldl_keeps (fun q : State × List Nat × List Byte => Memory.wf q.1.mem = true) _ (fun q x hq => ?_) ps (s, [], bs) h
    exact wf_storePart _ _ _ _ hq

theorem wf_putCopy {s : State} (core ctx : Nat) (d : CopyDst) (b : Byte) (h : Memory.wf s.mem = true) :
    Memory.wf (s.putCopy core ctx d b).mem = true := by
  unfold State.putCopy
  cases d with
  | mem l nc rcd => exact wf_poke _ _ _ h
  | sram k => exact wf_pokeS _ _ h
  | stack k => exact wf_setStack h (wfB_setB _ _ _ ((wf_iff _).1 h).2.2.1)
  | gone => exact h

theorem wf_pushEntry {s : State} (q core : Nat) (e : List Byte) (h : Memory.wf s.mem = true) :
    Memory.wf (s.pushEntry q core e).mem = true := wf_write _ _ _ h

theorem wf_pushEvent {s : State} (ctx die : Nat) (e : List Byte) (h : Memory.wf s.mem = true) :
    Memory.wf (s.pushEvent ctx die e).mem = true := by
  unfold State.pushEvent
  simp only
  split
  · exact wf_pushEntry _ _ _ h
  · exact h

theorem wf_undo {s : State} (us : List (Nat × Byte)) (h : Memory.wf s.mem = true) : Memory.wf (s.undo us).mem = true := by
  unfold State.undo State.draw
  simp only
  split
  · exact h
  · refine foldl_keeps (fun u : State => Memory.wf u.mem = true) _ (fun u x hu => ?_) us _ h
    exact wf_refresh (fun _ => true) _ _ (wf_setBytes hu (wfB_setB _ _ _ ((wf_iff _).1 hu).1))

theorem wf_relocate {s : State} (g : Nat) (r : Reloc) (h : Memory.wf s.mem = true) : Memory.wf (s.relocate g r).mem = true := by
  unfold State.relocate
  exact wf_setScratch h (foldl_keeps (wfB · = true) _ (fun m _ hm => wfB_copyRange m _ _ _ hm) _ _ ((wf_iff _).1 h).2.1)

theorem wf_resizeSpad {s : State} (old new : Wg) (h : Memory.wf s.mem = true) : Memory.wf (s.resizeSpad old new).mem = true := by
  unfold State.resizeSpad
  exact wf_setScratch h (wfB_clearRange _ _ _ (wfB_moveRanges _ _ ((wf_iff _).1 h).2.1))

theorem wf_claimCore {s : State} (core ctx : Nat) (h : Memory.wf s.mem = true) : Memory.wf (s.claimCore core ctx).mem = true := by
  have hd := wf_dropCache core h
  unfold State.claimCore
  simp only
  split
  · exact wf_congr (wf_setScratch hd (wfB_clearRange _ (sramKey core 0) sramSpan ((wf_iff _).1 hd).2.1)) rfl rfl rfl rfl rfl rfl
  · exact hd

theorem wf_dropDirty {s : State} (h : Memory.wf s.mem = true) : Memory.wf s.dropDirty.mem = true := by
  unfold State.dropDirty
  refine foldl_keeps (fun u : State => Memory.wf u.mem = true) _ ?_ _ _ h
  intro u x hu
  have hf := wf_setUnflushed hu (sorted_filter _ (fun y : Nat × Byte => decide (y.1 / 32 ≠ x)) ((wf_iff _).1 hu).2.2.2.1)
  by_cases hr : Config.free u.sched.freeIdx % 2 = 0
  · simp only [State.draw, hr, if_true]; exact wf_writeBack _ hf
  · simp only [State.draw, hr, if_false]; exact wf_setBytes hf (wfB_foldl_setB _ _ ((wf_iff _).1 hu).1)

theorem wf_dropHbm {s : State} (h : Memory.wf s.mem = true) : Memory.wf s.dropHbm.mem = true := by
  unfold State.dropHbm
  exact wf_congr (wf_setBytes h (wfB_filter _ _ ((wf_iff _).1 h).1)) rfl rfl rfl rfl rfl rfl

end Sys2Proof.Machine
end

