-- ==== Sys2Proof/Laws/Operands.lean ====
section
/-! SUPPORT. Masks of threads, the checks of operands, and what the register writes of a word change. -/

namespace Sys2Proof.Machine

/-! ### Masks -/

theorem maskOf_succ (n : Nat) (p : Nat → Bool) : maskOf (n + 1) p = maskOf n p + if p n then 2 ^ n else 0 := by
  simp only [maskOf, List.range_succ, List.foldl_append, List.foldl_cons, List.foldl_nil]
  split <;> rfl

theorem maskOf_lt (n : Nat) (p : Nat → Bool) : maskOf n p < 2 ^ n := by
  induction n with
  | zero => simp [maskOf]
  | succ n ih => rw [maskOf_succ, Nat.pow_succ]; split <;> omega

theorem maskOf_testBit (n : Nat) (p : Nat → Bool) (i : Nat) : (maskOf n p).testBit i = (decide (i < n) && p i) := by
  induction n with
  | zero => simp [maskOf]
  | succ n ih =>
    have hlt := maskOf_lt n p
    rw [maskOf_succ]
    by_cases hp : p n
    · simp only [hp, if_true]
      rw [Nat.add_comm]
      rcases Nat.lt_trichotomy i n with h | h | h
      · rw [Nat.testBit_two_pow_add_gt h, ih]; simp [h]; omega
      · subst h; rw [Nat.testBit_two_pow_add_eq, ih]; simp [hp]
      · have : 2 ^ n + maskOf n p < 2 ^ i := by
          have : 2 ^ (n + 1) ≤ 2 ^ i := Nat.pow_le_pow_right (by omega) h
          rw [Nat.pow_succ] at this; omega
        rw [Nat.testBit_lt_two_pow this]
        simp; omega
    · simp only [hp, Bool.false_eq_true, if_false, Nat.add_zero, ih]
      by_cases h : i = n
      · subst h; simp [hp]
      · have : (i < n + 1) ↔ i < n := by omega
        simp [this]

/-- A thread is in a mask of threads where the test holds. -/
theorem mask8_bit (p : Nat → Bool) (t : Nat) : (mask8 p).getLsbD t = (decide (t < 8) && p t) := by
  simp only [mask8, BitVec.getLsbD_ofNat, maskOf_testBit]
  by_cases h : t < 8 <;> simp [h]

/-- No thread satisfies a test. -/
theorem mask8_zero {p : Nat → Bool} (h : ∀ t < 8, p t = false) : mask8 p = 0 := by
  apply BitVec.eq_of_getLsbD_eq
  intro t ht
  simp [mask8_bit, h t ht]

theorem mask8_eq_zero_iff {p : Nat → Bool} : mask8 p = 0 ↔ ∀ t < 8, p t = false := by
  constructor
  · intro h t ht
    have := mask8_bit p t
    rw [h] at this
    simpa [ht] using this.symm
  · exact mask8_zero

theorem mem_bitsOf {m : BitVec 8} {t : Nat} : t ∈ bitsOf m ↔ t < 8 ∧ m.getLsbD t = true := by simp [bitsOf]

/-! ### Operands that can be read -/

theorem need_true (code : Nat) (m : BitVec 8) : need true code m = .ok () := rfl
theorem ready_true : ready true = .ok () := rfl

/-- A register in the budget passes the budget check (R130). -/
theorem regIn_ok {s : State} {f : RF} {v : Bool} (h : s.within f v 1 = true) : s.regIn f v = .ok () := by
  cases f with
  | k i => cases v <;> rfl
  | t i => cases v <;> simp [State.within, State.regIn, State.vIn, State.sIn] at h ⊢ <;> omega

theorem sIn_ok {s : State} {f : RF} (h : s.within f false 1 = true) : s.sIn f = .ok () := regIn_ok (v := false) h
theorem vIn_ok {s : State} {f : RF} (h : s.within f true 1 = true) : s.vIn f = .ok () := regIn_ok (v := true) h

theorem sSpan_ok {s : State} {f : RF} {n : Nat} (h : s.within f false n = true) : s.sSpan f n = .ok () := by
  cases f <;> simp_all [State.within, State.sSpan]
theorem vSpan_ok {s : State} {f : RF} {n : Nat} (h : s.within f true n = true) : s.vSpan f n = .ok () := by
  cases f <;> simp_all [State.within, State.vSpan]

theorem mapM_unit_ok {α ε : Type} (f : α → Except ε Unit) (l : List α) (h : ∀ x ∈ l, f x = .ok ()) :
    ∃ r, l.mapM f = .ok r := by
  induction l with
  | nil => exact ⟨[], rfl⟩
  | cons a l ih =>
    obtain ⟨r, hr⟩ := ih fun x hx => h x (by simp [hx])
    refine ⟨() :: r, ?_⟩
    rw [List.mapM_cons, h a (by simp), hr]
    rfl

/-- Under TRAP every tag matches, so no source raises TAG_MISMATCH (R115). -/
theorem tagCheck_ok {s : State} {m : BitVec 8} {xs : List Src}
    (h : s.cb.tagMode = true → ∀ t < 8, m.getLsbD t = true → ∀ x ∈ xs, s.srcOk x t = true) : s.tagCheck m xs = .ok () := by
  unfold State.tagCheck
  by_cases ht : s.cb.tagMode = true
  · have : mask8 (fun t => m.getLsbD t && xs.any fun x => !s.srcOk x t) = 0 := mask8_zero fun t h8 => by
      cases hm : m.getLsbD t with
      | false => rfl
      | true => simpa using h ht t h8 hm
    simp [this]
  · simp [ht]

/-- Every index names a valid entry, so no source raises INVALID_INDEX (R210). -/
theorem idxCheck_ok {s : State} {m : BitVec 8} {idx : Nat → List (Nat × Nat)}
    (h : ∀ t < 8, m.getLsbD t = true → ∀ p ∈ idx t, (s.cbEntry s.cc s.cwg.launch p.1 p.2).isSome = true) :
    s.idxCheck m idx = .ok () := by
  unfold State.idxCheck
  have : mask8 (fun t => m.getLsbD t && ((idx t).find? fun p => (s.cbEntry s.cc s.cwg.launch p.1 p.2).isNone).isSome) = 0 :=
    mask8_zero fun t h8 => by
      cases hm : m.getLsbD t with
      | false => rfl
      | true =>
        simp only [Bool.true_and, Option.isSome_eq_false_iff, Option.isNone_iff_eq_none, List.find?_eq_none]
        intro p hp
        have := h t h8 hm p hp
        cases h2 : s.cbEntry s.cc s.cwg.launch p.1 p.2 <;> simp_all
  simp only [this]
  split <;> simp

/-- Sources that can be read pass every check. -/
theorem checkSrcs_ok {s : State} {m : BitVec 8} {xs : List Src} (h : s.readable m xs = true) : s.checkSrcs m xs = .ok () := by
  simp only [State.readable, Bool.and_eq_true, List.all_eq_true, Bool.not_eq_true', Bool.or_eq_true, List.mem_range] at h
  obtain ⟨⟨⟨h1, h2⟩, h3⟩, h4⟩ := h
  obtain ⟨r, hr⟩ := mapM_unit_ok (fun x : Src => s.regIn x.f x.v) xs fun x hx => regIn_ok (h1 x hx)
  unfold State.checkSrcs
  rw [hr, tagCheck_ok (fun ht t h8 hm x hx => by
    rcases h3 with h3 | h3
    · rw [ht] at h3; cases h3
    · rcases h3 t h8 with h3 | h3
      · rw [hm] at h3; cases h3
      · exact h3 x hx), h2]
  rw [idxCheck_ok fun t h8 hm p hp => by
    rcases h4 t h8 with h4 | h4
    · rw [hm] at h4; cases h4
    · exact h4 p hp]
  rfl

theorem canDraw_ok {s : State} {d : Bool} (h : d = true → s.mayDraw = true) : s.canDraw d = .ok () := by
  unfold State.canDraw need
  cases d <;> simp_all [State.mayDraw, rngEnd]

/-- An elementwise word whose sources can be read writes each taking-part thread's elements. -/
theorem elementwise_ok {s : State} {h : Hd} {d : RF} {v : Bool} {xs : List Src} (w : Nat) (tag : BitVec 4) (draw : Bool)
    (blk : Option (Nat → Nat)) (f : List Nat → Nat → Nat → WithFx Nat) (hd : s.within d v 1 = true)
    (hx : s.readable (s.part h) xs = true) (hr : draw = true → s.mayDraw = true) :
    s.elementwise h d v xs w tag draw blk f = .ok ((s.putOut h d v fun t =>
      let es := xs.map fun x => s.srcElems x t
      let rnd := match blk with
        | some g => g t
        | none => if draw then s.block t else 0
      let n := (if v then 256 else 32) / w
      let rs := (List.range n).map fun i => f (es.map fun e => e.1.getD i 0) (srWidth n) (elem rnd (srWidth n) i)
      { val := ofElems w (rs.map (·.1)), fl := orAll (rs.map (·.2)) ||| orAll (es.map (·.2)), tag := tag }).drew draw) := by
  unfold State.elementwise
  rw [regIn_ok hd, checkSrcs_ok hx, canDraw_ok hr]
  rfl

/-- The same for a word that draws nothing, with its element function in another form. -/
theorem elementwise_plain {s : State} {h : Hd} {d : RF} {v : Bool} {xs : List Src} (w : Nat) (tag : BitVec 4)
    (f : List Nat → Nat → Nat → WithFx Nat) (g : List Nat → WithFx Nat) (hd : s.within d v 1 = true)
    (hx : s.readable (s.part h) xs = true) (hfg : ∀ l a b, f l a b = g l) :
    s.elementwise h d v xs w tag false none f = .ok ((s.putOut h d v (s.eachElem v xs w tag fun _ => g)).drew false) := by
  rw [elementwise_ok w tag false none f hd hx (by simp)]
  have : f = fun l _ _ => g l := by funext l a b; exact hfg l a b
  subst this
  rfl

/-- What it takes for a word of the lanes to complete. -/
theorem canRun_iff {s : State} {x : LaneWord} : s.canRun x = true ↔
    s.issuing = true ∧ s.within x.d x.v 1 = true ∧ s.readable (s.part x.h) x.srcs = true ∧ x.also = true
      ∧ (x.draw = true → s.mayDraw = true) := by
  simp only [State.canRun, Bool.and_eq_true, Bool.or_eq_true, Bool.not_eq_true', and_assoc]
  cases x.draw <;> simp

/-! ### Issuing -/

/-- A word that completes takes the beam on (R39). -/
theorem issue_ok {s s' : State} {f : State → R State} (hi : s.issuing = true) (h : f s = .ok s') :
    issue s f = .next (s'.flow .next) := by
  unfold State.issuing at hi
  unfold issue issueTo
  cases hb : look s.beams s.sched.cur with
  | none => simp [hb] at hi
  | some b =>
    simp only [hb, beq_iff_eq] at hi
    simp [hi, h, Except.map]

/-- A word that completes and says where the beam goes. -/
theorem issueTo_ok {s s' : State} {fl : Flow} {f : State → R (State × Flow)} (hi : s.issuing = true) (h : f s = .ok (s', fl)) :
    issueTo s f = .next (s'.flow fl) := by
  unfold State.issuing at hi
  unfold issueTo
  cases hb : look s.beams s.sched.cur with
  | none => simp [hb] at hi
  | some b =>
    simp only [hb, beq_iff_eq] at hi
    simp [hi, h]

/-- A word of the lanes that can run completes with its result. -/
theorem laneWord_ok {s : State} {x : LaneWord} {f : State → R State} (hr : s.canRun x = true)
    (h : f s = .ok ((s.putOut x.h x.d x.v x.out).drew x.draw)) : issue s f = .next (s.laneNext x) :=
  issue_ok (canRun_iff.1 hr).1 h

/-- A word that stops. -/
theorem issueTo_stop {s : State} {e : Stop} {f : State → R (State × Flow)} (hi : s.issuing = true) (h : f s = .error e) :
    issueTo s f = s.stop e := by
  unfold State.issuing at hi
  unfold issueTo
  cases hb : look s.beams s.sched.cur with
  | none => simp [hb] at hi
  | some b =>
    simp only [hb, beq_iff_eq] at hi
    simp [hi, h]

/-- A word that stops. -/
theorem issue_stop {s : State} {e : Stop} {f : State → R State} (hi : s.issuing = true) (h : f s = .error e) :
    issue s f = s.stop e := issueTo_stop hi (by rw [h]; rfl)

/-- One of the machine's own steps that may happen. -/
theorem event_some {s s' : State} {f : State → Option State} (h : f s = some s') : event s f = .next s' := by simp [event, h]
/-- One that may not happen changes nothing. -/
theorem event_none {s : State} {f : State → Option State} (h : f s = none) : event s f = .next s := by simp [event, h]

end Sys2Proof.Machine
end

