-- ==== Sys2Proof/Laws/Ops.lean ====
section
/-! SUPPORT. What each shared operation can do, said once: moving to the next word, traps, operations in
flight, results of a word. -/

namespace Sys2Proof.Machine

/-! ### From word to word (R27, R39) -/

/-- A beam that is to go on is READY, or WAITING for its next clause; in its handler it stays ISSUING (R134). -/
theorem gate_eq (s : State) (bk : Nat) : ∃ g : Beam → Beam, s.gate bk = s.modBeam bk g ∧
    ∀ b, g b = { b with wait := .none } ∨ g b = { b with st := .ready, wait := .none } ∨ g b = { b with st := .waiting, wait := .clause } := by
  refine ⟨_, rfl, fun b => ?_⟩
  split
  · exact .inl rfl
  · split
    · exact .inr (.inl rfl)
    · exact .inr (.inr rfl)

/-- Ending a clause moves the beam to an address, and may ask its lane for a switch (R37): an issuing beam is then
READY, WAITING for its next clause, or in its handler still ISSUING (R134). -/
theorem endClause_eq (s : State) (bk : Nat) (a : W64) :
    ∃ cs, ∃ g : Beam → Beam, (∀ c, { (({ s with cores := cs } : State).core c) with lanes := [] } = { s.core c with lanes := [] }) ∧
      (∀ b, ∃ st w, g b = { b with pc := a, pos := 0, mid := false, buf := [], wait := w, passed := 0, st := st }
        ∧ (st = b.st ∧ w = .none ∨ (s.beam bk).st = .issuing ∧ (st = .ready ∧ w = .none ∨ st = .waiting ∧ w = .clause))) ∧
      s.endClause bk a = ({ s with cores := cs } : State).modBeam bk g := by
  have lanes : ∃ cs, (∀ c, { (({ s with cores := cs } : State).core c) with lanes := [] } = { s.core c with lanes := [] }) ∧
      s.endClause bk a =
        let t := ({ s with cores := cs } : State).modBeam bk (Beam.goTo · a)
        if (t.beam bk).st = .issuing then t.gate bk else t := by
    unfold State.endClause
    simp only
    split
    · split
      · refine ⟨_, fun c => ?_, rfl⟩
        simp only [State.core, look_put]
        by_cases h : c = coreOf bk <;> simp [h]
      · exact ⟨s.cores, fun _ => rfl, rfl⟩
    · exact ⟨s.cores, fun _ => rfl, rfl⟩
  obtain ⟨cs, hc, e⟩ := lanes
  simp only at e
  have hst : ((({ s with cores := cs } : State).modBeam bk (Beam.goTo · a)).beam bk).st = (s.beam bk).st := by
    rw [modBeam_beam]; split <;> rfl
  rw [hst] at e
  split at e
  · rename_i hi
    obtain ⟨g, hg, hb⟩ := gate_eq (({ s with cores := cs } : State).modBeam bk (Beam.goTo · a)) bk
    refine ⟨cs, fun b => g (b.goTo a), hc, fun b => ?_, ?_⟩
    · obtain h | h | h := hb (b.goTo a)
      · exact ⟨b.st, .none, h, .inl ⟨rfl, rfl⟩⟩
      · exact ⟨.ready, .none, h, .inr ⟨hi, .inl ⟨rfl, rfl⟩⟩⟩
      · exact ⟨.waiting, .clause, h, .inr ⟨hi, .inr ⟨rfl, rfl⟩⟩⟩
    · rw [e, hg]
      simp only [State.modBeam, upd_upd]
  · exact ⟨cs, _, hc, fun b => ⟨b.st, .none, rfl, .inl ⟨rfl, rfl⟩⟩, e⟩

@[simp] theorem endClause_sched (s : State) (bk : Nat) (a : W64) : (s.endClause bk a).sched = s.sched := by
  obtain ⟨cs, g, -, -, h⟩ := endClause_eq s bk a; rw [h]; rfl
@[simp] theorem endClause_threads (s : State) (bk : Nat) (a : W64) : (s.endClause bk a).threads = s.threads := by
  obtain ⟨cs, g, -, -, h⟩ := endClause_eq s bk a; rw [h]; rfl
@[simp] theorem endClause_wgs (s : State) (bk : Nat) (a : W64) : (s.endClause bk a).wgs = s.wgs := by
  obtain ⟨cs, g, -, -, h⟩ := endClause_eq s bk a; rw [h]; rfl
@[simp] theorem endClause_gangs (s : State) (bk : Nat) (a : W64) : (s.endClause bk a).gangs = s.gangs := by
  obtain ⟨cs, g, -, -, h⟩ := endClause_eq s bk a; rw [h]; rfl
@[simp] theorem endClause_launches (s : State) (bk : Nat) (a : W64) : (s.endClause bk a).launches = s.launches := by
  obtain ⟨cs, g, -, -, h⟩ := endClause_eq s bk a; rw [h]; rfl
@[simp] theorem endClause_ops (s : State) (bk : Nat) (a : W64) : (s.endClause bk a).ops = s.ops := by
  obtain ⟨cs, g, -, -, h⟩ := endClause_eq s bk a; rw [h]; rfl
@[simp] theorem endClause_mem (s : State) (bk : Nat) (a : W64) : (s.endClause bk a).mem = s.mem := by
  obtain ⟨cs, g, -, -, h⟩ := endClause_eq s bk a; rw [h]; rfl
@[simp] theorem endClause_queues (s : State) (bk : Nat) (a : W64) : (s.endClause bk a).queues = s.queues := by
  obtain ⟨cs, g, -, -, h⟩ := endClause_eq s bk a; rw [h]; rfl
@[simp] theorem endClause_pool (s : State) (bk : Nat) (a : W64) : (s.endClause bk a).pool = s.pool := by
  obtain ⟨cs, g, -, -, h⟩ := endClause_eq s bk a; rw [h]; rfl
@[simp] theorem endClause_poolGen (s : State) (bk : Nat) (a : W64) : (s.endClause bk a).poolGen = s.poolGen := by
  obtain ⟨cs, g, -, -, h⟩ := endClause_eq s bk a; rw [h]; rfl
@[simp] theorem endClause_tickets (s : State) (bk : Nat) (a : W64) : (s.endClause bk a).tickets = s.tickets := by
  obtain ⟨cs, g, -, -, h⟩ := endClause_eq s bk a; rw [h]; rfl
@[simp] theorem endClause_nextTicket (s : State) (bk : Nat) (a : W64) : (s.endClause bk a).nextTicket = s.nextTicket := by
  obtain ⟨cs, g, -, -, h⟩ := endClause_eq s bk a; rw [h]; rfl
@[simp] theorem endClause_net (s : State) (bk : Nat) (a : W64) : (s.endClause bk a).net = s.net := by
  obtain ⟨cs, g, -, -, h⟩ := endClause_eq s bk a; rw [h]; rfl
@[simp] theorem endClause_evbuf (s : State) (bk : Nat) (a : W64) : (s.endClause bk a).evbuf = s.evbuf := by
  obtain ⟨cs, g, -, -, h⟩ := endClause_eq s bk a; rw [h]; rfl
@[simp] theorem endClause_time (s : State) (bk : Nat) (a : W64) : (s.endClause bk a).time = s.time := by
  obtain ⟨cs, g, -, -, h⟩ := endClause_eq s bk a; rw [h]; rfl
@[simp] theorem endClause_regs (s : State) (bk : Nat) (a : W64) : (s.endClause bk a).regs = s.regs := by
  obtain ⟨cs, g, -, -, h⟩ := endClause_eq s bk a; rw [h]; rfl
@[simp] theorem endClause_ctxRegs (s : State) (bk : Nat) (a : W64) : (s.endClause bk a).ctxRegs = s.ctxRegs := by
  obtain ⟨cs, g, -, -, h⟩ := endClause_eq s bk a; rw [h]; rfl
@[simp] theorem endClause_links (s : State) (bk : Nat) (a : W64) : (s.endClause bk a).links = s.links := by
  obtain ⟨cs, g, -, -, h⟩ := endClause_eq s bk a; rw [h]; rfl
@[simp] theorem endClause_hot (s : State) (bk : Nat) (a : W64) : (s.endClause bk a).hot = s.hot := by
  obtain ⟨cs, g, -, -, h⟩ := endClause_eq s bk a; rw [h]; rfl
@[simp] theorem endClause_ports (s : State) (bk : Nat) (a : W64) : (s.endClause bk a).ports = s.ports := by
  obtain ⟨cs, g, -, -, h⟩ := endClause_eq s bk a; rw [h]; rfl
@[simp] theorem endClause_reply (s : State) (bk : Nat) (a : W64) : (s.endClause bk a).reply = s.reply := by
  obtain ⟨cs, g, -, -, h⟩ := endClause_eq s bk a; rw [h]; rfl
@[simp] theorem endClause_pushReply (s : State) (bk : Nat) (a : W64) : (s.endClause bk a).pushReply = s.pushReply := by
  obtain ⟨cs, g, -, -, h⟩ := endClause_eq s bk a; rw [h]; rfl
@[simp] theorem endClause_firmware (s : State) (bk : Nat) (a : W64) : (s.endClause bk a).firmware = s.firmware := by
  obtain ⟨cs, g, -, -, h⟩ := endClause_eq s bk a; rw [h]; rfl
@[simp] theorem endClause_fencedCols (s : State) (bk : Nat) (a : W64) : (s.endClause bk a).fencedCols = s.fencedCols := by
  obtain ⟨cs, g, -, -, h⟩ := endClause_eq s bk a; rw [h]; rfl
@[simp] theorem endClause_outDies (s : State) (bk : Nat) (a : W64) : (s.endClause bk a).outDies = s.outDies := by
  obtain ⟨cs, g, -, -, h⟩ := endClause_eq s bk a; rw [h]; rfl

theorem endClause_beam_ne (s : State) {bk k : Nat} (a : W64) (h : k ≠ bk) : (s.endClause bk a).beam k = s.beam k := by
  obtain ⟨cs, g, -, -, e⟩ := endClause_eq s bk a
  rw [e, modBeam_beam, if_neg (by simp [h])]; rfl

/-- What a beam keeps when a clause ends. -/
theorem endClause_beam_keeps (s : State) (bk k : Nat) (a : W64) :
    ((s.endClause bk a).beam k).k = (s.beam k).k ∧ ((s.endClause bk a).beam k).kp = (s.beam k).kp
      ∧ ((s.endClause bk a).beam k).ctr = (s.beam k).ctr ∧ ((s.endClause bk a).beam k).recs = (s.beam k).recs
      ∧ ((s.endClause bk a).beam k).live = (s.beam k).live ∧ ((s.endClause bk a).beam k).active = (s.beam k).active
      ∧ ((s.endClause bk a).beam k).list = (s.beam k).list ∧ ((s.endClause bk a).beam k).uid = (s.beam k).uid
      ∧ ((s.endClause bk a).beam k).wg = (s.beam k).wg ∧ ((s.endClause bk a).beam k).b = (s.beam k).b
      ∧ ((s.endClause bk a).beam k).genKey = (s.beam k).genKey ∧ ((s.endClause bk a).beam k).genCtr = (s.beam k).genCtr
      ∧ ((s.endClause bk a).beam k).tagMode = (s.beam k).tagMode ∧ ((s.endClause bk a).beam k).idivTrap = (s.beam k).idivTrap
      ∧ ((s.endClause bk a).beam k).hmode = (s.beam k).hmode := by
  obtain ⟨cs, g, -, hg, e⟩ := endClause_eq s bk a
  rw [e, modBeam_beam]
  obtain ⟨st, w, h, -⟩ := hg (({ s with cores := cs } : State).beam k)
  split
  · rw [h]; exact ⟨rfl, rfl, rfl, rfl, rfl, rfl, rfl, rfl, rfl, rfl, rfl, rfl, rfl, rfl, rfl⟩
  · exact ⟨rfl, rfl, rfl, rfl, rfl, rfl, rfl, rfl, rfl, rfl, rfl, rfl, rfl, rfl, rfl⟩

/-- A word moves the beam on within its clause, ends the clause, or leaves the beam where the word put it. -/
theorem flow_cases (s : State) (f : Flow) :
    s.flow f = s ∨ (∃ g : Beam → Beam, (∀ b, g b = { b with pos := b.pos + 1, wait := .none }) ∧ s.flow f = s.modCb g)
      ∨ ∃ a, s.flow f = s.endClause s.sched.cur a := by
  cases f with
  | next =>
    simp only [State.flow]
    split
    · exact .inr (.inl ⟨_, fun _ => rfl, rfl⟩)
    · exact .inr (.inr ⟨_, rfl⟩)
  | goto a => exact .inr (.inr ⟨a, rfl⟩)
  | stay => exact .inl rfl

@[simp] theorem flow_sched (s : State) (f : Flow) : (s.flow f).sched = s.sched := by
  obtain h | ⟨g, -, h⟩ | ⟨a, h⟩ := flow_cases s f <;> rw [h] <;> simp
@[simp] theorem flow_threads (s : State) (f : Flow) : (s.flow f).threads = s.threads := by
  obtain h | ⟨g, -, h⟩ | ⟨a, h⟩ := flow_cases s f <;> rw [h] <;> simp
@[simp] theorem flow_wgs (s : State) (f : Flow) : (s.flow f).wgs = s.wgs := by
  obtain h | ⟨g, -, h⟩ | ⟨a, h⟩ := flow_cases s f <;> rw [h] <;> simp
@[simp] theorem flow_gangs (s : State) (f : Flow) : (s.flow f).gangs = s.gangs := by
  obtain h | ⟨g, -, h⟩ | ⟨a, h⟩ := flow_cases s f <;> rw [h] <;> simp
@[simp] theorem flow_launches (s : State) (f : Flow) : (s.flow f).launches = s.launches := by
  obtain h | ⟨g, -, h⟩ | ⟨a, h⟩ := flow_cases s f <;> rw [h] <;> simp
@[simp] theorem flow_ops (s : State) (f : Flow) : (s.flow f).ops = s.ops := by
  obtain h | ⟨g, -, h⟩ | ⟨a, h⟩ := flow_cases s f <;> rw [h] <;> simp
@[simp] theorem flow_mem (s : State) (f : Flow) : (s.flow f).mem = s.mem := by
  obtain h | ⟨g, -, h⟩ | ⟨a, h⟩ := flow_cases s f <;> rw [h] <;> simp
@[simp] theorem flow_queues (s : State) (f : Flow) : (s.flow f).queues = s.queues := by
  obtain h | ⟨g, -, h⟩ | ⟨a, h⟩ := flow_cases s f <;> rw [h] <;> simp
@[simp] theorem flow_pool (s : State) (f : Flow) : (s.flow f).pool = s.pool := by
  obtain h | ⟨g, -, h⟩ | ⟨a, h⟩ := flow_cases s f <;> rw [h] <;> simp
@[simp] theorem flow_poolGen (s : State) (f : Flow) : (s.flow f).poolGen = s.poolGen := by
  obtain h | ⟨g, -, h⟩ | ⟨a, h⟩ := flow_cases s f <;> rw [h] <;> simp
@[simp] theorem flow_tickets (s : State) (f : Flow) : (s.flow f).tickets = s.tickets := by
  obtain h | ⟨g, -, h⟩ | ⟨a, h⟩ := flow_cases s f <;> rw [h] <;> simp
@[simp] theorem flow_nextTicket (s : State) (f : Flow) : (s.flow f).nextTicket = s.nextTicket := by
  obtain h | ⟨g, -, h⟩ | ⟨a, h⟩ := flow_cases s f <;> rw [h] <;> simp
@[simp] theorem flow_net (s : State) (f : Flow) : (s.flow f).net = s.net := by
  obtain h | ⟨g, -, h⟩ | ⟨a, h⟩ := flow_cases s f <;> rw [h] <;> simp
@[simp] theorem flow_evbuf (s : State) (f : Flow) : (s.flow f).evbuf = s.evbuf := by
  obtain h | ⟨g, -, h⟩ | ⟨a, h⟩ := flow_cases s f <;> rw [h] <;> simp
@[simp] theorem flow_time (s : State) (f : Flow) : (s.flow f).time = s.time := by
  obtain h | ⟨g, -, h⟩ | ⟨a, h⟩ := flow_cases s f <;> rw [h] <;> simp
@[simp] theorem flow_regs (s : State) (f : Flow) : (s.flow f).regs = s.regs := by
  obtain h | ⟨g, -, h⟩ | ⟨a, h⟩ := flow_cases s f <;> rw [h] <;> simp
@[simp] theorem flow_ctxRegs (s : State) (f : Flow) : (s.flow f).ctxRegs = s.ctxRegs := by
  obtain h | ⟨g, -, h⟩ | ⟨a, h⟩ := flow_cases s f <;> rw [h] <;> simp
@[simp] theorem flow_links (s : State) (f : Flow) : (s.flow f).links = s.links := by
  obtain h | ⟨g, -, h⟩ | ⟨a, h⟩ := flow_cases s f <;> rw [h] <;> simp
@[simp] theorem flow_hot (s : State) (f : Flow) : (s.flow f).hot = s.hot := by
  obtain h | ⟨g, -, h⟩ | ⟨a, h⟩ := flow_cases s f <;> rw [h] <;> simp
@[simp] theorem flow_ports (s : State) (f : Flow) : (s.flow f).ports = s.ports := by
  obtain h | ⟨g, -, h⟩ | ⟨a, h⟩ := flow_cases s f <;> rw [h] <;> simp
@[simp] theorem flow_reply (s : State) (f : Flow) : (s.flow f).reply = s.reply := by
  obtain h | ⟨g, -, h⟩ | ⟨a, h⟩ := flow_cases s f <;> rw [h] <;> simp
@[simp] theorem flow_pushReply (s : State) (f : Flow) : (s.flow f).pushReply = s.pushReply := by
  obtain h | ⟨g, -, h⟩ | ⟨a, h⟩ := flow_cases s f <;> rw [h] <;> simp
@[simp] theorem flow_firmware (s : State) (f : Flow) : (s.flow f).firmware = s.firmware := by
  obtain h | ⟨g, -, h⟩ | ⟨a, h⟩ := flow_cases s f <;> rw [h] <;> simp
@[simp] theorem flow_fencedCols (s : State) (f : Flow) : (s.flow f).fencedCols = s.fencedCols := by
  obtain h | ⟨g, -, h⟩ | ⟨a, h⟩ := flow_cases s f <;> rw [h] <;> simp
@[simp] theorem flow_outDies (s : State) (f : Flow) : (s.flow f).outDies = s.outDies := by
  obtain h | ⟨g, -, h⟩ | ⟨a, h⟩ := flow_cases s f <;> rw [h] <;> simp

/-! ### Traps (R391 to R397) -/

/-- A beam that halts keeps its registers and its lane (R20, R39). -/
theorem halt_keeps (b : Beam) : b.halt = b ∨
    b.halt = { b with st := .halted, held := b.st, latch := none, buf := [], passed := 0 } := by
  unfold Beam.halt; split
  · exact .inl rfl
  · exact .inr rfl

@[simp] theorem launchTrap_sched (s : State) (l c x : Nat) : (s.launchTrap l c x).sched = s.sched := rfl
@[simp] theorem launchTrap_threads (s : State) (l c x : Nat) : (s.launchTrap l c x).threads = s.threads := rfl
@[simp] theorem launchTrap_wgs (s : State) (l c x : Nat) : (s.launchTrap l c x).wgs = s.wgs := rfl
@[simp] theorem launchTrap_gangs (s : State) (l c x : Nat) : (s.launchTrap l c x).gangs = s.gangs := rfl
@[simp] theorem launchTrap_ops (s : State) (l c x : Nat) : (s.launchTrap l c x).ops = s.ops := rfl
@[simp] theorem launchTrap_mem (s : State) (l c x : Nat) : (s.launchTrap l c x).mem = s.mem := rfl
@[simp] theorem launchTrap_queues (s : State) (l c x : Nat) : (s.launchTrap l c x).queues = s.queues := rfl
@[simp] theorem launchTrap_pool (s : State) (l c x : Nat) : (s.launchTrap l c x).pool = s.pool := rfl
@[simp] theorem launchTrap_poolGen (s : State) (l c x : Nat) : (s.launchTrap l c x).poolGen = s.poolGen := rfl
@[simp] theorem launchTrap_tickets (s : State) (l c x : Nat) : (s.launchTrap l c x).tickets = s.tickets := rfl
@[simp] theorem launchTrap_nextTicket (s : State) (l c x : Nat) : (s.launchTrap l c x).nextTicket = s.nextTicket := rfl
@[simp] theorem launchTrap_net (s : State) (l c x : Nat) : (s.launchTrap l c x).net = s.net := rfl
@[simp] theorem launchTrap_evbuf (s : State) (l c x : Nat) : (s.launchTrap l c x).evbuf = s.evbuf := rfl
@[simp] theorem launchTrap_time (s : State) (l c x : Nat) : (s.launchTrap l c x).time = s.time := rfl
@[simp] theorem launchTrap_regs (s : State) (l c x : Nat) : (s.launchTrap l c x).regs = s.regs := rfl
@[simp] theorem launchTrap_ctxRegs (s : State) (l c x : Nat) : (s.launchTrap l c x).ctxRegs = s.ctxRegs := rfl
@[simp] theorem launchTrap_links (s : State) (l c x : Nat) : (s.launchTrap l c x).links = s.links := rfl
@[simp] theorem launchTrap_hot (s : State) (l c x : Nat) : (s.launchTrap l c x).hot = s.hot := rfl
@[simp] theorem launchTrap_ports (s : State) (l c x : Nat) : (s.launchTrap l c x).ports = s.ports := rfl
@[simp] theorem launchTrap_reply (s : State) (l c x : Nat) : (s.launchTrap l c x).reply = s.reply := rfl
@[simp] theorem launchTrap_pushReply (s : State) (l c x : Nat) : (s.launchTrap l c x).pushReply = s.pushReply := rfl
@[simp] theorem launchTrap_firmware (s : State) (l c x : Nat) : (s.launchTrap l c x).firmware = s.firmware := rfl
@[simp] theorem launchTrap_fencedCols (s : State) (l c x : Nat) : (s.launchTrap l c x).fencedCols = s.fencedCols := rfl
@[simp] theorem launchTrap_outDies (s : State) (l c x : Nat) : (s.launchTrap l c x).outDies = s.outDies := rfl

/-- Halting copies sets boundaries, and nothing else of a core changes (R331, R410). -/
theorem haltCopies_core (s : State) (p : CopyCmd → Bool) (k : Nat) :
    (s.haltCopies p).core k = { s.core k with chans := (s.core k).chans.map fun x =>
      (x.1, { x.2 with running := x.2.running.map fun r => if p r then r.halt else r }) } := by
  refine (congrArg (·.getD {}) (look_map s.cores (fun c : Core => { c with chans := c.chans.map fun x =>
    (x.1, { x.2 with running := x.2.running.map fun r => if p r then r.halt else r }) }) k)).trans ?_
  unfold State.core
  cases look s.cores k <;> rfl

/-- What a launch-level trap leaves of a core (R410). -/
theorem launchTrap_core (s : State) (l c x k : Nat) :
    (s.launchTrap l c x).core k = { s.core k with chans := (s.core k).chans.map fun y =>
      (y.1, { y.2 with running := y.2.running.map fun r => if r.launch == l then r.halt else r }) } := by
  unfold State.launchTrap
  rw [haltCopies_core]; rfl

/-- The first trap of a launch stands. -/
theorem launchTrap_launch (s : State) (l c x k : Nat) :
    (s.launchTrap l c x).launch k = if k = l ∧ (look s.launches k).isSome ∧ (s.launch k).trapped = none
      then { s.launch k with trapped := some (c + if c = Code.featureDisabled then 256 * x else 0) } else s.launch k := by
  show (s.modLaunch l fun y => if y.trapped.isNone then { y with trapped := some _ } else y).launch k = _
  rw [modLaunch_launch]
  by_cases h : k = l <;> cases h2 : look s.launches k <;> cases h3 : (s.launch k).trapped <;> simp_all

/-- A trap ends the launch, or enters the beam's handler: the frame is written and the beam stands at the
handler with every live thread active. -/
theorem takeTrap_cases (s : State) (bk : Nat) (t : TrapInfo) (hdr : W64) (pos : Nat) :
    (∃ c x, s.takeTrap bk t hdr pos = s.launchTrap (s.wg (s.beam bk).wg).launch c x)
    ∨ ∃ g : Beam → Beam,
      (∀ b, g b = { b with
        active := b.live, hmode := true, pc := BitVec.ofNat 64 (s.ctxReg64 (s.launch (s.wg (s.beam bk).wg).launch).ctx 0x100),
        pos := 0, mid := false, buf := [], wait := .none, pend := none, partway := none, st := if b.st = .issuing then .issuing else .ready }) ∧
      s.takeTrap bk t hdr pos = ({ s with
        mem := { s.mem with
          scratch := setBs s.mem.scratch (frameAt (s.wg (s.beam bk).wg) (s.beam bk).b) (frameBytes s bk t hdr pos),
          struck := s.mem.struck.filter fun w => w % 2 == 1 || w / 2 < frameAt (s.wg (s.beam bk).wg) (s.beam bk).b / 32
            || (frameAt (s.wg (s.beam bk).wg) (s.beam bk).b + 128) / 32 ≤ w / 2 } } : State).modBeam bk g := by
  unfold State.takeTrap
  simp only
  split
  · exact .inl ⟨_, _, rfl⟩
  · split
    · exact .inl ⟨_, _, rfl⟩
    · split
      · exact .inl ⟨_, _, rfl⟩
      · exact .inr ⟨_, fun _ => rfl, rfl⟩

@[simp] theorem takeTrap_sched (s : State) (bk : Nat) (t : TrapInfo) (hdr : W64) (pos : Nat) : (s.takeTrap bk t hdr pos).sched = s.sched := by
  obtain ⟨c, x, h⟩ | ⟨g, -, h⟩ := takeTrap_cases s bk t hdr pos <;> rw [h] <;> rfl
@[simp] theorem takeTrap_threads (s : State) (bk : Nat) (t : TrapInfo) (hdr : W64) (pos : Nat) : (s.takeTrap bk t hdr pos).threads = s.threads := by
  obtain ⟨c, x, h⟩ | ⟨g, -, h⟩ := takeTrap_cases s bk t hdr pos <;> rw [h] <;> rfl
@[simp] theorem takeTrap_wgs (s : State) (bk : Nat) (t : TrapInfo) (hdr : W64) (pos : Nat) : (s.takeTrap bk t hdr pos).wgs = s.wgs := by
  obtain ⟨c, x, h⟩ | ⟨g, -, h⟩ := takeTrap_cases s bk t hdr pos <;> rw [h] <;> rfl
@[simp] theorem takeTrap_gangs (s : State) (bk : Nat) (t : TrapInfo) (hdr : W64) (pos : Nat) : (s.takeTrap bk t hdr pos).gangs = s.gangs := by
  obtain ⟨c, x, h⟩ | ⟨g, -, h⟩ := takeTrap_cases s bk t hdr pos <;> rw [h] <;> rfl
@[simp] theorem takeTrap_ops (s : State) (bk : Nat) (t : TrapInfo) (hdr : W64) (pos : Nat) : (s.takeTrap bk t hdr pos).ops = s.ops := by
  obtain ⟨c, x, h⟩ | ⟨g, -, h⟩ := takeTrap_cases s bk t hdr pos <;> rw [h] <;> rfl
@[simp] theorem takeTrap_queues (s : State) (bk : Nat) (t : TrapInfo) (hdr : W64) (pos : Nat) : (s.takeTrap bk t hdr pos).queues = s.queues := by
  obtain ⟨c, x, h⟩ | ⟨g, -, h⟩ := takeTrap_cases s bk t hdr pos <;> rw [h] <;> rfl
@[simp] theorem takeTrap_pool (s : State) (bk : Nat) (t : TrapInfo) (hdr : W64) (pos : Nat) : (s.takeTrap bk t hdr pos).pool = s.pool := by
  obtain ⟨c, x, h⟩ | ⟨g, -, h⟩ := takeTrap_cases s bk t hdr pos <;> rw [h] <;> rfl
@[simp] theorem takeTrap_poolGen (s : State) (bk : Nat) (t : TrapInfo) (hdr : W64) (pos : Nat) : (s.takeTrap bk t hdr pos).poolGen = s.poolGen := by
  obtain ⟨c, x, h⟩ | ⟨g, -, h⟩ := takeTrap_cases s bk t hdr pos <;> rw [h] <;> rfl
@[simp] theorem takeTrap_tickets (s : State) (bk : Nat) (t : TrapInfo) (hdr : W64) (pos : Nat) : (s.takeTrap bk t hdr pos).tickets = s.tickets := by
  obtain ⟨c, x, h⟩ | ⟨g, -, h⟩ := takeTrap_cases s bk t hdr pos <;> rw [h] <;> rfl
@[simp] theorem takeTrap_nextTicket (s : State) (bk : Nat) (t : TrapInfo) (hdr : W64) (pos : Nat) : (s.takeTrap bk t hdr pos).nextTicket = s.nextTicket := by
  obtain ⟨c, x, h⟩ | ⟨g, -, h⟩ := takeTrap_cases s bk t hdr pos <;> rw [h] <;> rfl
@[simp] theorem takeTrap_net (s : State) (bk : Nat) (t : TrapInfo) (hdr : W64) (pos : Nat) : (s.takeTrap bk t hdr pos).net = s.net := by
  obtain ⟨c, x, h⟩ | ⟨g, -, h⟩ := takeTrap_cases s bk t hdr pos <;> rw [h] <;> rfl
@[simp] theorem takeTrap_evbuf (s : State) (bk : Nat) (t : TrapInfo) (hdr : W64) (pos : Nat) : (s.takeTrap bk t hdr pos).evbuf = s.evbuf := by
  obtain ⟨c, x, h⟩ | ⟨g, -, h⟩ := takeTrap_cases s bk t hdr pos <;> rw [h] <;> rfl
@[simp] theorem takeTrap_time (s : State) (bk : Nat) (t : TrapInfo) (hdr : W64) (pos : Nat) : (s.takeTrap bk t hdr pos).time = s.time := by
  obtain ⟨c, x, h⟩ | ⟨g, -, h⟩ := takeTrap_cases s bk t hdr pos <;> rw [h] <;> rfl
@[simp] theorem takeTrap_regs (s : State) (bk : Nat) (t : TrapInfo) (hdr : W64) (pos : Nat) : (s.takeTrap bk t hdr pos).regs = s.regs := by
  obtain ⟨c, x, h⟩ | ⟨g, -, h⟩ := takeTrap_cases s bk t hdr pos <;> rw [h] <;> rfl
@[simp] theorem takeTrap_ctxRegs (s : State) (bk : Nat) (t : TrapInfo) (hdr : W64) (pos : Nat) : (s.takeTrap bk t hdr pos).ctxRegs = s.ctxRegs := by
  obtain ⟨c, x, h⟩ | ⟨g, -, h⟩ := takeTrap_cases s bk t hdr pos <;> rw [h] <;> rfl
@[simp] theorem takeTrap_links (s : State) (bk : Nat) (t : TrapInfo) (hdr : W64) (pos : Nat) : (s.takeTrap bk t hdr pos).links = s.links := by
  obtain ⟨c, x, h⟩ | ⟨g, -, h⟩ := takeTrap_cases s bk t hdr pos <;> rw [h] <;> rfl
@[simp] theorem takeTrap_hot (s : State) (bk : Nat) (t : TrapInfo) (hdr : W64) (pos : Nat) : (s.takeTrap bk t hdr pos).hot = s.hot := by
  obtain ⟨c, x, h⟩ | ⟨g, -, h⟩ := takeTrap_cases s bk t hdr pos <;> rw [h] <;> rfl
@[simp] theorem takeTrap_ports (s : State) (bk : Nat) (t : TrapInfo) (hdr : W64) (pos : Nat) : (s.takeTrap bk t hdr pos).ports = s.ports := by
  obtain ⟨c, x, h⟩ | ⟨g, -, h⟩ := takeTrap_cases s bk t hdr pos <;> rw [h] <;> rfl
@[simp] theorem takeTrap_reply (s : State) (bk : Nat) (t : TrapInfo) (hdr : W64) (pos : Nat) : (s.takeTrap bk t hdr pos).reply = s.reply := by
  obtain ⟨c, x, h⟩ | ⟨g, -, h⟩ := takeTrap_cases s bk t hdr pos <;> rw [h] <;> rfl
@[simp] theorem takeTrap_pushReply (s : State) (bk : Nat) (t : TrapInfo) (hdr : W64) (pos : Nat) : (s.takeTrap bk t hdr pos).pushReply = s.pushReply := by
  obtain ⟨c, x, h⟩ | ⟨g, -, h⟩ := takeTrap_cases s bk t hdr pos <;> rw [h] <;> rfl
@[simp] theorem takeTrap_firmware (s : State) (bk : Nat) (t : TrapInfo) (hdr : W64) (pos : Nat) : (s.takeTrap bk t hdr pos).firmware = s.firmware := by
  obtain ⟨c, x, h⟩ | ⟨g, -, h⟩ := takeTrap_cases s bk t hdr pos <;> rw [h] <;> rfl
@[simp] theorem takeTrap_fencedCols (s : State) (bk : Nat) (t : TrapInfo) (hdr : W64) (pos : Nat) : (s.takeTrap bk t hdr pos).fencedCols = s.fencedCols := by
  obtain ⟨c, x, h⟩ | ⟨g, -, h⟩ := takeTrap_cases s bk t hdr pos <;> rw [h] <;> rfl
@[simp] theorem takeTrap_outDies (s : State) (bk : Nat) (t : TrapInfo) (hdr : W64) (pos : Nat) : (s.takeTrap bk t hdr pos).outDies = s.outDies := by
  obtain ⟨c, x, h⟩ | ⟨g, -, h⟩ := takeTrap_cases s bk t hdr pos <;> rw [h] <;> rfl

/-- The bytes of a frame (R395). -/
theorem frameBytes_length (s : State) (bk : Nat) (t : TrapInfo) (hdr : W64) (pos : Nat) : (frameBytes s bk t hdr pos).length = 128 := by
  have l : ∀ n x, (bytesOfNat n x).length = n := by
    intro n; induction n with
    | zero => intro x; rfl
    | succ n ih => intro x; simp [bytesOfNat, ih]
  simp [frameBytes, l, List.range_succ]

/-- A trap writes no byte of the scratchpads outside the beam's frame. -/
theorem takeTrap_scratch (s : State) (bk : Nat) (t : TrapInfo) (hdr : W64) (pos a : Nat)
    (h : a < frameAt (s.wg (s.beam bk).wg) (s.beam bk).b ∨ frameAt (s.wg (s.beam bk).wg) (s.beam bk).b + 128 ≤ a) :
    getB (s.takeTrap bk t hdr pos).mem.scratch a = getB s.mem.scratch a := by
  obtain ⟨c, x, e⟩ | ⟨g, -, e⟩ := takeTrap_cases s bk t hdr pos
  · rw [e]; rfl
  · have k := getB_setBs_ne s.mem.scratch (frameAt (s.wg (s.beam bk).wg) (s.beam bk).b) a (frameBytes s bk t hdr pos)
      (by rw [frameBytes_length]; exact h)
    rw [e]; simp only [modBeam_mem]; exact k

theorem wf_takeTrap {s : State} (bk : Nat) (t : TrapInfo) (hdr : W64) (pos : Nat) (h : Memory.wf s.mem = true) :
    Memory.wf (s.takeTrap bk t hdr pos).mem = true := by
  obtain ⟨c, x, e⟩ | ⟨g, -, e⟩ := takeTrap_cases s bk t hdr pos
  · rw [e]; exact h
  · rw [e]; exact wf_congr (wf_setScratch h (wfB_setBs _ _ _ ((wf_iff _).1 h).2.1)) rfl rfl rfl rfl rfl rfl

/-! ### What a word answers -/

/-- A word that issues completes, or stops. -/
theorem issueTo_cases (s : State) (f : State → R (State × Flow)) :
    (s.issuing = false ∧ issueTo s f = .next s) ∨ (∃ s' fl, f s = .ok (s', fl) ∧ issueTo s f = .next (s'.flow fl))
      ∨ ∃ e, f s = .error e ∧ issueTo s f = s.stop e := by
  cases hi : s.issuing with
  | false =>
    refine .inl ⟨rfl, ?_⟩
    unfold State.issuing at hi
    unfold issueTo
    cases hb : look s.beams s.sched.cur with
    | none => rfl
    | some b => rw [hb] at hi; simp only at hi ⊢; rw [if_neg]; simpa using hi
  | true =>
    refine .inr ?_
    cases hf : f s with
    | ok r => exact .inl ⟨r.1, r.2, rfl, issueTo_ok hi hf⟩
    | error e => exact .inr ⟨e, rfl, issueTo_stop hi hf⟩

/-- The same for a word that goes on to the next one. -/
theorem issue_cases (s : State) (f : State → R State) :
    (s.issuing = false ∧ issue s f = .next s) ∨ (∃ s', f s = .ok s' ∧ issue s f = .next (s'.flow .next))
      ∨ ∃ e, f s = .error e ∧ issue s f = s.stop e := by
  obtain h | ⟨s', fl, h, e⟩ | ⟨e, h, e'⟩ := issueTo_cases s fun s => (f s).map fun s' => (s', Flow.next)
  · exact .inl h
  · cases hf : f s with
    | ok t => rw [hf] at h; cases h; exact .inr (.inl ⟨_, rfl, e⟩)
    | error x => rw [hf] at h; cases h
  · cases hf : f s with
    | ok t => rw [hf] at h; cases h
    | error x => rw [hf] at h; cases h; exact .inr (.inr ⟨_, rfl, e'⟩)

/-- A stop is a next state, but for a fault. -/
theorem stop_cases (s : State) (e : Stop) : (∃ f, e = .fault f ∧ s.stop e = .fault f) ∨ ∃ t, s.stop e = .next t := by
  cases e with
  | fault f => exact .inl ⟨f, rfl, rfl⟩
  | trap t => exact .inr ⟨_, rfl⟩
  | stall => exact .inr ⟨_, rfl⟩
  | wait st w => exact .inr ⟨_, rfl⟩
  | deferred c r => exact .inr ⟨_, rfl⟩
  | untracked r => exact .inr ⟨_, rfl⟩
  | page a c m => exact .inr ⟨_, rfl⟩

/-! ### Operations in flight (R34 to R36) -/

/-- An operation starts: it stands last in flight, and its counter rises. -/
theorem startOp_ops (s : State) (bk : Nat) (ctr : Option Nat) (o : Op) :
    (s.startOp bk ctr o).ops = s.ops ++ [{ o with id := s.sched.fresh, beam := bk, uid := (s.beam bk).uid, ctr := ctr }] := by
  unfold State.startOp State.fresh
  cases ctr with
  | none => rfl
  | some c =>
    have : ((({ s with sched := { s.sched with fresh := s.sched.fresh + 1 } } : State).modBeam bk
        fun b => b.setCtr c (b.getCtr c + 1)).beam bk).uid = (s.beam bk).uid := by
      rw [modBeam_beam]; split <;> rfl
    simp only [modBeam_ops, this]

@[simp] theorem startOp_threads (s : State) (bk : Nat) (ctr : Option Nat) (o : Op) : (s.startOp bk ctr o).threads = s.threads := by
  unfold State.startOp State.fresh; cases ctr <;> rfl
@[simp] theorem startOp_wgs (s : State) (bk : Nat) (ctr : Option Nat) (o : Op) : (s.startOp bk ctr o).wgs = s.wgs := by
  unfold State.startOp State.fresh; cases ctr <;> rfl
@[simp] theorem startOp_gangs (s : State) (bk : Nat) (ctr : Option Nat) (o : Op) : (s.startOp bk ctr o).gangs = s.gangs := by
  unfold State.startOp State.fresh; cases ctr <;> rfl
@[simp] theorem startOp_launches (s : State) (bk : Nat) (ctr : Option Nat) (o : Op) : (s.startOp bk ctr o).launches = s.launches := by
  unfold State.startOp State.fresh; cases ctr <;> rfl
@[simp] theorem startOp_cores (s : State) (bk : Nat) (ctr : Option Nat) (o : Op) : (s.startOp bk ctr o).cores = s.cores := by
  unfold State.startOp State.fresh; cases ctr <;> rfl
@[simp] theorem startOp_mem (s : State) (bk : Nat) (ctr : Option Nat) (o : Op) : (s.startOp bk ctr o).mem = s.mem := by
  unfold State.startOp State.fresh; cases ctr <;> rfl
@[simp] theorem startOp_queues (s : State) (bk : Nat) (ctr : Option Nat) (o : Op) : (s.startOp bk ctr o).queues = s.queues := by
  unfold State.startOp State.fresh; cases ctr <;> rfl
@[simp] theorem startOp_pool (s : State) (bk : Nat) (ctr : Option Nat) (o : Op) : (s.startOp bk ctr o).pool = s.pool := by
  unfold State.startOp State.fresh; cases ctr <;> rfl
@[simp] theorem startOp_poolGen (s : State) (bk : Nat) (ctr : Option Nat) (o : Op) : (s.startOp bk ctr o).poolGen = s.poolGen := by
  unfold State.startOp State.fresh; cases ctr <;> rfl
@[simp] theorem startOp_tickets (s : State) (bk : Nat) (ctr : Option Nat) (o : Op) : (s.startOp bk ctr o).tickets = s.tickets := by
  unfold State.startOp State.fresh; cases ctr <;> rfl
@[simp] theorem startOp_nextTicket (s : State) (bk : Nat) (ctr : Option Nat) (o : Op) : (s.startOp bk ctr o).nextTicket = s.nextTicket := by
  unfold State.startOp State.fresh; cases ctr <;> rfl
@[simp] theorem startOp_net (s : State) (bk : Nat) (ctr : Option Nat) (o : Op) : (s.startOp bk ctr o).net = s.net := by
  unfold State.startOp State.fresh; cases ctr <;> rfl
@[simp] theorem startOp_evbuf (s : State) (bk : Nat) (ctr : Option Nat) (o : Op) : (s.startOp bk ctr o).evbuf = s.evbuf := by
  unfold State.startOp State.fresh; cases ctr <;> rfl
@[simp] theorem startOp_time (s : State) (bk : Nat) (ctr : Option Nat) (o : Op) : (s.startOp bk ctr o).time = s.time := by
  unfold State.startOp State.fresh; cases ctr <;> rfl
@[simp] theorem startOp_regs (s : State) (bk : Nat) (ctr : Option Nat) (o : Op) : (s.startOp bk ctr o).regs = s.regs := by
  unfold State.startOp State.fresh; cases ctr <;> rfl
@[simp] theorem startOp_ctxRegs (s : State) (bk : Nat) (ctr : Option Nat) (o : Op) : (s.startOp bk ctr o).ctxRegs = s.ctxRegs := by
  unfold State.startOp State.fresh; cases ctr <;> rfl
@[simp] theorem startOp_links (s : State) (bk : Nat) (ctr : Option Nat) (o : Op) : (s.startOp bk ctr o).links = s.links := by
  unfold State.startOp State.fresh; cases ctr <;> rfl
@[simp] theorem startOp_hot (s : State) (bk : Nat) (ctr : Option Nat) (o : Op) : (s.startOp bk ctr o).hot = s.hot := by
  unfold State.startOp State.fresh; cases ctr <;> rfl
@[simp] theorem startOp_ports (s : State) (bk : Nat) (ctr : Option Nat) (o : Op) : (s.startOp bk ctr o).ports = s.ports := by
  unfold State.startOp State.fresh; cases ctr <;> rfl
@[simp] theorem startOp_reply (s : State) (bk : Nat) (ctr : Option Nat) (o : Op) : (s.startOp bk ctr o).reply = s.reply := by
  unfold State.startOp State.fresh; cases ctr <;> rfl
@[simp] theorem startOp_pushReply (s : State) (bk : Nat) (ctr : Option Nat) (o : Op) : (s.startOp bk ctr o).pushReply = s.pushReply := by
  unfold State.startOp State.fresh; cases ctr <;> rfl
@[simp] theorem startOp_firmware (s : State) (bk : Nat) (ctr : Option Nat) (o : Op) : (s.startOp bk ctr o).firmware = s.firmware := by
  unfold State.startOp State.fresh; cases ctr <;> rfl
@[simp] theorem startOp_fencedCols (s : State) (bk : Nat) (ctr : Option Nat) (o : Op) : (s.startOp bk ctr o).fencedCols = s.fencedCols := by
  unfold State.startOp State.fresh; cases ctr <;> rfl
@[simp] theorem startOp_outDies (s : State) (bk : Nat) (ctr : Option Nat) (o : Op) : (s.startOp bk ctr o).outDies = s.outDies := by
  unfold State.startOp State.fresh; cases ctr <;> rfl

theorem startOp_beam_ne (s : State) {bk k : Nat} (ctr : Option Nat) (o : Op) (h : k ≠ bk) :
    (s.startOp bk ctr o).beam k = s.beam k := by
  unfold State.startOp State.fresh
  cases ctr with
  | none => rfl
  | some c =>
    show (State.modBeam _ bk _).beam k = s.beam k
    rw [modBeam_beam, if_neg (by simp [h])]; rfl

/-- One register write touches threads and the beam alone. -/
@[simp] theorem land_sched (s : State) (bk : Nat) (w : RegWrite) : (s.land bk w).sched = s.sched := by cases w <;> rfl
@[simp] theorem land_wgs (s : State) (bk : Nat) (w : RegWrite) : (s.land bk w).wgs = s.wgs := by cases w <;> rfl
@[simp] theorem land_gangs (s : State) (bk : Nat) (w : RegWrite) : (s.land bk w).gangs = s.gangs := by cases w <;> rfl
@[simp] theorem land_launches (s : State) (bk : Nat) (w : RegWrite) : (s.land bk w).launches = s.launches := by cases w <;> rfl
@[simp] theorem land_cores (s : State) (bk : Nat) (w : RegWrite) : (s.land bk w).cores = s.cores := by cases w <;> rfl
@[simp] theorem land_ops (s : State) (bk : Nat) (w : RegWrite) : (s.land bk w).ops = s.ops := by cases w <;> rfl
@[simp] theorem land_mem (s : State) (bk : Nat) (w : RegWrite) : (s.land bk w).mem = s.mem := by cases w <;> rfl
@[simp] theorem land_queues (s : State) (bk : Nat) (w : RegWrite) : (s.land bk w).queues = s.queues := by cases w <;> rfl
@[simp] theorem land_pool (s : State) (bk : Nat) (w : RegWrite) : (s.land bk w).pool = s.pool := by cases w <;> rfl
@[simp] theorem land_poolGen (s : State) (bk : Nat) (w : RegWrite) : (s.land bk w).poolGen = s.poolGen := by cases w <;> rfl
@[simp] theorem land_tickets (s : State) (bk : Nat) (w : RegWrite) : (s.land bk w).tickets = s.tickets := by cases w <;> rfl
@[simp] theorem land_nextTicket (s : State) (bk : Nat) (w : RegWrite) : (s.land bk w).nextTicket = s.nextTicket := by cases w <;> rfl
@[simp] theorem land_net (s : State) (bk : Nat) (w : RegWrite) : (s.land bk w).net = s.net := by cases w <;> rfl
@[simp] theorem land_evbuf (s : State) (bk : Nat) (w : RegWrite) : (s.land bk w).evbuf = s.evbuf := by cases w <;> rfl
@[simp] theorem land_time (s : State) (bk : Nat) (w : RegWrite) : (s.land bk w).time = s.time := by cases w <;> rfl
@[simp] theorem land_regs (s : State) (bk : Nat) (w : RegWrite) : (s.land bk w).regs = s.regs := by cases w <;> rfl
@[simp] theorem land_ctxRegs (s : State) (bk : Nat) (w : RegWrite) : (s.land bk w).ctxRegs = s.ctxRegs := by cases w <;> rfl
@[simp] theorem land_links (s : State) (bk : Nat) (w : RegWrite) : (s.land bk w).links = s.links := by cases w <;> rfl
@[simp] theorem land_hot (s : State) (bk : Nat) (w : RegWrite) : (s.land bk w).hot = s.hot := by cases w <;> rfl
@[simp] theorem land_ports (s : State) (bk : Nat) (w : RegWrite) : (s.land bk w).ports = s.ports := by cases w <;> rfl
@[simp] theorem land_reply (s : State) (bk : Nat) (w : RegWrite) : (s.land bk w).reply = s.reply := by cases w <;> rfl
@[simp] theorem land_pushReply (s : State) (bk : Nat) (w : RegWrite) : (s.land bk w).pushReply = s.pushReply := by cases w <;> rfl
@[simp] theorem land_firmware (s : State) (bk : Nat) (w : RegWrite) : (s.land bk w).firmware = s.firmware := by cases w <;> rfl
@[simp] theorem land_fencedCols (s : State) (bk : Nat) (w : RegWrite) : (s.land bk w).fencedCols = s.fencedCols := by cases w <;> rfl
@[simp] theorem land_outDies (s : State) (bk : Nat) (w : RegWrite) : (s.land bk w).outDies = s.outDies := by cases w <;> rfl

/-- Several register writes. -/
theorem lands_keep {α : Type} (g : State → α) (bk : Nat) (hg : ∀ s w, g (s.land bk w) = g s) (ws : List RegWrite) (s : State) :
    g (ws.foldl (fun s w => s.land bk w) s) = g s := by
  induction ws generalizing s with
  | nil => rfl
  | cons w ws ih => simp only [List.foldl_cons, ih, hg]

/-- A completion takes its operation out of flight and changes only beams and threads. -/
theorem complete_ops (s : State) (o : Op) : (s.complete o).ops = s.ops.filter fun x => x.id ≠ o.id := by
  unfold State.complete
  simp only [modBeam_ops]
  refine (lands_keep State.ops o.beam (fun s w => land_ops s o.beam w) o.writes _).trans ?_
  split <;> rfl
@[simp] theorem complete_sched (s : State) (o : Op) : (s.complete o).sched = s.sched := by
  unfold State.complete; simp only [modBeam_sched]
  exact (lands_keep State.sched o.beam (fun s w => land_sched s o.beam w) o.writes _).trans (by split <;> rfl)
@[simp] theorem complete_wgs (s : State) (o : Op) : (s.complete o).wgs = s.wgs := by
  unfold State.complete; simp only [modBeam_wgs]
  exact (lands_keep State.wgs o.beam (fun s w => land_wgs s o.beam w) o.writes _).trans (by split <;> rfl)
@[simp] theorem complete_gangs (s : State) (o : Op) : (s.complete o).gangs = s.gangs := by
  unfold State.complete; simp only [modBeam_gangs]
  exact (lands_keep State.gangs o.beam (fun s w => land_gangs s o.beam w) o.writes _).trans (by split <;> rfl)
@[simp] theorem complete_launches (s : State) (o : Op) : (s.complete o).launches = s.launches := by
  unfold State.complete; simp only [modBeam_launches]
  exact (lands_keep State.launches o.beam (fun s w => land_launches s o.beam w) o.writes _).trans (by split <;> rfl)
@[simp] theorem complete_cores (s : State) (o : Op) : (s.complete o).cores = s.cores := by
  unfold State.complete; simp only [modBeam_cores]
  exact (lands_keep State.cores o.beam (fun s w => land_cores s o.beam w) o.writes _).trans (by split <;> rfl)
@[simp] theorem complete_queues (s : State) (o : Op) : (s.complete o).queues = s.queues := by
  unfold State.complete; simp only [modBeam_queues]
  exact (lands_keep State.queues o.beam (fun s w => land_queues s o.beam w) o.writes _).trans (by split <;> rfl)
@[simp] theorem complete_pool (s : State) (o : Op) : (s.complete o).pool = s.pool := by
  unfold State.complete; simp only [modBeam_pool]
  exact (lands_keep State.pool o.beam (fun s w => land_pool s o.beam w) o.writes _).trans (by split <;> rfl)
@[simp] theorem complete_poolGen (s : State) (o : Op) : (s.complete o).poolGen = s.poolGen := by
  unfold State.complete; simp only [modBeam_poolGen]
  exact (lands_keep State.poolGen o.beam (fun s w => land_poolGen s o.beam w) o.writes _).trans (by split <;> rfl)
@[simp] theorem complete_tickets (s : State) (o : Op) : (s.complete o).tickets = s.tickets := by
  unfold State.complete; simp only [modBeam_tickets]
  exact (lands_keep State.tickets o.beam (fun s w => land_tickets s o.beam w) o.writes _).trans (by split <;> rfl)
@[simp] theorem complete_nextTicket (s : State) (o : Op) : (s.complete o).nextTicket = s.nextTicket := by
  unfold State.complete; simp only [modBeam_nextTicket]
  exact (lands_keep State.nextTicket o.beam (fun s w => land_nextTicket s o.beam w) o.writes _).trans (by split <;> rfl)
@[simp] theorem complete_net (s : State) (o : Op) : (s.complete o).net = s.net := by
  unfold State.complete; simp only [modBeam_net]
  exact (lands_keep State.net o.beam (fun s w => land_net s o.beam w) o.writes _).trans (by split <;> rfl)
@[simp] theorem complete_evbuf (s : State) (o : Op) : (s.complete o).evbuf = s.evbuf := by
  unfold State.complete; simp only [modBeam_evbuf]
  exact (lands_keep State.evbuf o.beam (fun s w => land_evbuf s o.beam w) o.writes _).trans (by split <;> rfl)
@[simp] theorem complete_time (s : State) (o : Op) : (s.complete o).time = s.time := by
  unfold State.complete; simp only [modBeam_time]
  exact (lands_keep State.time o.beam (fun s w => land_time s o.beam w) o.writes _).trans (by split <;> rfl)
@[simp] theorem complete_regs (s : State) (o : Op) : (s.complete o).regs = s.regs := by
  unfold State.complete; simp only [modBeam_regs]
  exact (lands_keep State.regs o.beam (fun s w => land_regs s o.beam w) o.writes _).trans (by split <;> rfl)
@[simp] theorem complete_ctxRegs (s : State) (o : Op) : (s.complete o).ctxRegs = s.ctxRegs := by
  unfold State.complete; simp only [modBeam_ctxRegs]
  exact (lands_keep State.ctxRegs o.beam (fun s w => land_ctxRegs s o.beam w) o.writes _).trans (by split <;> rfl)
@[simp] theorem complete_links (s : State) (o : Op) : (s.complete o).links = s.links := by
  unfold State.complete; simp only [modBeam_links]
  exact (lands_keep State.links o.beam (fun s w => land_links s o.beam w) o.writes _).trans (by split <;> rfl)
@[simp] theorem complete_hot (s : State) (o : Op) : (s.complete o).hot = s.hot := by
  unfold State.complete; simp only [modBeam_hot]
  exact (lands_keep State.hot o.beam (fun s w => land_hot s o.beam w) o.writes _).trans (by split <;> rfl)
@[simp] theorem complete_ports (s : State) (o : Op) : (s.complete o).ports = s.ports := by
  unfold State.complete; simp only [modBeam_ports]
  exact (lands_keep State.ports o.beam (fun s w => land_ports s o.beam w) o.writes _).trans (by split <;> rfl)
@[simp] theorem complete_reply (s : State) (o : Op) : (s.complete o).reply = s.reply := by
  unfold State.complete; simp only [modBeam_reply]
  exact (lands_keep State.reply o.beam (fun s w => land_reply s o.beam w) o.writes _).trans (by split <;> rfl)
@[simp] theorem complete_pushReply (s : State) (o : Op) : (s.complete o).pushReply = s.pushReply := by
  unfold State.complete; simp only [modBeam_pushReply]
  exact (lands_keep State.pushReply o.beam (fun s w => land_pushReply s o.beam w) o.writes _).trans (by split <;> rfl)
@[simp] theorem complete_firmware (s : State) (o : Op) : (s.complete o).firmware = s.firmware := by
  unfold State.complete; simp only [modBeam_firmware]
  exact (lands_keep State.firmware o.beam (fun s w => land_firmware s o.beam w) o.writes _).trans (by split <;> rfl)
@[simp] theorem complete_fencedCols (s : State) (o : Op) : (s.complete o).fencedCols = s.fencedCols := by
  unfold State.complete; simp only [modBeam_fencedCols]
  exact (lands_keep State.fencedCols o.beam (fun s w => land_fencedCols s o.beam w) o.writes _).trans (by split <;> rfl)
@[simp] theorem complete_outDies (s : State) (o : Op) : (s.complete o).outDies = s.outDies := by
  unfold State.complete; simp only [modBeam_outDies]
  exact (lands_keep State.outDies o.beam (fun s w => land_outDies s o.beam w) o.writes _).trans (by split <;> rfl)
/-- The beam finds what a tracked engine command wrote (R287); of memory no byte changes. -/
theorem complete_mem (s : State) (o : Op) :
    (s.complete o).mem = if o.ctr.isSome && o.wrote then s.mem.dropBehind (coreOf o.beam) else s.mem := by
  unfold State.complete; simp only [modBeam_mem]
  exact (lands_keep State.mem o.beam (fun s w => land_mem s o.beam w) o.writes _).trans (by split <;> rfl)
@[simp] theorem complete_bytes (s : State) (o : Op) : (s.complete o).mem.bytes = s.mem.bytes := by rw [complete_mem]; split <;> rfl
@[simp] theorem complete_scratch (s : State) (o : Op) : (s.complete o).mem.scratch = s.mem.scratch := by rw [complete_mem]; split <;> rfl
@[simp] theorem complete_stack (s : State) (o : Op) : (s.complete o).mem.stack = s.mem.stack := by rw [complete_mem]; split <;> rfl
theorem wf_complete {s : State} (o : Op) (h : Memory.wf s.mem = true) : Memory.wf (s.complete o).mem = true := by
  rw [complete_mem]; split
  · exact wf_dropBehind _ h
  · exact h

/-! ### Results of a word (R58, R101) -/

/-- Folding an operation that changes threads and beams alone changes nothing else. -/
theorem foldl_writes {β : Type} (f : State → β → State) (hf : ∀ s b, ∃ ts bs, f s b = { s with threads := ts, beams := bs })
    (l : List β) (s : State) : ∃ ts bs, l.foldl f s = { s with threads := ts, beams := bs } := by
  induction l generalizing s with
  | nil => exact ⟨s.threads, s.beams, rfl⟩
  | cons b l ih =>
    obtain ⟨ts, bs, h⟩ := hf s b
    obtain ⟨ts', bs', h'⟩ := ih (f s b)
    exact ⟨ts', bs', by rw [List.foldl_cons, h', h]⟩

theorem orFx_writes (s : State) (m : BitVec 8) (g : Nat → Nat) : ∃ ts bs, s.orFx m g = { s with threads := ts, beams := bs } :=
  foldl_writes _ (fun s _ => ⟨_, s.beams, rfl⟩) _ _

/-- The results of a word go to threads and to the beam. -/
theorem putOut_writes (s : State) (h : Hd) (d : RF) (v : Bool) (g : Nat → Out) :
    ∃ ts bs, s.putOut h d v g = { s with threads := ts, beams := bs } := by
  cases d with
  | k n =>
    simp only [State.putOut]; split
    · obtain ⟨ts, bs, e⟩ := orFx_writes (s.modCb fun b => b.setK n.toNat (BitVec.ofNat 32 (g 0).val)) (s.part h) fun _ => (g 0).fl
      exact ⟨ts, bs, by rw [e]; rfl⟩
    · exact ⟨s.threads, s.beams, rfl⟩
  | t n => exact foldl_writes _ (fun s _ => ⟨_, s.beams, rfl⟩) _ _

@[simp] theorem putOut_sched (s : State) (h : Hd) (d : RF) (v : Bool) (g : Nat → Out) : (s.putOut h d v g).sched = s.sched := by
  obtain ⟨ts, bs, e⟩ := putOut_writes s h d v g; rw [e]
@[simp] theorem drew_sched (s : State) (b : Bool) : (s.drew b).sched = s.sched := by unfold State.drew; split <;> rfl
@[simp] theorem putOut_wgs (s : State) (h : Hd) (d : RF) (v : Bool) (g : Nat → Out) : (s.putOut h d v g).wgs = s.wgs := by
  obtain ⟨ts, bs, e⟩ := putOut_writes s h d v g; rw [e]
@[simp] theorem drew_wgs (s : State) (b : Bool) : (s.drew b).wgs = s.wgs := by unfold State.drew; split <;> rfl
@[simp] theorem putOut_gangs (s : State) (h : Hd) (d : RF) (v : Bool) (g : Nat → Out) : (s.putOut h d v g).gangs = s.gangs := by
  obtain ⟨ts, bs, e⟩ := putOut_writes s h d v g; rw [e]
@[simp] theorem drew_gangs (s : State) (b : Bool) : (s.drew b).gangs = s.gangs := by unfold State.drew; split <;> rfl
@[simp] theorem putOut_launches (s : State) (h : Hd) (d : RF) (v : Bool) (g : Nat → Out) : (s.putOut h d v g).launches = s.launches := by
  obtain ⟨ts, bs, e⟩ := putOut_writes s h d v g; rw [e]
@[simp] theorem drew_launches (s : State) (b : Bool) : (s.drew b).launches = s.launches := by unfold State.drew; split <;> rfl
@[simp] theorem putOut_cores (s : State) (h : Hd) (d : RF) (v : Bool) (g : Nat → Out) : (s.putOut h d v g).cores = s.cores := by
  obtain ⟨ts, bs, e⟩ := putOut_writes s h d v g; rw [e]
@[simp] theorem drew_cores (s : State) (b : Bool) : (s.drew b).cores = s.cores := by unfold State.drew; split <;> rfl
@[simp] theorem putOut_ops (s : State) (h : Hd) (d : RF) (v : Bool) (g : Nat → Out) : (s.putOut h d v g).ops = s.ops := by
  obtain ⟨ts, bs, e⟩ := putOut_writes s h d v g; rw [e]
@[simp] theorem drew_ops (s : State) (b : Bool) : (s.drew b).ops = s.ops := by unfold State.drew; split <;> rfl
@[simp] theorem putOut_mem (s : State) (h : Hd) (d : RF) (v : Bool) (g : Nat → Out) : (s.putOut h d v g).mem = s.mem := by
  obtain ⟨ts, bs, e⟩ := putOut_writes s h d v g; rw [e]
@[simp] theorem drew_mem (s : State) (b : Bool) : (s.drew b).mem = s.mem := by unfold State.drew; split <;> rfl
@[simp] theorem putOut_queues (s : State) (h : Hd) (d : RF) (v : Bool) (g : Nat → Out) : (s.putOut h d v g).queues = s.queues := by
  obtain ⟨ts, bs, e⟩ := putOut_writes s h d v g; rw [e]
@[simp] theorem drew_queues (s : State) (b : Bool) : (s.drew b).queues = s.queues := by unfold State.drew; split <;> rfl
@[simp] theorem putOut_pool (s : State) (h : Hd) (d : RF) (v : Bool) (g : Nat → Out) : (s.putOut h d v g).pool = s.pool := by
  obtain ⟨ts, bs, e⟩ := putOut_writes s h d v g; rw [e]
@[simp] theorem drew_pool (s : State) (b : Bool) : (s.drew b).pool = s.pool := by unfold State.drew; split <;> rfl
@[simp] theorem putOut_poolGen (s : State) (h : Hd) (d : RF) (v : Bool) (g : Nat → Out) : (s.putOut h d v g).poolGen = s.poolGen := by
  obtain ⟨ts, bs, e⟩ := putOut_writes s h d v g; rw [e]
@[simp] theorem drew_poolGen (s : State) (b : Bool) : (s.drew b).poolGen = s.poolGen := by unfold State.drew; split <;> rfl
@[simp] theorem putOut_tickets (s : State) (h : Hd) (d : RF) (v : Bool) (g : Nat → Out) : (s.putOut h d v g).tickets = s.tickets := by
  obtain ⟨ts, bs, e⟩ := putOut_writes s h d v g; rw [e]
@[simp] theorem drew_tickets (s : State) (b : Bool) : (s.drew b).tickets = s.tickets := by unfold State.drew; split <;> rfl
@[simp] theorem putOut_nextTicket (s : State) (h : Hd) (d : RF) (v : Bool) (g : Nat → Out) : (s.putOut h d v g).nextTicket = s.nextTicket := by
  obtain ⟨ts, bs, e⟩ := putOut_writes s h d v g; rw [e]
@[simp] theorem drew_nextTicket (s : State) (b : Bool) : (s.drew b).nextTicket = s.nextTicket := by unfold State.drew; split <;> rfl
@[simp] theorem putOut_net (s : State) (h : Hd) (d : RF) (v : Bool) (g : Nat → Out) : (s.putOut h d v g).net = s.net := by
  obtain ⟨ts, bs, e⟩ := putOut_writes s h d v g; rw [e]
@[simp] theorem drew_net (s : State) (b : Bool) : (s.drew b).net = s.net := by unfold State.drew; split <;> rfl
@[simp] theorem putOut_evbuf (s : State) (h : Hd) (d : RF) (v : Bool) (g : Nat → Out) : (s.putOut h d v g).evbuf = s.evbuf := by
  obtain ⟨ts, bs, e⟩ := putOut_writes s h d v g; rw [e]
@[simp] theorem drew_evbuf (s : State) (b : Bool) : (s.drew b).evbuf = s.evbuf := by unfold State.drew; split <;> rfl
@[simp] theorem putOut_time (s : State) (h : Hd) (d : RF) (v : Bool) (g : Nat → Out) : (s.putOut h d v g).time = s.time := by
  obtain ⟨ts, bs, e⟩ := putOut_writes s h d v g; rw [e]
@[simp] theorem drew_time (s : State) (b : Bool) : (s.drew b).time = s.time := by unfold State.drew; split <;> rfl
@[simp] theorem putOut_regs (s : State) (h : Hd) (d : RF) (v : Bool) (g : Nat → Out) : (s.putOut h d v g).regs = s.regs := by
  obtain ⟨ts, bs, e⟩ := putOut_writes s h d v g; rw [e]
@[simp] theorem drew_regs (s : State) (b : Bool) : (s.drew b).regs = s.regs := by unfold State.drew; split <;> rfl
@[simp] theorem putOut_ctxRegs (s : State) (h : Hd) (d : RF) (v : Bool) (g : Nat → Out) : (s.putOut h d v g).ctxRegs = s.ctxRegs := by
  obtain ⟨ts, bs, e⟩ := putOut_writes s h d v g; rw [e]
@[simp] theorem drew_ctxRegs (s : State) (b : Bool) : (s.drew b).ctxRegs = s.ctxRegs := by unfold State.drew; split <;> rfl
@[simp] theorem putOut_links (s : State) (h : Hd) (d : RF) (v : Bool) (g : Nat → Out) : (s.putOut h d v g).links = s.links := by
  obtain ⟨ts, bs, e⟩ := putOut_writes s h d v g; rw [e]
@[simp] theorem drew_links (s : State) (b : Bool) : (s.drew b).links = s.links := by unfold State.drew; split <;> rfl
@[simp] theorem putOut_hot (s : State) (h : Hd) (d : RF) (v : Bool) (g : Nat → Out) : (s.putOut h d v g).hot = s.hot := by
  obtain ⟨ts, bs, e⟩ := putOut_writes s h d v g; rw [e]
@[simp] theorem drew_hot (s : State) (b : Bool) : (s.drew b).hot = s.hot := by unfold State.drew; split <;> rfl
@[simp] theorem putOut_ports (s : State) (h : Hd) (d : RF) (v : Bool) (g : Nat → Out) : (s.putOut h d v g).ports = s.ports := by
  obtain ⟨ts, bs, e⟩ := putOut_writes s h d v g; rw [e]
@[simp] theorem drew_ports (s : State) (b : Bool) : (s.drew b).ports = s.ports := by unfold State.drew; split <;> rfl
@[simp] theorem putOut_reply (s : State) (h : Hd) (d : RF) (v : Bool) (g : Nat → Out) : (s.putOut h d v g).reply = s.reply := by
  obtain ⟨ts, bs, e⟩ := putOut_writes s h d v g; rw [e]
@[simp] theorem drew_reply (s : State) (b : Bool) : (s.drew b).reply = s.reply := by unfold State.drew; split <;> rfl
@[simp] theorem putOut_pushReply (s : State) (h : Hd) (d : RF) (v : Bool) (g : Nat → Out) : (s.putOut h d v g).pushReply = s.pushReply := by
  obtain ⟨ts, bs, e⟩ := putOut_writes s h d v g; rw [e]
@[simp] theorem drew_pushReply (s : State) (b : Bool) : (s.drew b).pushReply = s.pushReply := by unfold State.drew; split <;> rfl
@[simp] theorem putOut_firmware (s : State) (h : Hd) (d : RF) (v : Bool) (g : Nat → Out) : (s.putOut h d v g).firmware = s.firmware := by
  obtain ⟨ts, bs, e⟩ := putOut_writes s h d v g; rw [e]
@[simp] theorem drew_firmware (s : State) (b : Bool) : (s.drew b).firmware = s.firmware := by unfold State.drew; split <;> rfl
@[simp] theorem putOut_fencedCols (s : State) (h : Hd) (d : RF) (v : Bool) (g : Nat → Out) : (s.putOut h d v g).fencedCols = s.fencedCols := by
  obtain ⟨ts, bs, e⟩ := putOut_writes s h d v g; rw [e]
@[simp] theorem drew_fencedCols (s : State) (b : Bool) : (s.drew b).fencedCols = s.fencedCols := by unfold State.drew; split <;> rfl
@[simp] theorem putOut_outDies (s : State) (h : Hd) (d : RF) (v : Bool) (g : Nat → Out) : (s.putOut h d v g).outDies = s.outDies := by
  obtain ⟨ts, bs, e⟩ := putOut_writes s h d v g; rw [e]
@[simp] theorem drew_outDies (s : State) (b : Bool) : (s.drew b).outDies = s.outDies := by unfold State.drew; split <;> rfl

/-- What a word of the lanes leaves outside threads, beams and lanes. -/
theorem laneNext_mem (s : State) (x : LaneWord) : (s.laneNext x).mem = s.mem := by simp [State.laneNext]
theorem laneNext_ops (s : State) (x : LaneWord) : (s.laneNext x).ops = s.ops := by simp [State.laneNext]
theorem laneNext_wgs (s : State) (x : LaneWord) : (s.laneNext x).wgs = s.wgs := by simp [State.laneNext]
theorem laneNext_launches (s : State) (x : LaneWord) : (s.laneNext x).launches = s.launches := by simp [State.laneNext]
theorem laneNext_regs (s : State) (x : LaneWord) : (s.laneNext x).regs = s.regs ∧ (s.laneNext x).ctxRegs = s.ctxRegs := by
  simp [State.laneNext]

end Sys2Proof.Machine
end

