-- ==== Sys2Proof/Laws/PerInstr.lean ====
section
/-! SUPPORT. One lemma per instruction: bit 63 of an encoded word tells a paired word from a full one (R40). -/

namespace Sys2Proof

/-- Bit 63 of the word of an instruction. -/
def pairedBit : Instr → Bool
  | .pairedWord _ _ => true
  | _ => false

/-- The family: bit 63 of an instruction's word. -/
def Laws.WordKind.Statement (i : Instr) : Prop := ∀ w, encode i = some w → w.getLsbD 63 = pairedBit i

theorem encZ_bit63 (op : BitVec 8) (h : Hd) (z : ZF) : (encZ op h z).getLsbD 63 = false := by
  unfold encZ encHd
  repeat (refine (BitVec.getLsbD_append ..).trans ?_; rw [if_neg (by decide)])
  rfl

theorem encI_bit63 (op : BitVec 8) (h : Hd) (z : IF) : (encI op h z).getLsbD 63 = false := by
  unfold encI encHd
  repeat (refine (BitVec.getLsbD_append ..).trans ?_; rw [if_neg (by decide)])
  rfl

theorem encM_bit63 (op : BitVec 8) (h : Hd) (z : MF) : (encM op h z).getLsbD 63 = false := by
  unfold encM encHd
  repeat (refine (BitVec.getLsbD_append ..).trans ?_; rw [if_neg (by decide)])
  rfl

theorem encB_bit63 (op : BitVec 8) (h : Hd) (z : BF) : (encB op h z).getLsbD 63 = false := by
  unfold encB encHd
  repeat (refine (BitVec.getLsbD_append ..).trans ?_; rw [if_neg (by decide)])
  rfl

theorem encX_bit63 (op : BitVec 8) (h : Hd) (z : XF) : (encX op h z).getLsbD 63 = false := by
  unfold encX encHd
  repeat (refine (BitVec.getLsbD_append ..).trans ?_; rw [if_neg (by decide)])
  rfl

theorem encT_bit63 (op : BitVec 8) (h : Hd) (z : TF) : (encT op h z).getLsbD 63 = false := by
  unfold encT encHd
  repeat (refine (BitVec.getLsbD_append ..).trans ?_; rw [if_neg (by decide)])
  rfl

theorem encY_bit63 (op : BitVec 8) (h : Hd) (z : YF) : (encY op h z).getLsbD 63 = false := by
  unfold encY encHd
  repeat (refine (BitVec.getLsbD_append ..).trans ?_; rw [if_neg (by decide)])
  rfl

theorem Laws.WordKind.of_none {i : Instr} (h : encode i = none) : Laws.WordKind.Statement i := by
  intro w hw; rw [h] at hw; cases hw

theorem Laws.WordKind.nop (h : Hd) (z : ZF) : Laws.WordKind.Statement (.nop h z) := fun _ hw => Option.some.inj hw ▸ encZ_bit63 _ h z
theorem Laws.WordKind.br (h : Hd) (z : BF) : Laws.WordKind.Statement (.br h z) := fun _ hw => Option.some.inj hw ▸ encB_bit63 _ h z
theorem Laws.WordKind.bru (h : Hd) (z : BF) : Laws.WordKind.Statement (.bru h z) := fun _ hw => Option.some.inj hw ▸ encB_bit63 _ h z
theorem Laws.WordKind.brm (h : Hd) (z : BF) : Laws.WordKind.Statement (.brm h z) := fun _ hw => Option.some.inj hw ▸ encB_bit63 _ h z
theorem Laws.WordKind.brw (h : Hd) (z : BF) : Laws.WordKind.Statement (.brw h z) := fun _ hw => Option.some.inj hw ▸ encB_bit63 _ h z
theorem Laws.WordKind.jmp (h : Hd) (z : BF) : Laws.WordKind.Statement (.jmp h z) := fun _ hw => Option.some.inj hw ▸ encB_bit63 _ h z
theorem Laws.WordKind.jmpi (h : Hd) (z : BF) : Laws.WordKind.Statement (.jmpi h z) := fun _ hw => Option.some.inj hw ▸ encB_bit63 _ h z
theorem Laws.WordKind.call (h : Hd) (z : BF) : Laws.WordKind.Statement (.call h z) := fun _ hw => Option.some.inj hw ▸ encB_bit63 _ h z
theorem Laws.WordKind.calli (h : Hd) (z : BF) : Laws.WordKind.Statement (.calli h z) := fun _ hw => Option.some.inj hw ▸ encB_bit63 _ h z
theorem Laws.WordKind.ret (h : Hd) (z : BF) : Laws.WordKind.Statement (.ret h z) := fun _ hw => Option.some.inj hw ▸ encB_bit63 _ h z
theorem Laws.WordKind.reconv (h : Hd) (z : BF) : Laws.WordKind.Statement (.reconv h z) := fun _ hw => Option.some.inj hw ▸ encB_bit63 _ h z
theorem Laws.WordKind.loop (h : Hd) (z : BF) : Laws.WordKind.Statement (.loop h z) := fun _ hw => Option.some.inj hw ▸ encB_bit63 _ h z
theorem Laws.WordKind.loopK (h : Hd) (z : BF) : Laws.WordKind.Statement (.loopK h z) := fun _ hw => Option.some.inj hw ▸ encB_bit63 _ h z
theorem Laws.WordKind.yield (h : Hd) (z : BF) : Laws.WordKind.Statement (.yield h z) := fun _ hw => Option.some.inj hw ▸ encB_bit63 _ h z
theorem Laws.WordKind.waitf (h : Hd) (z : BF) : Laws.WordKind.Statement (.waitf h z) := fun _ hw => Option.some.inj hw ▸ encB_bit63 _ h z
theorem Laws.WordKind.pset (h : Hd) (z : ZF) : Laws.WordKind.Statement (.pset h z) := fun _ hw => Option.some.inj hw ▸ encZ_bit63 _ h z
theorem Laws.WordKind.pand (h : Hd) (z : ZF) : Laws.WordKind.Statement (.pand h z) := fun _ hw => Option.some.inj hw ▸ encZ_bit63 _ h z
theorem Laws.WordKind.por (h : Hd) (z : ZF) : Laws.WordKind.Statement (.por h z) := fun _ hw => Option.some.inj hw ▸ encZ_bit63 _ h z
theorem Laws.WordKind.pxor (h : Hd) (z : ZF) : Laws.WordKind.Statement (.pxor h z) := fun _ hw => Option.some.inj hw ▸ encZ_bit63 _ h z
theorem Laws.WordKind.pnot (h : Hd) (z : ZF) : Laws.WordKind.Statement (.pnot h z) := fun _ hw => Option.some.inj hw ▸ encZ_bit63 _ h z
theorem Laws.WordKind.pmov (h : Hd) (z : ZF) : Laws.WordKind.Statement (.pmov h z) := fun _ hw => Option.some.inj hw ▸ encZ_bit63 _ h z
theorem Laws.WordKind.vote (h : Hd) (z : ZF) : Laws.WordKind.Statement (.vote h z) := fun _ hw => Option.some.inj hw ▸ encZ_bit63 _ h z
theorem Laws.WordKind.elect (h : Hd) (z : ZF) : Laws.WordKind.Statement (.elect h z) := fun _ hw => Option.some.inj hw ▸ encZ_bit63 _ h z
theorem Laws.WordKind.actmask (h : Hd) (z : ZF) : Laws.WordKind.Statement (.actmask h z) := fun _ hw => Option.some.inj hw ▸ encZ_bit63 _ h z
theorem Laws.WordKind.mov (h : Hd) (z : ZF) : Laws.WordKind.Statement (.mov h z) := fun _ hw => Option.some.inj hw ▸ encZ_bit63 _ h z
theorem Laws.WordKind.movi (h : Hd) (z : IF) : Laws.WordKind.Statement (.movi h z) := fun _ hw => Option.some.inj hw ▸ encI_bit63 _ h z
theorem Laws.WordKind.iadd (h : Hd) (z : ZF) : Laws.WordKind.Statement (.iadd h z) := fun _ hw => Option.some.inj hw ▸ encZ_bit63 _ h z
theorem Laws.WordKind.iaddI (h : Hd) (z : IF) : Laws.WordKind.Statement (.iaddI h z) := fun _ hw => Option.some.inj hw ▸ encI_bit63 _ h z
theorem Laws.WordKind.isub (h : Hd) (z : ZF) : Laws.WordKind.Statement (.isub h z) := fun _ hw => Option.some.inj hw ▸ encZ_bit63 _ h z
theorem Laws.WordKind.iaddc (h : Hd) (z : ZF) : Laws.WordKind.Statement (.iaddc h z) := fun _ hw => Option.some.inj hw ▸ encZ_bit63 _ h z
theorem Laws.WordKind.imul (h : Hd) (z : ZF) : Laws.WordKind.Statement (.imul h z) := fun _ hw => Option.some.inj hw ▸ encZ_bit63 _ h z
theorem Laws.WordKind.imulI (h : Hd) (z : IF) : Laws.WordKind.Statement (.imulI h z) := fun _ hw => Option.some.inj hw ▸ encI_bit63 _ h z
theorem Laws.WordKind.imulh (h : Hd) (z : ZF) : Laws.WordKind.Statement (.imulh h z) := fun _ hw => Option.some.inj hw ▸ encZ_bit63 _ h z
theorem Laws.WordKind.imad (h : Hd) (z : ZF) : Laws.WordKind.Statement (.imad h z) := fun _ hw => Option.some.inj hw ▸ encZ_bit63 _ h z
theorem Laws.WordKind.imul64 (h : Hd) (z : ZF) : Laws.WordKind.Statement (.imul64 h z) := fun _ hw => Option.some.inj hw ▸ encZ_bit63 _ h z
theorem Laws.WordKind.iadd64 (h : Hd) (z : ZF) : Laws.WordKind.Statement (.iadd64 h z) := fun _ hw => Option.some.inj hw ▸ encZ_bit63 _ h z
theorem Laws.WordKind.idiv (h : Hd) (z : ZF) : Laws.WordKind.Statement (.idiv h z) := fun _ hw => Option.some.inj hw ▸ encZ_bit63 _ h z
theorem Laws.WordKind.irem (h : Hd) (z : ZF) : Laws.WordKind.Statement (.irem h z) := fun _ hw => Option.some.inj hw ▸ encZ_bit63 _ h z
theorem Laws.WordKind.imin (h : Hd) (z : ZF) : Laws.WordKind.Statement (.imin h z) := fun _ hw => Option.some.inj hw ▸ encZ_bit63 _ h z
theorem Laws.WordKind.imax (h : Hd) (z : ZF) : Laws.WordKind.Statement (.imax h z) := fun _ hw => Option.some.inj hw ▸ encZ_bit63 _ h z
theorem Laws.WordKind.iabs (h : Hd) (z : ZF) : Laws.WordKind.Statement (.iabs h z) := fun _ hw => Option.some.inj hw ▸ encZ_bit63 _ h z
theorem Laws.WordKind.ineg (h : Hd) (z : ZF) : Laws.WordKind.Statement (.ineg h z) := fun _ hw => Option.some.inj hw ▸ encZ_bit63 _ h z
theorem Laws.WordKind.and (h : Hd) (z : ZF) : Laws.WordKind.Statement (.and h z) := fun _ hw => Option.some.inj hw ▸ encZ_bit63 _ h z
theorem Laws.WordKind.andI (h : Hd) (z : IF) : Laws.WordKind.Statement (.andI h z) := fun _ hw => Option.some.inj hw ▸ encI_bit63 _ h z
theorem Laws.WordKind.or (h : Hd) (z : ZF) : Laws.WordKind.Statement (.or h z) := fun _ hw => Option.some.inj hw ▸ encZ_bit63 _ h z
theorem Laws.WordKind.orI (h : Hd) (z : IF) : Laws.WordKind.Statement (.orI h z) := fun _ hw => Option.some.inj hw ▸ encI_bit63 _ h z
theorem Laws.WordKind.xor (h : Hd) (z : ZF) : Laws.WordKind.Statement (.xor h z) := fun _ hw => Option.some.inj hw ▸ encZ_bit63 _ h z
theorem Laws.WordKind.xorI (h : Hd) (z : IF) : Laws.WordKind.Statement (.xorI h z) := fun _ hw => Option.some.inj hw ▸ encI_bit63 _ h z
theorem Laws.WordKind.not (h : Hd) (z : ZF) : Laws.WordKind.Statement (.not h z) := fun _ hw => Option.some.inj hw ▸ encZ_bit63 _ h z
theorem Laws.WordKind.shl (h : Hd) (z : ZF) : Laws.WordKind.Statement (.shl h z) := fun _ hw => Option.some.inj hw ▸ encZ_bit63 _ h z
theorem Laws.WordKind.shlI (h : Hd) (z : IF) : Laws.WordKind.Statement (.shlI h z) := fun _ hw => Option.some.inj hw ▸ encI_bit63 _ h z
theorem Laws.WordKind.shr (h : Hd) (z : ZF) : Laws.WordKind.Statement (.shr h z) := fun _ hw => Option.some.inj hw ▸ encZ_bit63 _ h z
theorem Laws.WordKind.shrI (h : Hd) (z : IF) : Laws.WordKind.Statement (.shrI h z) := fun _ hw => Option.some.inj hw ▸ encI_bit63 _ h z
theorem Laws.WordKind.sra (h : Hd) (z : ZF) : Laws.WordKind.Statement (.sra h z) := fun _ hw => Option.some.inj hw ▸ encZ_bit63 _ h z
theorem Laws.WordKind.sraI (h : Hd) (z : IF) : Laws.WordKind.Statement (.sraI h z) := fun _ hw => Option.some.inj hw ▸ encI_bit63 _ h z
theorem Laws.WordKind.rot (h : Hd) (z : ZF) : Laws.WordKind.Statement (.rot h z) := fun _ hw => Option.some.inj hw ▸ encZ_bit63 _ h z
theorem Laws.WordKind.clz (h : Hd) (z : ZF) : Laws.WordKind.Statement (.clz h z) := fun _ hw => Option.some.inj hw ▸ encZ_bit63 _ h z
theorem Laws.WordKind.popc (h : Hd) (z : ZF) : Laws.WordKind.Statement (.popc h z) := fun _ hw => Option.some.inj hw ▸ encZ_bit63 _ h z
theorem Laws.WordKind.brev (h : Hd) (z : ZF) : Laws.WordKind.Statement (.brev h z) := fun _ hw => Option.some.inj hw ▸ encZ_bit63 _ h z
theorem Laws.WordKind.bfx (h : Hd) (z : ZF) : Laws.WordKind.Statement (.bfx h z) := fun _ hw => Option.some.inj hw ▸ encZ_bit63 _ h z
theorem Laws.WordKind.bfi (h : Hd) (z : ZF) : Laws.WordKind.Statement (.bfi h z) := fun _ hw => Option.some.inj hw ▸ encZ_bit63 _ h z
theorem Laws.WordKind.sel (h : Hd) (z : ZF) : Laws.WordKind.Statement (.sel h z) := fun _ hw => Option.some.inj hw ▸ encZ_bit63 _ h z
theorem Laws.WordKind.iset (h : Hd) (z : ZF) : Laws.WordKind.Statement (.iset h z) := fun _ hw => Option.some.inj hw ▸ encZ_bit63 _ h z
theorem Laws.WordKind.isetI (h : Hd) (z : IF) : Laws.WordKind.Statement (.isetI h z) := fun _ hw => Option.some.inj hw ▸ encI_bit63 _ h z
theorem Laws.WordKind.lea (h : Hd) (z : ZF) : Laws.WordKind.Statement (.lea h z) := fun _ hw => Option.some.inj hw ▸ encZ_bit63 _ h z
theorem Laws.WordKind.leaI (h : Hd) (z : IF) : Laws.WordKind.Statement (.leaI h z) := fun _ hw => Option.some.inj hw ▸ encI_bit63 _ h z
theorem Laws.WordKind.idp2 (h : Hd) (z : ZF) : Laws.WordKind.Statement (.idp2 h z) := fun _ hw => Option.some.inj hw ▸ encZ_bit63 _ h z
theorem Laws.WordKind.inarrow (h : Hd) (z : ZF) : Laws.WordKind.Statement (.inarrow h z) := fun _ hw => Option.some.inj hw ▸ encZ_bit63 _ h z
theorem Laws.WordKind.fadd (h : Hd) (z : ZF) : Laws.WordKind.Statement (.fadd h z) := fun _ hw => Option.some.inj hw ▸ encZ_bit63 _ h z
theorem Laws.WordKind.faddI (h : Hd) (z : IF) : Laws.WordKind.Statement (.faddI h z) := fun _ hw => Option.some.inj hw ▸ encI_bit63 _ h z
theorem Laws.WordKind.fsub (h : Hd) (z : ZF) : Laws.WordKind.Statement (.fsub h z) := fun _ hw => Option.some.inj hw ▸ encZ_bit63 _ h z
theorem Laws.WordKind.fmul (h : Hd) (z : ZF) : Laws.WordKind.Statement (.fmul h z) := fun _ hw => Option.some.inj hw ▸ encZ_bit63 _ h z
theorem Laws.WordKind.fmulI (h : Hd) (z : IF) : Laws.WordKind.Statement (.fmulI h z) := fun _ hw => Option.some.inj hw ▸ encI_bit63 _ h z
theorem Laws.WordKind.ffma (h : Hd) (z : ZF) : Laws.WordKind.Statement (.ffma h z) := fun _ hw => Option.some.inj hw ▸ encZ_bit63 _ h z
theorem Laws.WordKind.ffms (h : Hd) (z : ZF) : Laws.WordKind.Statement (.ffms h z) := fun _ hw => Option.some.inj hw ▸ encZ_bit63 _ h z
theorem Laws.WordKind.ffnm (h : Hd) (z : ZF) : Laws.WordKind.Statement (.ffnm h z) := fun _ hw => Option.some.inj hw ▸ encZ_bit63 _ h z
theorem Laws.WordKind.fmin (h : Hd) (z : ZF) : Laws.WordKind.Statement (.fmin h z) := fun _ hw => Option.some.inj hw ▸ encZ_bit63 _ h z
theorem Laws.WordKind.fmax (h : Hd) (z : ZF) : Laws.WordKind.Statement (.fmax h z) := fun _ hw => Option.some.inj hw ▸ encZ_bit63 _ h z
theorem Laws.WordKind.fabs (h : Hd) (z : ZF) : Laws.WordKind.Statement (.fabs h z) := fun _ hw => Option.some.inj hw ▸ encZ_bit63 _ h z
theorem Laws.WordKind.fneg (h : Hd) (z : ZF) : Laws.WordKind.Statement (.fneg h z) := fun _ hw => Option.some.inj hw ▸ encZ_bit63 _ h z
theorem Laws.WordKind.fcmp (h : Hd) (z : ZF) : Laws.WordKind.Statement (.fcmp h z) := fun _ hw => Option.some.inj hw ▸ encZ_bit63 _ h z
theorem Laws.WordKind.fclamp (h : Hd) (z : ZF) : Laws.WordKind.Statement (.fclamp h z) := fun _ hw => Option.some.inj hw ▸ encZ_bit63 _ h z
theorem Laws.WordKind.frcp (h : Hd) (z : ZF) : Laws.WordKind.Statement (.frcp h z) := fun _ hw => Option.some.inj hw ▸ encZ_bit63 _ h z
theorem Laws.WordKind.frsq (h : Hd) (z : ZF) : Laws.WordKind.Statement (.frsq h z) := fun _ hw => Option.some.inj hw ▸ encZ_bit63 _ h z
theorem Laws.WordKind.fsqrt (h : Hd) (z : ZF) : Laws.WordKind.Statement (.fsqrt h z) := fun _ hw => Option.some.inj hw ▸ encZ_bit63 _ h z
theorem Laws.WordKind.fdiv (h : Hd) (z : ZF) : Laws.WordKind.Statement (.fdiv h z) := fun _ hw => Option.some.inj hw ▸ encZ_bit63 _ h z
theorem Laws.WordKind.fexp2 (h : Hd) (z : ZF) : Laws.WordKind.Statement (.fexp2 h z) := fun _ hw => Option.some.inj hw ▸ encZ_bit63 _ h z
theorem Laws.WordKind.flog2 (h : Hd) (z : ZF) : Laws.WordKind.Statement (.flog2 h z) := fun _ hw => Option.some.inj hw ▸ encZ_bit63 _ h z
theorem Laws.WordKind.fsin (h : Hd) (z : ZF) : Laws.WordKind.Statement (.fsin h z) := fun _ hw => Option.some.inj hw ▸ encZ_bit63 _ h z
theorem Laws.WordKind.fcos (h : Hd) (z : ZF) : Laws.WordKind.Statement (.fcos h z) := fun _ hw => Option.some.inj hw ▸ encZ_bit63 _ h z
theorem Laws.WordKind.vdot (h : Hd) (z : ZF) : Laws.WordKind.Statement (.vdot h z) := fun _ hw => Option.some.inj hw ▸ encZ_bit63 _ h z
theorem Laws.WordKind.vhsum (h : Hd) (z : ZF) : Laws.WordKind.Statement (.vhsum h z) := fun _ hw => Option.some.inj hw ▸ encZ_bit63 _ h z
theorem Laws.WordKind.vbcast (h : Hd) (z : ZF) : Laws.WordKind.Statement (.vbcast h z) := fun _ hw => Option.some.inj hw ▸ encZ_bit63 _ h z
theorem Laws.WordKind.vext (h : Hd) (z : ZF) : Laws.WordKind.Statement (.vext h z) := fun _ hw => Option.some.inj hw ▸ encZ_bit63 _ h z
theorem Laws.WordKind.vins (h : Hd) (z : ZF) : Laws.WordKind.Statement (.vins h z) := fun _ hw => Option.some.inj hw ▸ encZ_bit63 _ h z
theorem Laws.WordKind.vperm (h : Hd) (z : ZF) : Laws.WordKind.Statement (.vperm h z) := fun _ hw => Option.some.inj hw ▸ encZ_bit63 _ h z
theorem Laws.WordKind.vslide (h : Hd) (z : ZF) : Laws.WordKind.Statement (.vslide h z) := fun _ hw => Option.some.inj hw ▸ encZ_bit63 _ h z
theorem Laws.WordKind.vshfl (h : Hd) (z : ZF) : Laws.WordKind.Statement (.vshfl h z) := fun _ hw => Option.some.inj hw ▸ encZ_bit63 _ h z
theorem Laws.WordKind.vhero (h : Hd) (z : ZF) : Laws.WordKind.Statement (.vhero h z) := fun _ hw => Option.some.inj hw ▸ encZ_bit63 _ h z
theorem Laws.WordKind.polmv (h : Hd) (z : ZF) : Laws.WordKind.Statement (.polmv h z) := fun _ hw => Option.some.inj hw ▸ encZ_bit63 _ h z
theorem Laws.WordKind.polmm (h : Hd) (z : ZF) : Laws.WordKind.Statement (.polmm h z) := fun _ hw => Option.some.inj hw ▸ encZ_bit63 _ h z
theorem Laws.WordKind.rngdraw (h : Hd) (z : ZF) : Laws.WordKind.Statement (.rngdraw h z) := fun _ hw => Option.some.inj hw ▸ encZ_bit63 _ h z
theorem Laws.WordKind.rngset (h : Hd) (z : ZF) : Laws.WordKind.Statement (.rngset h z) := fun _ hw => Option.some.inj hw ▸ encZ_bit63 _ h z
theorem Laws.WordKind.rngskip (h : Hd) (z : ZF) : Laws.WordKind.Statement (.rngskip h z) := fun _ hw => Option.some.inj hw ▸ encZ_bit63 _ h z
theorem Laws.WordKind.fxrd (h : Hd) (z : ZF) : Laws.WordKind.Statement (.fxrd h z) := fun _ hw => Option.some.inj hw ▸ encZ_bit63 _ h z
theorem Laws.WordKind.fxclr (h : Hd) (z : ZF) : Laws.WordKind.Statement (.fxclr h z) := fun _ hw => Option.some.inj hw ▸ encZ_bit63 _ h z
theorem Laws.WordKind.fsign (h : Hd) (z : ZF) : Laws.WordKind.Statement (.fsign h z) := fun _ hw => Option.some.inj hw ▸ encZ_bit63 _ h z
theorem Laws.WordKind.cvt (h : Hd) (z : ZF) : Laws.WordKind.Statement (.cvt h z) := fun _ hw => Option.some.inj hw ▸ encZ_bit63 _ h z
theorem Laws.WordKind.cvtsEnc (h : Hd) (z : ZF) : Laws.WordKind.Statement (.cvtsEnc h z) := fun _ hw => Option.some.inj hw ▸ encZ_bit63 _ h z
theorem Laws.WordKind.cvtsDec (h : Hd) (z : ZF) : Laws.WordKind.Statement (.cvtsDec h z) := fun _ hw => Option.some.inj hw ▸ encZ_bit63 _ h z
theorem Laws.WordKind.pack6 (h : Hd) (z : ZF) : Laws.WordKind.Statement (.pack6 h z) := fun _ hw => Option.some.inj hw ▸ encZ_bit63 _ h z
theorem Laws.WordKind.pack4 (h : Hd) (z : ZF) : Laws.WordKind.Statement (.pack4 h z) := fun _ hw => Option.some.inj hw ▸ encZ_bit63 _ h z
theorem Laws.WordKind.unpack6 (h : Hd) (z : ZF) : Laws.WordKind.Statement (.unpack6 h z) := fun _ hw => Option.some.inj hw ▸ encZ_bit63 _ h z
theorem Laws.WordKind.unpack4 (h : Hd) (z : ZF) : Laws.WordKind.Statement (.unpack4 h z) := fun _ hw => Option.some.inj hw ▸ encZ_bit63 _ h z
theorem Laws.WordKind.tagset (h : Hd) (z : ZF) : Laws.WordKind.Statement (.tagset h z) := fun _ hw => Option.some.inj hw ▸ encZ_bit63 _ h z
theorem Laws.WordKind.tagrd (h : Hd) (z : ZF) : Laws.WordKind.Statement (.tagrd h z) := fun _ hw => Option.some.inj hw ▸ encZ_bit63 _ h z
theorem Laws.WordKind.cbld (h : Hd) (z : TF) : Laws.WordKind.Statement (.cbld h z) := fun _ hw => Option.some.inj hw ▸ encT_bit63 _ h z
theorem Laws.WordKind.cbsync (h : Hd) (z : ZF) : Laws.WordKind.Statement (.cbsync h z) := fun _ hw => Option.some.inj hw ▸ encZ_bit63 _ h z
theorem Laws.WordKind.cbx (h : Hd) (z : ZF) : Laws.WordKind.Statement (.cbx h z) := fun _ hw => Option.some.inj hw ▸ encZ_bit63 _ h z
theorem Laws.WordKind.qnt (h : Hd) (z : ZF) : Laws.WordKind.Statement (.qnt h z) := fun _ hw => Option.some.inj hw ▸ encZ_bit63 _ h z
theorem Laws.WordKind.sclqEnc (h : Hd) (z : ZF) : Laws.WordKind.Statement (.sclqEnc h z) := fun _ hw => Option.some.inj hw ▸ encZ_bit63 _ h z
theorem Laws.WordKind.sclqDec (h : Hd) (z : ZF) : Laws.WordKind.Statement (.sclqDec h z) := fun _ hw => Option.some.inj hw ▸ encZ_bit63 _ h z
theorem Laws.WordKind.mma (h : Hd) (z : XF) : Laws.WordKind.Statement (.mma h z) := fun _ hw => Option.some.inj hw ▸ encX_bit63 _ h z
theorem Laws.WordKind.mmat (h : Hd) (z : XF) : Laws.WordKind.Statement (.mmat h z) := fun _ hw => Option.some.inj hw ▸ encX_bit63 _ h z
theorem Laws.WordKind.mzero (h : Hd) (z : XF) : Laws.WordKind.Statement (.mzero h z) := fun _ hw => Option.some.inj hw ▸ encX_bit63 _ h z
theorem Laws.WordKind.mload (h : Hd) (z : XF) : Laws.WordKind.Statement (.mload h z) := fun _ hw => Option.some.inj hw ▸ encX_bit63 _ h z
theorem Laws.WordKind.mrd (h : Hd) (z : XF) : Laws.WordKind.Statement (.mrd h z) := fun _ hw => Option.some.inj hw ▸ encX_bit63 _ h z
theorem Laws.WordKind.mwr (h : Hd) (z : XF) : Laws.WordKind.Statement (.mwr h z) := fun _ hw => Option.some.inj hw ▸ encX_bit63 _ h z
theorem Laws.WordKind.mdrain (h : Hd) (z : XF) : Laws.WordKind.Statement (.mdrain h z) := fun _ hw => Option.some.inj hw ▸ encX_bit63 _ h z
theorem Laws.WordKind.mrel (h : Hd) (z : XF) : Laws.WordKind.Statement (.mrel h z) := fun _ hw => Option.some.inj hw ▸ encX_bit63 _ h z
theorem Laws.WordKind.mstat (h : Hd) (z : XF) : Laws.WordKind.Statement (.mstat h z) := fun _ hw => Option.some.inj hw ▸ encX_bit63 _ h z
theorem Laws.WordKind.ld (h : Hd) (z : MF) : Laws.WordKind.Statement (.ld h z) := fun _ hw => Option.some.inj hw ▸ encM_bit63 _ h z
theorem Laws.WordKind.st (h : Hd) (z : MF) : Laws.WordKind.Statement (.st h z) := fun _ hw => Option.some.inj hw ▸ encM_bit63 _ h z
theorem Laws.WordKind.lds (h : Hd) (z : MF) : Laws.WordKind.Statement (.lds h z) := fun _ hw => Option.some.inj hw ▸ encM_bit63 _ h z
theorem Laws.WordKind.sts (h : Hd) (z : MF) : Laws.WordKind.Statement (.sts h z) := fun _ hw => Option.some.inj hw ▸ encM_bit63 _ h z
theorem Laws.WordKind.ldg (h : Hd) (z : MF) : Laws.WordKind.Statement (.ldg h z) := fun _ hw => Option.some.inj hw ▸ encM_bit63 _ h z
theorem Laws.WordKind.stg (h : Hd) (z : MF) : Laws.WordKind.Statement (.stg h z) := fun _ hw => Option.some.inj hw ▸ encM_bit63 _ h z
theorem Laws.WordKind.ldk (h : Hd) (z : MF) : Laws.WordKind.Statement (.ldk h z) := fun _ hw => Option.some.inj hw ▸ encM_bit63 _ h z
theorem Laws.WordKind.stk (h : Hd) (z : MF) : Laws.WordKind.Statement (.stk h z) := fun _ hw => Option.some.inj hw ▸ encM_bit63 _ h z
theorem Laws.WordKind.ldc (h : Hd) (z : MF) : Laws.WordKind.Statement (.ldc h z) := fun _ hw => Option.some.inj hw ▸ encM_bit63 _ h z
theorem Laws.WordKind.ldp6 (h : Hd) (z : MF) : Laws.WordKind.Statement (.ldp6 h z) := fun _ hw => Option.some.inj hw ▸ encM_bit63 _ h z
theorem Laws.WordKind.stp6 (h : Hd) (z : MF) : Laws.WordKind.Statement (.stp6 h z) := fun _ hw => Option.some.inj hw ▸ encM_bit63 _ h z
theorem Laws.WordKind.pref (h : Hd) (z : MF) : Laws.WordKind.Statement (.pref h z) := fun _ hw => Option.some.inj hw ▸ encM_bit63 _ h z
theorem Laws.WordKind.spinfo (h : Hd) (z : MF) : Laws.WordKind.Statement (.spinfo h z) := fun _ hw => Option.some.inj hw ▸ encM_bit63 _ h z
theorem Laws.WordKind.fence (h : Hd) (z : MF) : Laws.WordKind.Statement (.fence h z) := fun _ hw => Option.some.inj hw ▸ encM_bit63 _ h z
theorem Laws.WordKind.detdrain (h : Hd) (z : MF) : Laws.WordKind.Statement (.detdrain h z) := fun _ hw => Option.some.inj hw ▸ encM_bit63 _ h z
theorem Laws.WordKind.atom (h : Hd) (z : MF) : Laws.WordKind.Statement (.atom h z) := fun _ hw => Option.some.inj hw ▸ encM_bit63 _ h z
theorem Laws.WordKind.atomf (h : Hd) (z : MF) : Laws.WordKind.Statement (.atomf h z) := fun _ hw => Option.some.inj hw ▸ encM_bit63 _ h z
theorem Laws.WordKind.red (h : Hd) (z : MF) : Laws.WordKind.Statement (.red h z) := fun _ hw => Option.some.inj hw ▸ encM_bit63 _ h z
theorem Laws.WordKind.redf (h : Hd) (z : MF) : Laws.WordKind.Statement (.redf h z) := fun _ hw => Option.some.inj hw ▸ encM_bit63 _ h z
theorem Laws.WordKind.cas (h : Hd) (z : MF) : Laws.WordKind.Statement (.cas h z) := fun _ hw => Option.some.inj hw ▸ encM_bit63 _ h z
theorem Laws.WordKind.cas2 (h : Hd) (z : MF) : Laws.WordKind.Statement (.cas2 h z) := fun _ hw => Option.some.inj hw ▸ encM_bit63 _ h z
theorem Laws.WordKind.barinit (h : Hd) (z : MF) : Laws.WordKind.Statement (.barinit h z) := fun _ hw => Option.some.inj hw ▸ encM_bit63 _ h z
theorem Laws.WordKind.bararr (h : Hd) (z : MF) : Laws.WordKind.Statement (.bararr h z) := fun _ hw => Option.some.inj hw ▸ encM_bit63 _ h z
theorem Laws.WordKind.barwait (h : Hd) (z : MF) : Laws.WordKind.Statement (.barwait h z) := fun _ hw => Option.some.inj hw ▸ encM_bit63 _ h z
theorem Laws.WordKind.barqry (h : Hd) (z : MF) : Laws.WordKind.Statement (.barqry h z) := fun _ hw => Option.some.inj hw ▸ encM_bit63 _ h z
theorem Laws.WordKind.logmark (h : Hd) (z : TF) : Laws.WordKind.Statement (.logmark h z) := fun _ hw => Option.some.inj hw ▸ encT_bit63 _ h z
theorem Laws.WordKind.cpy (h : Hd) (z : TF) : Laws.WordKind.Statement (.cpy h z) := fun _ hw => Option.some.inj hw ▸ encT_bit63 _ h z
theorem Laws.WordKind.cpywp (h : Hd) (z : TF) : Laws.WordKind.Statement (.cpywp h z) := fun _ hw => Option.some.inj hw ▸ encT_bit63 _ h z
theorem Laws.WordKind.cpywait (h : Hd) (z : TF) : Laws.WordKind.Statement (.cpywait h z) := fun _ hw => Option.some.inj hw ▸ encT_bit63 _ h z
theorem Laws.WordKind.cpycan (h : Hd) (z : TF) : Laws.WordKind.Statement (.cpycan h z) := fun _ hw => Option.some.inj hw ▸ encT_bit63 _ h z
theorem Laws.WordKind.cpyst (h : Hd) (z : TF) : Laws.WordKind.Statement (.cpyst h z) := fun _ hw => Option.some.inj hw ▸ encT_bit63 _ h z
theorem Laws.WordKind.spawn (h : Hd) (z : TF) : Laws.WordKind.Statement (.spawn h z) := fun _ hw => Option.some.inj hw ▸ encT_bit63 _ h z
theorem Laws.WordKind.exit (h : Hd) (z : TF) : Laws.WordKind.Statement (.exit h z) := fun _ hw => Option.some.inj hw ▸ encT_bit63 _ h z
theorem Laws.WordKind.jwait (h : Hd) (z : TF) : Laws.WordKind.Statement (.jwait h z) := fun _ hw => Option.some.inj hw ▸ encT_bit63 _ h z
theorem Laws.WordKind.await (h : Hd) (z : TF) : Laws.WordKind.Statement (.await h z) := fun _ hw => Option.some.inj hw ▸ encT_bit63 _ h z
theorem Laws.WordKind.qpush (h : Hd) (z : TF) : Laws.WordKind.Statement (.qpush h z) := fun _ hw => Option.some.inj hw ▸ encT_bit63 _ h z
theorem Laws.WordKind.qpop (h : Hd) (z : TF) : Laws.WordKind.Statement (.qpop h z) := fun _ hw => Option.some.inj hw ▸ encT_bit63 _ h z
theorem Laws.WordKind.qqry (h : Hd) (z : TF) : Laws.WordKind.Statement (.qqry h z) := fun _ hw => Option.some.inj hw ▸ encT_bit63 _ h z
theorem Laws.WordKind.nemit (h : Hd) (z : TF) : Laws.WordKind.Statement (.nemit h z) := fun _ hw => Option.some.inj hw ▸ encT_bit63 _ h z
theorem Laws.WordKind.ninfo (h : Hd) (z : TF) : Laws.WordKind.Statement (.ninfo h z) := fun _ hw => Option.some.inj hw ▸ encT_bit63 _ h z
theorem Laws.WordKind.launch (h : Hd) (z : TF) : Laws.WordKind.Statement (.launch h z) := fun _ hw => Option.some.inj hw ▸ encT_bit63 _ h z
theorem Laws.WordKind.lwait (h : Hd) (z : TF) : Laws.WordKind.Statement (.lwait h z) := fun _ hw => Option.some.inj hw ▸ encT_bit63 _ h z
theorem Laws.WordKind.lpoll (h : Hd) (z : TF) : Laws.WordKind.Statement (.lpoll h z) := fun _ hw => Option.some.inj hw ▸ encT_bit63 _ h z
theorem Laws.WordKind.vswitch (h : Hd) (z : TF) : Laws.WordKind.Statement (.vswitch h z) := fun _ hw => Option.some.inj hw ▸ encT_bit63 _ h z
theorem Laws.WordKind.role (h : Hd) (z : TF) : Laws.WordKind.Statement (.role h z) := fun _ hw => Option.some.inj hw ▸ encT_bit63 _ h z
theorem Laws.WordKind.psmp (h : Hd) (z : TF) : Laws.WordKind.Statement (.psmp h z) := fun _ hw => Option.some.inj hw ▸ encT_bit63 _ h z
theorem Laws.WordKind.psmpl (h : Hd) (z : TF) : Laws.WordKind.Statement (.psmpl h z) := fun _ hw => Option.some.inj hw ▸ encT_bit63 _ h z
theorem Laws.WordKind.pups (h : Hd) (z : TF) : Laws.WordKind.Statement (.pups h z) := fun _ hw => Option.some.inj hw ▸ encT_bit63 _ h z
theorem Laws.WordKind.pqry (h : Hd) (z : TF) : Laws.WordKind.Statement (.pqry h z) := fun _ hw => Option.some.inj hw ▸ encT_bit63 _ h z
theorem Laws.WordKind.facc (h : Hd) (z : TF) : Laws.WordKind.Statement (.facc h z) := fun _ hw => Option.some.inj hw ▸ encT_bit63 _ h z
theorem Laws.WordKind.fres (h : Hd) (z : TF) : Laws.WordKind.Statement (.fres h z) := fun _ hw => Option.some.inj hw ▸ encT_bit63 _ h z
theorem Laws.WordKind.fclr (h : Hd) (z : TF) : Laws.WordKind.Statement (.fclr h z) := fun _ hw => Option.some.inj hw ▸ encT_bit63 _ h z
theorem Laws.WordKind.time (h : Hd) (z : TF) : Laws.WordKind.Statement (.time h z) := fun _ hw => Option.some.inj hw ▸ encT_bit63 _ h z
theorem Laws.WordKind.trigarm (h : Hd) (z : TF) : Laws.WordKind.Statement (.trigarm h z) := fun _ hw => Option.some.inj hw ▸ encT_bit63 _ h z
theorem Laws.WordKind.trigq (h : Hd) (z : TF) : Laws.WordKind.Statement (.trigq h z) := fun _ hw => Option.some.inj hw ▸ encT_bit63 _ h z
theorem Laws.WordKind.rpkt (h : Hd) (z : TF) : Laws.WordKind.Statement (.rpkt h z) := fun _ hw => Option.some.inj hw ▸ encT_bit63 _ h z
theorem Laws.WordKind.rrecv (h : Hd) (z : TF) : Laws.WordKind.Statement (.rrecv h z) := fun _ hw => Option.some.inj hw ▸ encT_bit63 _ h z
theorem Laws.WordKind.rbcast (h : Hd) (z : TF) : Laws.WordKind.Statement (.rbcast h z) := fun _ hw => Option.some.inj hw ▸ encT_bit63 _ h z
theorem Laws.WordKind.rstat (h : Hd) (z : TF) : Laws.WordKind.Statement (.rstat h z) := fun _ hw => Option.some.inj hw ▸ encT_bit63 _ h z
theorem Laws.WordKind.trap (h : Hd) (z : YF) : Laws.WordKind.Statement (.trap h z) := fun _ hw => Option.some.inj hw ▸ encY_bit63 _ h z
theorem Laws.WordKind.tret (h : Hd) (z : YF) : Laws.WordKind.Statement (.tret h z) := fun _ hw => Option.some.inj hw ▸ encY_bit63 _ h z
theorem Laws.WordKind.rdsys (h : Hd) (z : YF) : Laws.WordKind.Statement (.rdsys h z) := fun _ hw => Option.some.inj hw ▸ encY_bit63 _ h z
theorem Laws.WordKind.wrsys (h : Hd) (z : YF) : Laws.WordKind.Statement (.wrsys h z) := fun _ hw => Option.some.inj hw ▸ encY_bit63 _ h z
theorem Laws.WordKind.halt (h : Hd) (z : YF) : Laws.WordKind.Statement (.halt h z) := fun _ hw => Option.some.inj hw ▸ encY_bit63 _ h z
theorem Laws.WordKind.tlbinv (h : Hd) (z : YF) : Laws.WordKind.Statement (.tlbinv h z) := fun _ hw => Option.some.inj hw ▸ encY_bit63 _ h z
theorem Laws.WordKind.cflush (h : Hd) (z : YF) : Laws.WordKind.Statement (.cflush h z) := fun _ hw => Option.some.inj hw ▸ encY_bit63 _ h z
theorem Laws.WordKind.cinv (h : Hd) (z : YF) : Laws.WordKind.Statement (.cinv h z) := fun _ hw => Option.some.inj hw ▸ encY_bit63 _ h z
theorem Laws.WordKind.clk (h : Hd) (z : YF) : Laws.WordKind.Statement (.clk h z) := fun _ hw => Option.some.inj hw ▸ encY_bit63 _ h z
theorem Laws.WordKind.meshid (h : Hd) (z : YF) : Laws.WordKind.Statement (.meshid h z) := fun _ hw => Option.some.inj hw ▸ encY_bit63 _ h z
theorem Laws.WordKind.pmark (h : Hd) (z : YF) : Laws.WordKind.Statement (.pmark h z) := fun _ hw => Option.some.inj hw ▸ encY_bit63 _ h z
theorem Laws.WordKind.pairedWord (x y : Half) : Laws.WordKind.Statement (.pairedWord x y) := by
  intro w hw; cases hw
  repeat (refine (BitVec.getLsbD_append ..).trans ?_; rw [if_neg (by decide)])
  rfl
theorem Laws.WordKind.unallocatedOpcode (w : BitVec 63) : Laws.WordKind.Statement (.unallocatedOpcode w) := by
  intro w hw; cases hw
  repeat (refine (BitVec.getLsbD_append ..).trans ?_; rw [if_neg (by decide)])
  rfl
theorem Laws.WordKind.clauseStart : Laws.WordKind.Statement .clauseStart := Laws.WordKind.of_none rfl
theorem Laws.WordKind.forcedSwitch : Laws.WordKind.Statement .forcedSwitch := Laws.WordKind.of_none rfl
theorem Laws.WordKind.overdueBeam : Laws.WordKind.Statement .overdueBeam := Laws.WordKind.of_none rfl
theorem Laws.WordKind.handlerEntry : Laws.WordKind.Statement .handlerEntry := Laws.WordKind.of_none rfl
theorem Laws.WordKind.counterFall : Laws.WordKind.Statement .counterFall := Laws.WordKind.of_none rfl
theorem Laws.WordKind.beamWake : Laws.WordKind.Statement .beamWake := Laws.WordKind.of_none rfl
theorem Laws.WordKind.hostPush : Laws.WordKind.Statement .hostPush := Laws.WordKind.of_none rfl
theorem Laws.WordKind.dispatcherTake : Laws.WordKind.Statement .dispatcherTake := Laws.WordKind.of_none rfl
theorem Laws.WordKind.reservationHold : Laws.WordKind.Statement .reservationHold := Laws.WordKind.of_none rfl
theorem Laws.WordKind.reservationBackoff : Laws.WordKind.Statement .reservationBackoff := Laws.WordKind.of_none rfl
theorem Laws.WordKind.launchCompletionRecord : Laws.WordKind.Statement .launchCompletionRecord := Laws.WordKind.of_none rfl
theorem Laws.WordKind.swreqSet : Laws.WordKind.Statement .swreqSet := Laws.WordKind.of_none rfl
theorem Laws.WordKind.detApplication : Laws.WordKind.Statement .detApplication := Laws.WordKind.of_none rfl
theorem Laws.WordKind.spawnGatherTimer : Laws.WordKind.Statement .spawnGatherTimer := Laws.WordKind.of_none rfl
theorem Laws.WordKind.spawnGroupPlace : Laws.WordKind.Statement .spawnGroupPlace := Laws.WordKind.of_none rfl
theorem Laws.WordKind.parkReload : Laws.WordKind.Statement .parkReload := Laws.WordKind.of_none rfl
theorem Laws.WordKind.spillRefill : Laws.WordKind.Statement .spillRefill := Laws.WordKind.of_none rfl
theorem Laws.WordKind.binFireTimer : Laws.WordKind.Statement .binFireTimer := Laws.WordKind.of_none rfl
theorem Laws.WordKind.binLaunch : Laws.WordKind.Statement .binLaunch := Laws.WordKind.of_none rfl
theorem Laws.WordKind.queueArm : Laws.WordKind.Statement .queueArm := Laws.WordKind.of_none rfl
theorem Laws.WordKind.preemptRequest : Laws.WordKind.Statement .preemptRequest := Laws.WordKind.of_none rfl
theorem Laws.WordKind.preemptSuspend : Laws.WordKind.Statement .preemptSuspend := Laws.WordKind.of_none rfl
theorem Laws.WordKind.preemptResume : Laws.WordKind.Statement .preemptResume := Laws.WordKind.of_none rfl
theorem Laws.WordKind.gangSave : Laws.WordKind.Statement .gangSave := Laws.WordKind.of_none rfl
theorem Laws.WordKind.gangResume : Laws.WordKind.Statement .gangResume := Laws.WordKind.of_none rfl
theorem Laws.WordKind.faultResumeRetry : Laws.WordKind.Statement .faultResumeRetry := Laws.WordKind.of_none rfl
theorem Laws.WordKind.faultResumeAbort : Laws.WordKind.Statement .faultResumeAbort := Laws.WordKind.of_none rfl
theorem Laws.WordKind.faultResumeContinue : Laws.WordKind.Statement .faultResumeContinue := Laws.WordKind.of_none rfl
theorem Laws.WordKind.eventBufferDrain : Laws.WordKind.Statement .eventBufferDrain := Laws.WordKind.of_none rfl
theorem Laws.WordKind.launchLevelTrap : Laws.WordKind.Statement .launchLevelTrap := Laws.WordKind.of_none rfl
theorem Laws.WordKind.mirrorTurn : Laws.WordKind.Statement .mirrorTurn := Laws.WordKind.of_none rfl
theorem Laws.WordKind.copyCommandStart : Laws.WordKind.Statement .copyCommandStart := Laws.WordKind.of_none rfl
theorem Laws.WordKind.copyWpAdvance : Laws.WordKind.Statement .copyWpAdvance := Laws.WordKind.of_none rfl
theorem Laws.WordKind.copyCommandEnd : Laws.WordKind.Statement .copyCommandEnd := Laws.WordKind.of_none rfl
theorem Laws.WordKind.copyFaultStall : Laws.WordKind.Statement .copyFaultStall := Laws.WordKind.of_none rfl
theorem Laws.WordKind.routerPacketArrival : Laws.WordKind.Statement .routerPacketArrival := Laws.WordKind.of_none rfl
theorem Laws.WordKind.collectiveTimeout : Laws.WordKind.Statement .collectiveTimeout := Laws.WordKind.of_none rfl
theorem Laws.WordKind.expiryNotice : Laws.WordKind.Statement .expiryNotice := Laws.WordKind.of_none rfl
theorem Laws.WordKind.timeTick : Laws.WordKind.Statement .timeTick := Laws.WordKind.of_none rfl
theorem Laws.WordKind.ppsEdge : Laws.WordKind.Statement .ppsEdge := Laws.WordKind.of_none rfl
theorem Laws.WordKind.timeStep : Laws.WordKind.Statement .timeStep := Laws.WordKind.of_none rfl
theorem Laws.WordKind.triggerFire : Laws.WordKind.Statement .triggerFire := Laws.WordKind.of_none rfl
theorem Laws.WordKind.pinPulseEnd : Laws.WordKind.Statement .pinPulseEnd := Laws.WordKind.of_none rfl
theorem Laws.WordKind.packetRd : Laws.WordKind.Statement .packetRd := Laws.WordKind.of_none rfl
theorem Laws.WordKind.packetWr : Laws.WordKind.Statement .packetWr := Laws.WordKind.of_none rfl
theorem Laws.WordKind.packetAtom : Laws.WordKind.Statement .packetAtom := Laws.WordKind.of_none rfl
theorem Laws.WordKind.packetQcmd : Laws.WordKind.Statement .packetQcmd := Laws.WordKind.of_none rfl
theorem Laws.WordKind.packetCtl : Laws.WordKind.Statement .packetCtl := Laws.WordKind.of_none rfl
theorem Laws.WordKind.packetRsp : Laws.WordKind.Statement .packetRsp := Laws.WordKind.of_none rfl
theorem Laws.WordKind.linkRetrain : Laws.WordKind.Statement .linkRetrain := Laws.WordKind.of_none rfl
theorem Laws.WordKind.scrub : Laws.WordKind.Statement .scrub := Laws.WordKind.of_none rfl
theorem Laws.WordKind.hotWindowEnd : Laws.WordKind.Statement .hotWindowEnd := Laws.WordKind.of_none rfl
theorem Laws.WordKind.stackHotSet : Laws.WordKind.Statement .stackHotSet := Laws.WordKind.of_none rfl
theorem Laws.WordKind.stackHotClear : Laws.WordKind.Statement .stackHotClear := Laws.WordKind.of_none rfl
theorem Laws.WordKind.ualinkInbound : Laws.WordKind.Statement .ualinkInbound := Laws.WordKind.of_none rfl
theorem Laws.WordKind.ualinkTimeout : Laws.WordKind.Statement .ualinkTimeout := Laws.WordKind.of_none rfl
theorem Laws.WordKind.vetikTimeout : Laws.WordKind.Statement .vetikTimeout := Laws.WordKind.of_none rfl
theorem Laws.WordKind.vetikRetrain : Laws.WordKind.Statement .vetikRetrain := Laws.WordKind.of_none rfl
theorem Laws.WordKind.registerWrite : Laws.WordKind.Statement .registerWrite := Laws.WordKind.of_none rfl
theorem Laws.WordKind.coreSplitWrite : Laws.WordKind.Statement .coreSplitWrite := Laws.WordKind.of_none rfl
theorem Laws.WordKind.stackSplitWrite : Laws.WordKind.Statement .stackSplitWrite := Laws.WordKind.of_none rfl
theorem Laws.WordKind.enabWrite : Laws.WordKind.Statement .enabWrite := Laws.WordKind.of_none rfl
theorem Laws.WordKind.counterClear : Laws.WordKind.Statement .counterClear := Laws.WordKind.of_none rfl
theorem Laws.WordKind.powerOn : Laws.WordKind.Statement .powerOn := Laws.WordKind.of_none rfl
theorem Laws.WordKind.warm : Laws.WordKind.Statement .warm := Laws.WordKind.of_none rfl
theorem Laws.WordKind.go : Laws.WordKind.Statement .go := Laws.WordKind.of_none rfl
theorem Laws.WordKind.trip : Laws.WordKind.Statement .trip := Laws.WordKind.of_none rfl
theorem Laws.WordKind.throt : Laws.WordKind.Statement .throt := Laws.WordKind.of_none rfl
theorem Laws.WordKind.idleEntry : Laws.WordKind.Statement .idleEntry := Laws.WordKind.of_none rfl
theorem Laws.WordKind.idleWake : Laws.WordKind.Statement .idleWake := Laws.WordKind.of_none rfl
theorem Laws.WordKind.coreRetire : Laws.WordKind.Statement .coreRetire := Laws.WordKind.of_none rfl
theorem Laws.WordKind.unitFailed : Laws.WordKind.Statement .unitFailed := Laws.WordKind.of_none rfl
theorem Laws.WordKind.sliceFailed : Laws.WordKind.Statement .sliceFailed := Laws.WordKind.of_none rfl
theorem Laws.WordKind.instructionLineFill : Laws.WordKind.Statement .instructionLineFill := Laws.WordKind.of_none rfl
theorem Laws.WordKind.ualinkPortRetrain : Laws.WordKind.Statement .ualinkPortRetrain := Laws.WordKind.of_none rfl
theorem Laws.WordKind.hostMemoryAccess : Laws.WordKind.Statement .hostMemoryAccess := Laws.WordKind.of_none rfl

end Sys2Proof
end

