-- ==== Sys2Proof/Tests/Slice0.lean ====
section
/-! SUPPORT. Tests: ill-formed terms that the check refuses, words the manual prints, single steps on small
states, and for every statement with hypotheses states that meet them. -/

namespace Sys2Proof.Tests

set_option Elab.async false

open Sys2Proof.Machine

/-! ### States the tests stand on -/

/-- The page tables of context 0: it maps the first GiB to itself (R268 to R270), the second to itself with DET. -/
def tables : Mem := ((Mem.write {} {} 0x10000 (bytesOfNat 8 0x11001)).write {} 0x11000 (bytesOfNat 8 0x0F)).write {} 0x11008 (bytesOfNat 8 0x4000001F)

/-- A surface record (R263) of FP32 texels at 0x21000: its width, height and depth. -/
def surface (w h d : Nat) : List Byte :=
  bytesOfNat 8 0x21000 ++ bytesOfNat 8 0 ++ bytesOfNat 4 w ++ bytesOfNat 4 h ++ bytesOfNat 2 d ++ bytesOfNat 2 0 ++ bytesOfNat 4 64
    ++ bytesOfNat 8 (64 * h) ++ bytesOfNat 4 0x43BE0000 ++ bytesOfNat 4 0x41200000 ++ bytesOfNat 2 0 ++ bytesOfNat 1 1

/-- The scratchpad of the workgroup on core 0: a copy descriptor (R321) at offset 64, a barrier object of four
arrivals and scope 1 (R314) at offset 256. -/
def scratch : NMap Byte :=
  setBs (setBs [] 64 (bytesOfNat 8 0x40000 ++ bytesOfNat 8 0x1000 ++ bytesOfNat 4 64 ++ bytesOfNat 1 0 ++ bytesOfNat 1 1))
    256 (bytesOfNat 16 (4 + 2 ^ 36 + 2 ^ 39))

/-- The k registers: k2 and k3 the address of a surface record, k4 the offset of the copy descriptor, k6 that of a
counter of zero, k7, k9 and k13 counts, k12 the range of a codebook load (R212), k14 and k15 the coefficient table,
k18 a block of R380 that arms a trigger, k24 a collective for all (R383), k30 a token, k44 the launch record; the others are zero. -/
def ks : Vector W32 64 :=
  [(2, 0x20000#32), (4, 64#32), (6, 512#32), (7, 5#32), (9, 1#32), (12, 0x200#32), (13, 2#32), (14, 0x20100#32),
   (18, 0x102#32), (24, 0x400000#32), (30, 15#32), (44, 0x24000#32)].foldl (fun v p => v.setIfInBounds p.1 p.2) (Vector.replicate 64 0)

/-- Thread t: s2 and s3 its own word in memory, s4 its own offset in the scratchpad, s6 to s9 numbers, v0 to v7 FP32
elements. -/
def thread (t : Nat) : Thread :=
  let ss : List (Nat × W32) := [(2, BitVec.ofNat 32 (0x30000 + 128 * t)), (4, BitVec.ofNat 32 (64 * t)), (6, BitVec.ofNat 32 (t + 2)),
    (7, 0x3F800000#32), (8, 0x40400000#32), (10, BitVec.ofNat 32 (0x40000000 + 128 * t)), (12, 0xFFFFFFF6#32), (14, 5#32)]
  { ident := t, wg := 1, p := 0x01,
    s := ss.foldl (fun v p => v.setIfInBounds p.1 p.2) (Vector.replicate 64 0),
    v := (List.range 8).foldl (fun v n => v.setIfInBounds n
      (BitVec.ofNat 256 (ofElems 32 [0x3F800000, 0x40000000, 0xC0400000, 0x40800000, 0, 0x3F000000, 0x42C80000, 0x3E800000]))) (Vector.replicate 64 0) }

/-- A device whose repair maps spare nothing (R476). -/
def rest : State := ((List.range 18).foldl (fun s i => s.setReg (0x510 + i) 0) State.reset)

/-- A beam of eight threads that issues, in a launch of its own, with every feature on and its context mapped. -/
def base : State :=
  let s := rest.installWord 0
  let s := [(0x504, 0xFFFFFFFF#32), (0x505, 0xFFFFFFFF#32), (0x506, 0xFFFFFFFF#32), (0x507, 0xFFFFFFFF#32), (0x320, 1#32)].foldl
    (fun s r => s.setReg r.1 r.2) s
  let s := (s.setCtxReg 0 0x106 0x10000#32).setCtxReg 0 0x103 0x11#32
  let s := { s with mem := { tables with scratch := scratch }, threads := (List.range 8).map fun t => (t, thread t) }
  let s := s.modCb fun b => { b with k := ks }
  let s := { s with queues := [(7, { type := 1, ring := 0x50000, lcap := 4 })] }
  let obj : CodeObj :=
    { spawns := List.replicate 4 { pc := 0, nv := 16, ns := 16, beams := 1, pay := 2, spad := 0 }, nodes := [{ entry := 0, size := 1, count := 4, timer := 0 }],
      swmask := 9, codesz := 0x10000, cstoff := 0x2000, cstsz := 0x1000 }
  s.modLaunch 1 fun l => { l with obj := obj, lrec := { l.lrec with dmax := 4, quota := 4, fs := [{ efmt := 0 }, { efmt := 13 }] } }

/-- A state whose core holds the translation of the first GiB in a TLB (R404). -/
def cached (s : State) : State := { s with mem := { s.mem with tlb := [{ ctx := 0, vpn := 0, size := 30, pte := 0x0F }] } }
/-- The base state with surface records at 0x20000 and 0x20100. -/
def shown : State := cached { base with mem := ((base.mem.write {} 0x20000 (surface 8 4 1)).write {} 0x20100 (surface 6 2 6)).write {} 0x21000 (bytesOfNat 4 0x3F800000) }

/-- A word decodes, its table gives it a row, and it completes. -/
def completes (f : State → Instr → Option Done) (s : State) (w : W64) : Bool :=
  match decode w with
  | .ok i => s.issuing && (f s i).any (·.ok)
  | .error _ => false
/-- The same for a word of the lanes. -/
def runs (f : State → Instr → Option LaneWord) (s : State) (w : W64) : Bool :=
  match decode w with
  | .ok i => (f s i).any s.canRun
  | .error _ => false


/-! ### Every word completes somewhere: witnesses of the completion statements

One word of each instruction of a table; the manual's printed word where it prints one. -/

/-- IADD, IABS, IADD.i, IMAD, IMAX, IMIN, IMUL, IMUL.i, IMULH, INEG, ISUB. -/
theorem witness_arithRow : ([0x1138181840028030, 0x1738000000024000, 0x2138000000000000, 0x13B8000000024000, 0x16B8000000024000,
 0x1638000000040000, 0x12B8000000040000, 0x21B8000000000000, 0x1338000000024000, 0x17B8000000028000,
 0x11B8000000040000] : List W64).all
    (runs State.arithRow base) = true := by decide +kernel

/-- AND, AND.i, BREV, CLZ, IADDC, ISET, ISET.i, NOT, OR, OR.i, POPC, ROT, SHL, SHL.i, SHR, SHR.i, SRA, SRA.i, XOR, XOR.i. -/
theorem witness_bitRow : ([0x1838100000040000, 0x2238100000000000, 0x1D38000000040000, 0x1C38000000024000, 0x1238000000040000,
 0x1F38000000028000, 0x2538000000000000, 0x19B8000000024000, 0x18B8000100040000, 0x22B8000000000004,
 0x1CB8000000040000, 0x1BB8000000028000, 0x1A38000000024000, 0x23B8000000000000, 0x1AB8000000028000,
 0x2438000000000000, 0x1B38000000028000, 0x24B8000000000000, 0x1938000000040000, 0x2338000000040000] : List W64).all
    (runs State.bitRow base) = true := by decide +kernel

/-- PACK4, UNPACK4, CBX, CVT, CVTSENC, PACK6, QNT, SCLQDEC, SCLQENC, TAGRD, TAGSET, UNPACK6, CVTSDEC. -/
theorem witness_convertRow : ([0x4138000040000021, 0x41B8000000000021, 0x4438000000000200, 0x4038000000000000, 0x40B8000000000020,
 0x4138000000000020, 0x44B8000000000020, 0x4538000000000001, 0x4538000000000000, 0x42B8000000000000,
 0x4238000000000000, 0x41B8000000000020, 0x40B8000000000028] : List W64).all
    (runs State.convertRow base) = true := by decide +kernel

/-- FMAX, FABS, FADD, FADD.i, FCLAMP, FCMP, FCOS, FDIV, FEXP2, FFMA, FFMS, FFNM, FLOG2, FMIN, FMUL, FMUL.i, FNEG, FRCP, FRSQ, FSIGN, FSIN, FSQRT, FSUB, RNGDRAW. -/
theorem witness_floatRow : ([0x2BD04838A0000020, 0x2C38000000000000, 0x2838000000000000, 0x3AB8000000000000, 0x2DB8000000000000,
 0x2D38000000000000, 0x31B8000000000000, 0x2FB8000000000000, 0x3038000000000000, 0x29B8000000000000,
 0x2A38000000000000, 0x2AB8000000000000, 0x30B8000000000000, 0x2B38000000000000, 0x2938000000000000,
 0x3B38000000000000, 0x2CB8000000000000, 0x2E38000000000000, 0x2EB8000000000000, 0x3A38000000000000,
 0x3138000000000000, 0x2F38000000000000, 0x28B8000000000000, 0x37B8000000000000] : List W64).all
    (runs State.floatRow base) = true := by decide +kernel

/-- VSLIDE, VBCAST, VDOT, VEXT, VHERO, VHSUM, VINS, VPERM, VSHFL. -/
theorem witness_packetRow : ([0x35384088E004C029, 0x3338000000000000, 0x3238000000000000, 0x33B8000000000000, 0x3638000000000000,
 0x32B8000000000000, 0x3438000000000000, 0x34B8000000000000, 0x35B8002000050000] : List W64).all
    (runs State.packetRow base) = true := by decide +kernel

/-- IDP2, BFI, BFX, IDIV, INARROW, IREM, MOV, MOVI, SEL. -/
theorem witness_specialRow : ([0x2038106300828020, 0x1E38000000040000, 0x1DB8000000040000, 0x1538000000040000, 0x20B8000000028000,
 0x15B8000000040000, 0x1038100000048000, 0x10B8000000000004, 0x1EB8100000040000] : List W64).all
    (runs State.specialRow base) = true := by decide +kernel

/-- ATOM, RED. -/
theorem witness_atomRow : ([0x5938000800000000, 0x5A38000800000000] : List W64).all
    (completes State.atomRow base) = true := by decide +kernel

/-- ATOMF, REDF. -/
theorem witness_atomfRow : ([0x59B8000000000000, 0x5AB8000000000000] : List W64).all
    (completes State.atomfRow base) = true := by decide +kernel

/-- CBLD. -/
theorem witness_bankRow : ([0x433804A984800003] : List W64).all
    (completes State.bankRow base) = true := by decide +kernel

/-- BARARR, BARINIT, BARWAIT, BARQRY. -/
theorem witness_barrierRow : ([0x5CBAAFE081CD0100, 0x5C38044080470100, 0x5D3807E0805E0100, 0x5DB8000100000000] : List W64).all
    (completes State.barrierRow base) = true := by decide +kernel

/-- CAS, CAS2. -/
theorem witness_casRow : ([0x5B38000A00000000, 0x5BB8000B00000000] : List W64).all
    (completes State.casRow base) = true := by decide +kernel

/-- RPKT, RRECV, RSTAT, RBCAST. -/
theorem witness_collRow : ([0x7238004949200000, 0x7238004A80200000, 0x72B8300A80000000, 0x73BB000B00000000, 0x7338400B00000000] : List W64).all
    (completes State.collRow base) = true := by decide +kernel

/-- NOP, BR, RECONV, YIELD, WAITF, BRM, BRU, BRW, CALL, CALLI, JMP, JMPI, LOOP, LOOPK, RET. -/
theorem witness_controlRow : ([0x00B8000000000000, 0x0108000014000400, 0x05B8000018000000, 0x06B8000000000000, 0x0738003FFC000000,
 0x0238000000000000, 0x01B8000000000000, 0x02B8000000000000, 0x0438000002040000, 0x04B8000002040000,
 0x0338000000000000, 0x03B8000002000000, 0x0638000000000000, 0x0638000002000001, 0x0538000002000000] : List W64).all
    (completes State.controlRow base) = true := by decide +kernel

/-- CPY, CPYCAN, CPYST, CPYWAIT, CPYWP. -/
theorem witness_copyRow : ([0x603A4C4008A00002, 0x61B8049000000002, 0x623A000000000000, 0x613A040000000000, 0x60BA000000000000] : List W64).all
    (completes State.copyRow base) = true := by decide +kernel

/-- EXIT. -/
theorem witness_exitRow : ([0x64B8000000000000, 0x64B8000000000001] : List W64).all
    (completes State.exitRow base) = true := by decide +kernel

/-- FENCE, DETDRAIN, LOGMARK. -/
theorem witness_fenceRow : ([0x5838000036000000, 0x58B8000000000000, 0x5E38047000000000] : List W64).all
    (completes State.fenceRow base) = true := by decide +kernel

/-- FACC, FCLR, FRES. -/
theorem witness_filmRow : ([0x6E3800604020000A, 0x6F380001C000000A, 0x6EB8000000000000] : List W64).all
    (completes State.filmRow base) = true := by decide +kernel

/-- LD, LDS, PREF, LDC, LDG, LDK. -/
theorem witness_loadRow : ([0x503C302A12000040, 0x5138084A00000040, 0x55B8002000000000, 0x5438484A00000000, 0x5238000000000000,
 0x5338000000000000] : List W64).all
    (completes State.loadRow base) = true := by decide +kernel

/-- MDRAIN. -/
theorem witness_mdrainRow : ([0x4B38004B0402E007] : List W64).all
    (completes State.mdrainRow base) = true := by decide +kernel

/-- MMA, MMAT. -/
theorem witness_multiplyRow : ([0x4838488860080000, 0x4838008AC09C0088, 0x48B80000000C0004] : List W64).all
    (completes State.multiplyRow base) = true := by decide +kernel

/-- LDP6, STP6. -/
theorem witness_packedRow : ([0x54B8000280000000, 0x5538000280000000] : List W64).all
    (completes State.packedRow base) = true := by decide +kernel

/-- ACTMASK, ELECT, PAND, PMOV, POR, PSET, PXOR, VOTE, PNOT. -/
theorem witness_predRow : ([0x0C38000000000000, 0x0BBA200000000001, 0x08B8000000000001, 0x0AB8040000000000, 0x0938100000000000,
 0x083A040880000001, 0x09B8000040000002, 0x0B38040000000000, 0x0A38000000000000] : List W64).all
    (completes State.predRow base) = true := by decide +kernel

/-- PAIREDWORD, POLMM, POLMV. -/
theorem witness_productRow : ([0x822021704838A0F0, 0x3738000000000000, 0x36B8000000000000] : List W64).all
    (completes State.productRow base) = true := by decide +kernel

/-- QPUSH, QPOP, QQRY. -/
theorem witness_queueRow : ([0x663C18A000200007, 0x66B8000000000000, 0x6738000000000000] : List W64).all
    (completes State.queueRow base) = true := by decide +kernel

/-- ROLE, RDSYS, CBSYNC, RNGSET, FXCLR, WRSYS, CLK, IADD64, IMUL64, LEA, LEA.i, MESHID, PMARK, RNGSKIP, SPINFO, FXRD. -/
theorem witness_registerRow : ([0x6ABA280000000000, 0x753A280030000000, 0x43B8000000000000, 0x383BC42880000000, 0x39B800000000003F,
 0x75B8049000000000, 0x7838100000000000, 0x14B8004000040000, 0x1438100000040000, 0x1FB8100000040000,
 0x25B8000000000800, 0x78B8000000000000, 0x7938000000000000, 0x38BA240000000000, 0x5638000000000000,
 0x3938000000000000] : List W64).all
    (completes State.registerRow base) = true := by decide +kernel

/-- PSMP, PUPS, PQRY, PSMPL. -/
theorem witness_sampleRow : ([0x6C38400080000042, 0x6D3840008000004E, 0x6DB8480000000042, 0x6CB8400080000042] : List W64).all
    (completes State.sampleRow shown) = true := by decide +kernel

/-- SPAWN, NEMIT, NINFO. -/
theorem witness_spawnRow : ([0x643C0088C0200063, 0x6448000B40200020, 0x6408000B40200021, 0x67B8000000000000, 0x6838000000000000] : List W64).all
    (completes State.spawnRow base) = true := by decide +kernel

/-- ST, STG, STK, STS. -/
theorem witness_storeRow : ([0x50B8000000000000, 0x52B8000000010000, 0x53B8100000000000, 0x51B8004000000000] : List W64).all
    (completes State.storeRow base) = true := by decide +kernel

/-- TLBINV, CINV, CFLUSH, HALT, TRAP. -/
theorem witness_systemRow : ([0x76B8000000000001, 0x77B804A000000000, 0x7738000000000001, 0x7638000000000000, 0x7438000000000000] : List W64).all
    (completes State.systemRow base) = true := by decide +kernel

/-- MREL, MLOAD, MRD, MSTAT, MWR, MZERO. -/
theorem witness_tileRow : ([0x4BB8000000000000, 0x49B8000000000000, 0x4A38000000000000, 0x4C38000000000000, 0x4AB8000000000000,
 0x4938000000000000] : List W64).all
    (completes State.tileRow base) = true := by decide +kernel

/-- TRIGARM, TIME, TRIGQ. -/
theorem witness_timeRow : ([0x703A154980000005, 0x6FB8000000000000, 0x70B8000000000000] : List W64).all
    (completes State.timeRow base) = true := by decide +kernel

/-- VSWITCH, JWAIT, LAUNCH, LWAIT, AWAIT, LPOLL. -/
theorem witness_waitRow : ([0x6A38000000000003, 0x6A38000000000000, 0x6538046000000001, 0x653805A000000000, 0x68BFC6C009A00003,
 0x693A2F6000000000, 0x65B8044920002000, 0x69BA040000000000] : List W64).all
    (completes State.waitRow base) = true := by decide +kernel

/-- A beam in a handler that a divide trap entered with TRAP_BASE at 0x60000. -/
def handling : State :=
  ((base.setCtxReg 0 0x100 0x60000#32).modWg 1 fun g => { g with region := true }).takeTrap 0 { code := 0x0B, mask := 4 } 0x400 1
/-- TRET, and a word of an unallocated opcode. -/
theorem witness_systemRow_rest : completes State.systemRow handling 0x74B8000000000001 = true
    ∧ completes State.systemRow base 0x7F80000000000000 = true := by decide +kernel

/-! ### Every step of the machine happens somewhere -/

/-- An event in a state and with what it brings. -/
structure Ev where
  i : Instr
  s : State
  a : EvArg := {}
/-- The step is enabled. -/
def Ev.ok (e : Ev) (f : State → Instr → Option Done) : Bool := (f (e.s.given { instr := e.i, arg := e.a }) e.i).any (·.ok)

/-- The first beam ready on its lane. -/
def ready : State := base.modBeam 0 fun b => { b with st := .ready, mid := true, buf := [oneWordHeader, 0] }
/-- A second beam ready on the same lane, which other beams' clauses have passed so many times. -/
def two (row passed : Nat) : State :=
  { ready with beams := put ready.beams 1 { ready.beam 0 with uid := 2, b := 1, passed := passed, list := [] } }.modCore 0 fun c =>
    { c with lanes := [(0, { cur := some (ready.beam 0).uid, row := row })] }
def wait (st : BeamSt) (w : Wait) : State := base.modBeam 0 fun b => { b with st := st, wait := w }
def anOp (c : OpCond) : Op := { id := 3, beam := 0, uid := 1, ctr := some 0, cond := c }

def stepEvents : List Ev :=
  [⟨.clauseStart, ready, {}⟩, ⟨.forcedSwitch, two 64 0, {}⟩, ⟨.overdueBeam, two 0 64, {}⟩,
   ⟨.handlerEntry, base.modBeam 0 fun b => { b with st := .waiting, pend := some { code := 5 } }, {}⟩,
   ⟨.counterFall, { base with ops := [anOp .now] }, { a := 3 }⟩, ⟨.beamWake, wait .waiting .zero, {}⟩,
   ⟨.beamWake, wait .parked .met, {}⟩, ⟨.mirrorTurn, wait .waiting (.mirror [(1, 0, 0)]), {}⟩, ⟨.instructionLineFill, cached base, { c := 100 }⟩,
   ⟨.launchLevelTrap, base.modLaunch 1 fun l => { l with trapped := some 0x33 }, { a := 1 }⟩,
   ⟨.detApplication, base.modWg 1 fun g => { g with drains := [{ num := 1, release := false }] }, { a := 1 }⟩]

/-- A launch of one gang that a dispatcher places beside the first (R119, R126), with so many 4 KiB granules of
scratchpad. -/
def second (s : State) (st : LaunchSt) (spad : Nat) : State :=
  { s with launches := put s.launches 2 { st := st, obj := { variants := [{ nv := 16, ns := 16, beams := 1, spad := spad }] } } }
def item : SpawnItem := { launch := 1, gang := 1, wg := 1, e := 0, payload := [(7, 9)], join := none, num := 0, parent := 0, at_ := 0 }
def later (n : Nat) (s : State) : State := { s with sched := { s.sched with clk := n } }
def aBin (fired : Bool) : Bin := { node := 0, num := 3, slot := 0, recs := [], opened := 0, fired := fired, byTimer := false, order := 0 }
def variants (s : State) : State := s.modLaunch 1 fun l =>
  { l with obj := { l.obj with variants := [{ nv := 16, ns := 16, beams := 1, spad := 0 }, { nv := 64, ns := 64, beams := 1, spad := 16 }] } }

def dispatchEvents : List Ev :=
  [⟨.dispatcherTake, { cached base with queues := [(8, { type := 2, ring := 0x52000, lcap := 4 })] }.pushEntry 8 0 (bytesOfNat 64 0x24000), {}⟩,
   ⟨.dispatcherTake, second base .queued 1, {}⟩,
   ⟨.reservationHold, second base .placing 1, { a := 2 }⟩, ⟨.reservationBackoff, later 5 (base.modLaunch 1 fun l => { l with backoff := 2 }), { a := 1 }⟩,
   ⟨.launchCompletionRecord, base.modLaunch 1 fun l => { l with st := .ending }, { a := 1 }⟩,
   ⟨.swreqSet, (variants base).modWg 1 fun g => { g with variant := 1 }, { a := 1 }⟩,
   ⟨.spawnGatherTimer, later 300 (base.modCore 0 fun c => { c with spawnQ := [item] }), { b := 1 }⟩,
   ⟨.spawnGroupPlace, base.modCore 0 fun c => { c with groups := [{ launch := 1, gang := 1, e := 0, num := 0, items := [item] }] }, {}⟩,
   ⟨.spillRefill, { base with queues := [(0, { type := 3, lcap := 2, spill := [(0, item)] })] }, {}⟩,
   ⟨.parkReload, wait .evicted .met, {}⟩, ⟨.binFireTimer, base.modLaunch 1 fun l => { l with bins := [aBin false] }, { a := 1 }⟩,
   ⟨.binLaunch, (variants base).modLaunch 1 fun l => { l with bins := [aBin true] }, { a := 1 }⟩]

def gangs (st : GangSt) : State := ({ base with gangs := [(1, { launch := 1, st := st })] }.setCtxReg 0 0x10A 0x100000#32).modLaunch 1 fun l =>
  { l with lrec := { l.lrec with prio := 3 } }
def preemptEvents : List Ev :=
  [⟨.preemptSuspend, base, {}⟩, ⟨.preemptResume, (base.setReg 0x307 1#32).modLaunch 1 fun l => { l with suspended := true }, {}⟩,
   ⟨.gangResume, gangs .saved, { a := 1 }⟩]
/-- The two steps that weigh the images of the save pool. -/
def requested : State := (second (gangs .placed) .placing 80).given { instr := .preemptRequest, arg := { a := 2 } }
def saving : State := (gangs .halting).given { instr := .gangSave, arg := { a := 1 } }

def ticket (k : Nat) : State := { base with tickets := [(5, { kind := k, ctx := 0, launch := 1, addr := 0, who := 0, uid := 1 })] }
def hostEvents : List Ev :=
  [⟨.faultResumeRetry, ticket 1, { value := 5 }⟩, ⟨.faultResumeAbort, ticket 1, { value := 5 }⟩, ⟨.faultResumeContinue, ticket 2, { value := 5 }⟩,
   ⟨.eventBufferDrain, { base with evbuf := [(0, [List.replicate 64 1])] }.setCtxReg 0 0x10B 0x1007#32, {}⟩,
   ⟨.hostPush, base.setReg 0x301 1#32, { a := 0x4001C0, bytes := List.replicate 64 1 }⟩, ⟨.queueArm, base, { value := 3 }⟩,
   ⟨.ualinkTimeout, { base with ops := [anOp (.remote [{ peer := true, va := 0, mask := 1 }])] }, { b := 3 }⟩,
   ⟨.vetikTimeout, { base with ops := [anOp (.remote [{ peer := false, va := 0, mask := 1 }])] }, { a := 3 }⟩]

def command (src done : Nat) : CopyCmd :=
  { seq := 1, src := src, dst := 0x1000, len := 64, skind := 0, dkind := 1, slay := 0, dlay := 0, sofs := 0, wg := 1, gang := 1, launch := 1, ctx := 0,
    mask := 0xFF, done := done }
def channel (x : Chan) : State := base.modCore 0 fun c => { c with chans := [(0, { x with holder := some 1 })] }
def packet (k : PktKind) : State := { base with net := [(1, { launch := 1, id := 0, k0 := 0, k1 := 0, dst := 0, kind := k })] }
def unitEvents : List Ev :=
  [⟨.copyCommandStart, channel { queue := [command 0x40000 0] }, {}⟩, ⟨.copyWpAdvance, channel { running := some (command 0x40000 0) }, {}⟩,
   ⟨.copyCommandEnd, channel { running := some (command 0x40000 64) }, {}⟩, ⟨.copyFaultStall, channel { running := some (command 0x90000000 0) }, {}⟩,
   ⟨.routerPacketArrival, packet .flush, { a := 1 }⟩,
   ⟨.collectiveTimeout, later 200000 (base.modColl 0 1 0 0 fun c => { c with slot := true, start := some 0 }), { b := 1 }⟩,
   ⟨.expiryNotice, packet .notice, { a := 1 }⟩, ⟨.timeTick, base.modTime fun u => { u with run := true }, {}⟩,
   ⟨.ppsEdge, base.modTime fun u => { u with ppsen := true }, {}⟩, ⟨.timeStep, base, { value := 7 }⟩,
   ⟨.triggerFire, base.setTrig 3 { st := 1 }, { a := 3 }⟩, ⟨.pinPulseEnd, base.modTime fun u => { u with pulses := [(1, 0)] }, { a := 1 }⟩]

/-- A packet header of R451: kind, and an address of stack 0. -/
def header (kind opw addr : Nat) : BitVec 128 := BitVec.ofNat 128 (kind + 2 ^ 32 * opw + 2 ^ 64 * addr)
def stackEvents : List Ev :=
  [⟨.packetRd, base, { hdr := header 0 0 64 }⟩, ⟨.packetWr, base, { hdr := header 1 0 64, bytes := List.replicate 32 1, masks := [-1] }⟩,
   ⟨.packetAtom, base, { hdr := header 2 20 64, bytes := List.replicate 32 1 }⟩, ⟨.packetQcmd, base, { a := 7, hdr := header 3 0 0, cmd := some (.push 7 0 (List.replicate 64 1)) }⟩,
   ⟨.packetCtl, base.modLink 2 fun l => { l with req := { l.req with bad := some 3, asked := true } }, { a := 2, hdr := header 4 3 0 }⟩, ⟨.packetRsp, base.modLink 2 fun l => { l with rsps := [(5, 0, [])] }, { a := 2, b := 5 }⟩,
   ⟨.linkRetrain, base.modLink 2 fun l => { l with req := { l.req with bad := some 0, fails := 8, asked := true } }, { a := 2, b := 1, flag := true }⟩, ⟨.ualinkPortRetrain, base, { a := 1, b := 1 }⟩,
   ⟨.vetikRetrain, base, { a := 1, flag := true }⟩, ⟨.scrub, base, {}⟩, ⟨.hotWindowEnd, later 2100 (base.setReg 0x4A3 1#32), { a := 2 }⟩,
   ⟨.ualinkInbound, base, { b := 1, acc := some (.load 64 4) }⟩, ⟨.hostMemoryAccess, base, { acc := some (.store 64 [1, 2]) }⟩,
   ⟨.stackHotSet, base, { a := 1, b := 3, c := 95 }⟩, ⟨.stackHotClear, later 2100000 base, { a := 1 }⟩]

def serviceEvents : List Ev :=
  [⟨.registerWrite, rest, { a := 0x10400, value := 0x60000#32 }⟩, ⟨.registerWrite, rest, { a := 0x1420, value := 5#32 }⟩,
   ⟨.registerWrite, rest, { a := 0xC00, flag := true }⟩, ⟨.coreSplitWrite, rest, { a := 3, value := 4#32 }⟩, ⟨.stackSplitWrite, rest, { a := 2, value := 0x11#32 }⟩,
   ⟨.enabWrite, rest, { a := 1, value := 3#32 }⟩, ⟨.counterClear, rest, { a := 0x404 }⟩, ⟨.powerOn, rest.setReg 0x50B 1#32, {}⟩, ⟨.warm, rest, { value := 1#32 }⟩, ⟨.go, rest.setReg 0x540 0x1000#32, {}⟩,
   ⟨.trip, rest, {}⟩, ⟨.throt, rest, { flag := true }⟩, ⟨.idleEntry, rest.setReg 0x508 250#32, {}⟩, ⟨.idleWake, rest.setDepth 2, {}⟩, ⟨.coreRetire, rest.setDepth 2, { a := 5 }⟩,
   ⟨.unitFailed, base, { a := 0 }⟩, ⟨.sliceFailed, base, { a := 1, b := 4 }⟩]

/-! What a COUNTER_FALL completes (R34, R35), and the turns of a reservation (R127, R128). -/

/-- What an event leaves. -/
def Ev.leaves (e : Ev) (f : State → Instr → Option Done) : State := (f (e.s.given { instr := e.i, arg := e.a }) e.i).elim e.s (·.next)
/-- The completion of the operation 3 in a state. -/
def falls (s : State) (c : OpCond) : Ev := ⟨.counterFall, { s with ops := [anOp c] }, { a := 3 }⟩
/-- A write of it that lands early. -/
def early (w : RegWrite) (m : W32) : Ev := ⟨.counterFall, { base with ops := [{ anOp .now with writes := [w] }] }, { a := 3, b := 1, value := m }⟩
/-- The same with records of a NEMIT that wait for their bin. -/
def emits (n : Nat) : Ev :=
  ⟨.counterFall, { base with ops := [{ anOp .now with emit := List.replicate n { launch := 1, node := 0, src := 0, bytes := List.replicate 64 7 } }] }, { a := 3 }⟩
/-- A collective of one core whose result has come. -/
def summed : State := base.modColl 0 1 0 0 fun c => { c with own := some [1], result := some (List.replicate 64 0, [], false) }
/-- A Prism word that stalled and starts over. -/
def replays : Ev :=
  ⟨.counterFall, { shown with ops := [{ anOp .held with eng := (build 0x6C38400080000042).map fun i =>
      { instr := i, beam := shown.cb, threads := (List.range 8).map fun t => (t, shown.thread t) } }] }, { a := 3 }⟩
def landingEvents : List Ev :=
  [early (.s 0 3 77#32 9) 0#32, early (.v 0 3 77#256 (-1) 8 8) 0xF#32, falls base (.fence (.rel .dev)), falls base (.bank 0 0 0 0 []),
   falls base (.lines { ctx := 0, allData := true }), falls base (.pages 0 none), falls base (.copyEnd 0 0 1 true), falls base (.copyAt 0 0 0 1 9 1 none),
   falls base (.drain 1 0 true (some .dev)), falls base (.remote [{ peer := true, va := 0, mask := 1 }]), falls base (.rpkt 0 1 0),
   falls summed (.coll 0 1 0 3 [(0, 0)] none), emits 1, emits 5, replays]
theorem witness_landings : (landingEvents.all fun e => e.ok State.stepRow) = true := by decide +kernel

/-- The origin chosen; its one core held. -/
def chosen : State := Ev.leaves ⟨.reservationHold, second base .placing 1, { a := 2 }⟩ State.dispatchRow
def heldCore : State := Ev.leaves ⟨.reservationHold, chosen, { a := 2 }⟩ State.dispatchRow
/-- Between the choice and the hold another launch holds what the core has (R128). -/
def taken : State :=
  let core := ((chosen.launch 2).todo.headD (0, 0)).2
  let h : WgAlloc := { g := 0, w := 0, core := core, variant := 0, role := 0, fixed := false, beams := List.range 64, slots := [], base := 0 }
  { chosen with launches := put chosen.launches 3 { st := .placing, obj := (chosen.launch 2).obj, holds := [h] } }
def reserveEvents : List Ev := [⟨.reservationHold, chosen, { a := 2 }⟩, ⟨.reservationHold, heldCore, { a := 2 }⟩, ⟨.reservationHold, taken, { a := 2 }⟩]
theorem witness_reservation : (reserveEvents.all fun e => e.ok State.dispatchRow) = true
    ∧ (chosen.launch 2).plan ≠ [] ∧ (chosen.launch 2).todo ≠ [] ∧ (heldCore.launch 2).todo = [] ∧ (heldCore.launch 2).holds ≠ []
    ∧ (Ev.leaves ⟨.reservationHold, taken, { a := 2 }⟩ State.dispatchRow).launch 2 ≠ taken.launch 2 := by decide +kernel

theorem witness_stepRow : (stepEvents.all fun e => e.ok State.stepRow) = true := by decide +kernel
theorem witness_dispatchRow : (dispatchEvents.all fun e => e.ok State.dispatchRow) = true := by decide +kernel
theorem witness_preemptRow : (preemptEvents.all fun e => e.ok State.preemptRow) = true := by decide +kernel
theorem witness_hostRow : (hostEvents.all fun e => e.ok State.hostRow) = true := by decide +kernel
theorem witness_unitRow : (unitEvents.all fun e => e.ok State.unitRow) = true := by decide +kernel
theorem witness_stackRow : (stackEvents.all fun e => e.ok State.stackRow) = true := by decide +kernel
theorem witness_serviceRow : (serviceEvents.all fun e => e.ok State.serviceRow) = true := by decide +kernel
/-- A pool of 2^40 MiB takes any image (R407). -/
theorem room (s : State) (ctx g : Nat)
    (h : (s.gangs.filter fun x => x.2.st ≠ .placed && ! ([g] : List Nat).contains x.1 && (s.launch x.2.launch).ctx == ctx) = [])
    (hp : (s.ctxReg ctx 0x10A).toNat = 2 ^ 20) : s.poolRoom ctx [g] = true := by
  have := (Config.imageSize g).isLt
  simp only [State.poolRoom, h, hp, List.map_nil, List.nil_append, List.map_cons, List.foldl_cons, List.foldl_nil, decide_eq_true_eq]
  omega
theorem witness_gangSave : (State.preemptRow saving .gangSave).any (·.ok) = true := by
  have r := room saving (saving.launch (saving.gang saving.sched.arg.a).launch).ctx saving.sched.arg.a (by decide +kernel) (by decide +kernel)
  simp only [State.preemptRow, Option.any_some, r]
  decide +kernel
def vacant : State := requested.without ((requested.gangs.filter fun g => g.2.st == .halting).map (·.1))
theorem witness_preemptRequest : (State.preemptRow requested .preemptRequest).any (·.ok) = true := by
  have r : vacant.poolRoom (vacant.launch (vacant.gang 1).launch).ctx [1] = true := room vacant _ 1 (by decide +kernel) (by decide +kernel)
  have v : vacant.victims = [[1]] := by decide +kernel
  have f : ((vacant.without [1]).wouldTake 2).isSome = true := by decide +kernel
  have c : vacant.chooseVictims 2 [] vacant.victims = some [1] := by
    rw [v]; simp only [State.chooseVictims, List.filter_nil, List.nil_append, List.headD_cons, r, f]; rfl
  have a : requested.sched.arg.a = 2 := by decide +kernel
  have m : (requested.mayPreempt 2 && (vacant.wouldTake 2).isNone) = true := by decide +kernel
  simp only [State.preemptRow, Option.any_some, a]
  show (requested.mayPreempt 2 && (vacant.wouldTake 2).isNone && (vacant.chooseVictims 2 [] vacant.victims).isSome) = true
  rw [m, c]; rfl


/-! ### States that meet the hypotheses of the other statements -/

/-- A word decodes, meets a test, and its meaning answers a next state. -/
def meets (s : State) (p : Instr → Bool) (w : W64) : Bool :=
  match decode w with
  | .ok i => wellFormed i && p i && (match exec i s with
    | .next _ => true
    | _ => false)
  | .error _ => false

/-- IADD, PSET, POLMV, RDSYS, NINFO. -/
theorem witness_registerFrame : ([0x1138181840028030, 0x083A040880000001, 0x36B8000000000000, 0x753A280030000000, 0x6838000000000000] : List W64).all
    (meets base base.registerWord) = true := by decide +kernel
/-- IADD on v registers, AND, MOV to a k register, FMAX, VEXT, CVT. -/
theorem witness_laneFrame : ([0x1138181840028030, 0x1838100000040000, 0x103A140000038000, 0x2BD04838A0000020, 0x33B8000000000000,
    0x4038000000000000] : List W64).all (meets base fun i => (base.laneRow i).isSome) = true := by decide +kernel
/-- LD, ST, STS, STG, STK, STP6, with the bytes that the stores address. -/
theorem witness_accessFrame : ([0x503C302A12000040, 0x50B8082000000000, 0x51B8004000000000, 0x52B8000000010000, 0x53B8100000000000,
    0x5538000280000000] : List W64).all (meets base fun i => (accessOf i).isSome) = true
    ∧ base.storedBytes (.bytes { gn := false, gp := 7, cf := false } { d := .t 1, a := .t 2, ty := .b32, ord := .none, ch := 0, b := .t 0, off := 0x40 } .mem)
      = (List.range 8).flatMap (fun t => (List.range 4).map (0x30040 + 128 * t + ·)) := by decide +kernel
/-- ATOM, ATOMF, CAS. -/
theorem witness_accessFrame_atomics : ([0x5938000800000000, 0x59B8000000000000, 0x5B38000A00000000] : List W64).all
    (meets base fun i => (accessOf i).any (·.isAtomic)) = true := by decide +kernel
/-- MMA, BARINIT, BARARR, MDRAIN, QPUSH, CBLD, and CPY and LWAIT, which write a k register. -/
theorem witness_unitFrame : ([0x4838488860080000, 0x5C38044080470100, 0x5CB807E080C90100, 0x4B38004B0402E007, 0x663C18A000200007, 0x433804A984800003,
    0x603A4C4008A00002, 0x693A2F6000000000] : List W64).all
    (meets base unitWord) = true := by decide +kernel
/-- RECONV, BRW, TRET: the workgroup has not retired. -/
def stays (s : State) (w : W64) : Bool :=
  match decode w with
  | .ok i => pathWord i && (match exec i s with
    | .next t => !(t.wg s.cb.wg).retired
    | _ => false)
  | .error _ => false
theorem witness_pathFrame : stays base 0x05B8000018000000 = true ∧ stays base 0x02B8000000000000 = true
    ∧ stays handling 0x74B8000000000001 = true := by decide +kernel

/-- The current beam has a handler, and its trap region. -/
def handled : State := (base.setCtxReg 0 0x100 0x60000#32).modWg 1 fun g => { g with region := true }
/-- A word takes the trap of a code. -/
def traps (code : Nat) (p : State × W64) : Bool :=
  p.1.issuing && match decode p.2 with
  | .ok i => (p.1.trapsAt i).any fun x => x.ok && x.t.code == code
  | .error _ => false
/-- Thread 3 has an address of its own: 0x30001 in memory, 0x10000 in the scratchpad. -/
def astray : State := base.modThread 3 fun u => { u with s := (u.s.setIfInBounds 2 0x30001#32).setIfInBounds 4 0x10000#32 }
/-- A barrier object at offset 256 (R314). -/
def barred (o : Nat) : State := { base with mem := { base.mem with scratch := setBs base.mem.scratch 256 (bytesOfNat 16 o) } }
/-- INVALID_INDEX of FFMA, INT_DIVIDE of IDIV. -/
theorem witness_traps_registers : traps 0x09 (base, 0x29B8205041881C20) = true
    ∧ traps 0x0B (base.modCb fun b => { b with idivTrap := true }, 0x15381840A002C000) = true := by decide +kernel
/-- MISALIGNED of LD, ST and LDS, SCRATCH_BOUNDS of LDS, CONST_BOUNDS of LDC. -/
theorem witness_traps_access : ([(astray, 0x503C302A12000040), (astray, 0x50B8082000000000), (astray, 0x5138302000030000)] : List (State × W64)).all (traps 0x0D) = true
    ∧ traps 0x0E (astray, 0x5138084A00000040) = true
    ∧ traps 0x0F (base.modLaunch 1 fun l => { l with obj := { l.obj with cstsz := 0 } }, 0x5438484A00000000) = true := by decide +kernel
/-- ILLEGAL_CONVERGENCE of MMA with a thread that is not active, and with guards that differ; of MDRAIN. -/
theorem witness_traps_whole : ([(base.modCb fun b => { b with active := 0x7F }, 0x4838488860080000),
    (base.modThread 3 fun u => { u with p := 0 }, 0x4800488860080000), (base.modCb fun b => { b with active := 0x7F }, 0x4B38004B0402E007)]
    : List (State × W64)).all (traps 0x05) = true := by decide +kernel
/-- BAR_INVALID of BARINIT with a count of 0, of BARARR on no object, of BARWAIT with a stale token; BAR_OVERRUN. -/
theorem witness_traps_barrier : ([(base.modCb fun b => { b with k := b.k.setIfInBounds 7 0 }, 0x5C38044080470100), (barred 0, 0x5CB807E080C90100),
    (barred (4 + 9 * 2 ^ 32 + 2 ^ 36 + 2 ^ 39), 0x5D3807E0805E0100)] : List (State × W64)).all (traps 0x14) = true
    ∧ traps 0x15 (barred (4 + 4 * 2 ^ 16 + 2 ^ 36 + 2 ^ 39), 0x5CB807E080C90100) = true := by decide +kernel
/-- DOUBLE_TRAP of TRET: another depth, .skip on a software trap; a trap inside a handler. -/
theorem witness_traps_handler : ([(handling.modWg 1 fun g => { g with stack := [{ beam := 0, kind := .br, rmask := 0, m := [], next := 0, jn := 0, ft := 0 }] },
      0x74B8000000000000), (handled.takeTrap 0 { code := 0x19 } 0x400 1, 0x74B8000000000001)] : List (State × W64)).all (traps 0x33) = true
    ∧ handling.cb.hmode = true ∧ traps 0x09 (handling, 0x29B8205041881C20) = true ∧ launchLevel 0x09 = false
    ∧ (look handling.launches handling.cwg.launch).isSome = true := by decide +kernel
/-- BR, CALL, CALL.i to k62 and k63, loop.k on k63. -/
theorem witness_jumpFrame : ([0x0108000014000400, 0x0438000002040000, 0x04B800000200003E, 0x0638000003F80001] : List W64).all
    (meets base fun i => (jumpLinks i).isSome) = true := by decide +kernel

/-- The decoder takes a word. -/
def takes (w : W64) : Bool := match decode w with
  | .ok _ => true
  | .error _ => false
/-- The first beam stands in a started clause at a word, and the agenda is empty. -/
def standsAt (s : State) (w : W64) : Bool :=
  s.sched.agenda == [] && !s.sched.stalled && (look s.beams s.sched.cur).any fun b => b.st == .issuing && b.mid && b.buf != [] && b.word == w
/-- A pair that R56 forbids. -/
def badPair (w : W64) : Bool := match decode w with
  | .error .illegalPair => true
  | _ => false
/-- The clauses of a step: a word that decodes, one that does not, a forbidden pair, a turn of the agenda. -/
theorem witness_stepClauses : standsAt (base.installWord 0x00B8000000000000) 0x00B8000000000000 = true ∧ takes 0x00B8000000000000 = true
    ∧ standsAt (base.installWord 0x5100020202000010) 0x5100020202000010 = true ∧ takes 0x5100020202000010 = false
    ∧ standsAt (base.installWord 0x822021704838A070) 0x822021704838A070 = true ∧ badPair 0x822021704838A070 = true
    ∧ ({ base with sched := { base.sched with agenda := [{ instr := .timeTick }] } }).sched.agenda = { instr := .timeTick } :: [] := by decide +kernel
theorem witness_placedWord : takes 0x00B8000000000000 = true := by decide +kernel
theorem witness_encodedWord : ∃ i, decode 0x822021704838A0F0#64 = .ok i ∧ wellFormed i = true ∧ encode i = some 0x822021704838A0F0#64 := by
  refine ⟨_, rfl, ?_, ?_⟩ <;> decide +kernel
theorem witness_canonical : Memory.wf base.mem = true ∧ Memory.wf handling.mem = true
    ∧ meets base (fun _ => true) 0x00B8000000000000 = true := by decide +kernel
/-- The fault that a meaning may answer: RECONV ends the last path of an entry that no live thread belongs to (R148). -/
def noPath (f : BF) : State := base.modWg 1 fun g =>
  { g with stack := [{ beam := 0, kind := .br, rmask := 0, m := [], next := 0, jn := base.cb.target f.off, ft := 0 }] }
theorem witness_noWayOn : (match decode 0x05B8000018000000 with
    | .ok (.reconv h f) => (match exec (.reconv h f) (noPath f) with
      | .fault _ => true
      | _ => false)
    | _ => false) = true := by decide +kernel

theorem witness_trapFrame : Memory.wf handled.mem = true ∧ handled.issuing = true ∧ handled.sched.cur = 0
    ∧ handled.handles 0 { code := 0x0B, mask := 4 } = true ∧ (0x400#64).toNat % 8 = 0
    ∧ ownCount handled.cwg.stack handled.cb.b < 256 ∧ handled.cb.active ≠ 0 ∧ handled.cb.active &&& handled.cb.live = handled.cb.active
    ∧ (1#20).getLsbD 0 = true ∧ (0#20).getLsbD 0 = false := by decide +kernel
theorem witness_trapEnds : base.issuing = true ∧ base.acts { gn := false, gp := 7, cf := false } = true ∧ base.cb.hmode = false
    ∧ base.ctxReg64 base.cl.ctx 0x100 = 0 ∧ (look base.launches base.cwg.launch).isSome = true := by decide +kernel
/-- MZERO of the last tile, and one tile past it. -/
theorem witness_zero : let h : Hd := { gn := false, gp := 7, cf := false }
    let x : XF := { tile := 127, a := .t 0, b := .t 0, fs := 0, lay := 0, reu := false, tyo := 0, c := .t 0, cbk := 0, cbx := false, mx := 0 }
    base.issuing = true ∧ base.acts h = true ∧ wellFormed (.mzero h x) = true ∧ x.tileN + (x.mx.toNat + 1) = 128
      ∧ 128 < XF.tileN { x with mx := 1 } + ((1#7).toNat + 1) := by decide +kernel
/-- ISET under each of its condition codes. -/
theorem witness_comparison : (List.range 10).all (fun c =>
    let h : Hd := { gn := false, gp := 7, cf := false }
    let z : ZF := { d := .t 1, a := .t 2, b := .t 3, c := .t 0, rm := .rn, ty := .s32, cbk := 0, cbs := 0, hi := 0, opx := BitVec.ofNat 6 c }
    wellFormed (.iset h z) && (base.bitRow (.iset h z)).any base.canRun) = true := by decide +kernel
theorem witness_written : Memory.wf {} = true ∧ ((Mem.write {} {} 7 [1, 0, 3]).read 7 3) = [1, 0, 3] := by decide +kernel


/-! ### Ill-formed words

For each word of the completion witnesses, three bits that its encoding leaves at zero, or that turn a field into a
value its table does not allow: with any of them changed the word still names the instruction, the check refuses it,
and so does the decoder (R54). -/

/-- A word with one bit changed names an instruction that is not well formed. -/
def refuses (w : W64) (bit : Nat) : Bool :=
  let x := w ^^^ BitVec.ofNat 64 (2 ^ bit)
  (build x).any (fun i => !wellFormed i) && (match decode x with
    | .ok _ => false
    | .error e => e == .illegalInstruction)
def refusesAll (l : List (W64 × List Nat)) : Bool := l.all fun x => x.2.all (refuses x.1)

theorem illFormed_arithRow : refusesAll
  [(0x1138181840028030, [0, 17, 49]), (0x1738000000024000, [0, 21, 49]), (0x2138000000000000, [32, 49]),
   (0x13B8000000024000, [0, 12, 49]), (0x16B8000000024000, [0, 17, 49]), (0x1638000000040000, [0, 16, 49]),
   (0x12B8000000040000, [0, 16, 49]), (0x21B8000000000000, [32, 49]), (0x1338000000024000, [0, 17, 49]),
   (0x17B8000000028000, [0, 21, 49]), (0x11B8000000040000, [0, 16, 49])] = true := by decide +kernel
theorem illFormed_bitRow : refusesAll
  [(0x1838100000040000, [0, 18, 49]), (0x2238100000000000, [32, 34, 49]), (0x1D38000000040000, [0, 21, 49]),
   (0x1C38000000024000, [0, 21, 49]), (0x1238000000040000, [1, 13, 49]), (0x1F38000000028000, [4, 20, 49]),
   (0x2538000000000000, [49]), (0x19B8000000024000, [0, 21, 49]), (0x18B8000100040000, [0, 18, 49]),
   (0x22B8000000000004, [32, 34, 49]), (0x1CB8000000040000, [0, 21, 49]), (0x1BB8000000028000, [0, 17, 49]),
   (0x1A38000000024000, [0, 17, 49]), (0x23B8000000000000, [5, 20, 49]), (0x1AB8000000028000, [0, 17, 49]),
   (0x2438000000000000, [5, 20, 49]), (0x1B38000000028000, [1, 17, 49]), (0x24B8000000000000, [5, 20, 49]),
   (0x1938000000040000, [0, 18, 49]), (0x2338000000040000, [32, 34, 49])] = true := by decide +kernel
theorem illFormed_convertRow : refusesAll
  [(0x4138000040000021, [1, 16, 49]), (0x41B8000000000021, [1, 20, 49]), (0x4438000000000200, [0, 24, 49]),
   (0x4038000000000000, [3, 25, 49]), (0x40B8000000000020, [4, 17, 49]), (0x4138000000000020, [1, 19, 49]),
   (0x44B8000000000020, [3, 18, 49]), (0x4538000000000001, [1, 16, 49]), (0x4538000000000000, [1, 16, 49]),
   (0x42B8000000000000, [0, 19, 49]), (0x4238000000000000, [4, 24, 49]), (0x41B8000000000020, [1, 19, 49]),
   (0x40B8000000000028, [4, 17, 49])] = true := by decide +kernel
theorem illFormed_floatRow : refusesAll
  [(0x2BD04838A0000020, [0, 18, 49]), (0x2C38000000000000, [0, 21, 49]), (0x2838000000000000, [0, 17, 49]),
   (0x3AB8000000000000, [49]), (0x2DB8000000000000, [0, 13, 49]), (0x2D38000000000000, [3, 20, 49]),
   (0x31B8000000000000, [1, 22, 49]), (0x2FB8000000000000, [0, 16, 49]), (0x3038000000000000, [1, 22, 49]),
   (0x29B8000000000000, [0, 12, 49]), (0x2A38000000000000, [0, 12, 49]), (0x2AB8000000000000, [0, 12, 49]),
   (0x30B8000000000000, [1, 22, 49]), (0x2B38000000000000, [0, 18, 49]), (0x2938000000000000, [0, 17, 49]),
   (0x3B38000000000000, [49]), (0x2CB8000000000000, [0, 21, 49]), (0x2E38000000000000, [1, 22, 49]),
   (0x2EB8000000000000, [1, 22, 49]), (0x3A38000000000000, [1, 18, 49]), (0x3138000000000000, [1, 22, 49]),
   (0x2F38000000000000, [0, 18, 49]), (0x28B8000000000000, [0, 17, 49]), (0x37B8000000000000, [1, 23, 49])] = true := by decide +kernel
theorem illFormed_packetRow : refusesAll
  [(0x35384088E004C029, [0, 18, 49]), (0x3338000000000000, [0, 21, 49]), (0x3238000000000000, [0, 17, 49]),
   (0x33B8000000000000, [3, 23, 49]), (0x3638000000000000, [0, 19, 49]), (0x32B8000000000000, [0, 20, 49]),
   (0x3438000000000000, [3, 23, 49]), (0x34B8000000000000, [0, 19, 49]), (0x35B8002000050000, [2, 16, 49])] = true := by decide +kernel
theorem illFormed_specialRow : refusesAll
  [(0x2038106300828020, [0, 13, 49]), (0x1E38000000040000, [0, 12, 49]), (0x1DB8000000040000, [0, 16, 49]),
   (0x1538000000040000, [0, 16, 49]), (0x20B8000000028000, [1, 17, 49]), (0x15B8000000040000, [0, 16, 49]),
   (0x1038100000048000, [0, 21, 49]), (0x10B8000000000004, [32, 38, 42]), (0x1EB8100000040000, [0, 13, 49])] = true := by decide +kernel
theorem illFormed_atomRow : refusesAll
  [(0x5938000800000000, [22, 32, 49]), (0x5A38000800000000, [23, 43, 49])] = true := by decide +kernel
theorem illFormed_atomfRow : refusesAll
  [(0x59B8000000000000, [14, 33, 49]), (0x5AB8000000000000, [14, 35, 49])] = true := by decide +kernel
theorem illFormed_bankRow : refusesAll
  [(0x433804A984800003, [6, 19, 49])] = true := by decide +kernel
theorem illFormed_barrierRow : refusesAll
  [(0x5CBAAFE081CD0100, [22, 31, 49]), (0x5C38044080470100, [23, 35, 49]), (0x5D3807E0805E0100, [22, 34, 49]),
   (0x5DB8000100000000, [16, 24, 35])] = true := by decide +kernel
theorem illFormed_casRow : refusesAll
  [(0x5B38000A00000000, [12, 24, 49]), (0x5BB8000B00000000, [12, 24, 49])] = true := by decide +kernel
theorem illFormed_collRow : refusesAll
  [(0x7238004949200000, [0, 16, 49]), (0x72B8300A80000000, [0, 17, 49]), (0x73BB000B00000000, [4, 19, 42]),
   (0x7338400B00000000, [0, 17, 49])] = true := by decide +kernel
theorem illFormed_controlRow : refusesAll
  [(0x00B8000000000000, [0, 25, 49]), (0x0108000014000400, [0, 3, 6]), (0x05B8000018000000, [0, 13, 25]),
   (0x06B8000000000000, [0, 25, 49]), (0x0738003FFC000000, [6, 22, 49]), (0x01B8000000000000, [1, 13, 25]),
   (0x02B8000000000000, [0, 3, 6]), (0x0438000002040000, [0, 9, 25]), (0x04B8000002040000, [0, 31, 49]),
   (0x0338000000000000, [0, 11, 25]), (0x03B8000002000000, [0, 29, 49]), (0x0638000000000000, [1, 13, 25]),
   (0x0638000002000001, [1, 10, 25]), (0x0538000002000000, [0, 29, 49])] = true := by decide +kernel
theorem illFormed_copyRow : refusesAll
  [(0x603A4C4008A00002, [3, 16, 49]), (0x61B8049000000002, [4, 22, 49]), (0x623A000000000000, [9, 27, 49]),
   (0x613A040000000000, [7, 20, 49]), (0x60BA000000000000, [7, 27, 49])] = true := by decide +kernel
theorem illFormed_exitRow : refusesAll
  [(0x64B8000000000000, [1, 26, 49])] = true := by decide +kernel
theorem illFormed_fenceRow : refusesAll
  [(0x5838000036000000, [0, 22, 49]), (0x58B8000000000000, [0, 22, 49]), (0x5E38047000000000, [0, 20, 49])] = true := by decide +kernel
theorem illFormed_filmRow : refusesAll
  [(0x6E3800604020000A, [0, 18, 49]), (0x6F380001C000000A, [0, 26, 49]), (0x6EB8000000000000, [0, 29, 49])] = true := by decide +kernel
theorem illFormed_loadRow : refusesAll
  [(0x503C302A12000040, [17, 21, 49]), (0x5138084A00000040, [19, 23, 49]), (0x55B8002000000000, [16, 33, 49]),
   (0x5438484A00000000, [17, 22, 49]), (0x5238000000000000, [19, 22, 49]), (0x5338000000000000, [17, 21, 49])] = true := by decide +kernel
theorem illFormed_mdrainRow : refusesAll
  [(0x4B38004B0402E007, [0, 18, 35])] = true := by decide +kernel
theorem illFormed_multiplyRow : refusesAll
  [(0x4838488860080000, [0, 14, 42]), (0x48B80000000C0004, [1, 14, 42])] = true := by decide +kernel
theorem illFormed_packedRow : refusesAll
  [(0x54B8000280000000, [17, 31, 49]), (0x5538000280000000, [17, 31, 49])] = true := by decide +kernel
theorem illFormed_predRow : refusesAll
  [(0x0C38000000000000, [1, 22, 42]), (0x0BBA200000000001, [0, 22, 49]), (0x08B8000000000001, [2, 20, 49]),
   (0x0AB8040000000000, [0, 22, 48]), (0x0938100000000000, [2, 20, 49]), (0x083A040880000001, [3, 19, 48]),
   (0x09B8000040000002, [2, 20, 49]), (0x0B38040000000000, [0, 23, 48]), (0x0A38000000000000, [0, 21, 49])] = true := by decide +kernel
theorem illFormed_productRow : refusesAll
  [(0x3738000000000000, [0, 24, 49]), (0x36B8000000000000, [0, 22, 49])] = true := by decide +kernel
theorem illFormed_queueRow : refusesAll
  [(0x663C18A000200007, [12, 30, 49]), (0x66B8000000000000, [13, 30, 49]), (0x6738000000000000, [16, 32, 42])] = true := by decide +kernel
theorem illFormed_registerRow : refusesAll
  [(0x6ABA280000000000, [0, 19, 42]), (0x753A280030000000, [0, 13, 42]), (0x43B8000000000000, [0, 25, 49]),
   (0x383BC42880000000, [0, 17, 49]), (0x39B800000000003F, [6, 28, 49]), (0x75B8049000000000, [0, 13, 49]),
   (0x7838100000000000, [0, 22, 43]), (0x14B8004000040000, [0, 18, 49]), (0x1438100000040000, [0, 16, 49]),
   (0x1FB8100000040000, [3, 19, 49]), (0x25B8000000000800, [32, 35, 49]), (0x78B8000000000000, [2, 22, 42]),
   (0x7938000000000000, [16, 33, 49]), (0x38BA240000000000, [0, 19, 49]), (0x5638000000000000, [3, 21, 42]),
   (0x3938000000000000, [0, 22, 49])] = true := by decide +kernel
theorem illFormed_sampleRow : refusesAll
  [(0x6C38400080000042, [0, 18, 49]), (0x6D3840008000004E, [0, 16, 49]), (0x6DB8480000000042, [0, 19, 49]),
   (0x6CB8400080000042, [0, 18, 49])] = true := by decide +kernel
theorem illFormed_spawnRow : refusesAll
  [(0x643C0088C0200063, [5, 18, 49]), (0x67B8000000000000, [9, 30, 49]), (0x6838000000000000, [2, 20, 42])] = true := by decide +kernel
theorem illFormed_storeRow : refusesAll
  [(0x50B8000000000000, [17, 20, 36]), (0x52B8000000010000, [19, 22, 49]), (0x53B8100000000000, [17, 21, 24]),
   (0x51B8004000000000, [19, 22, 24])] = true := by decide +kernel
theorem illFormed_systemRow : refusesAll
  [(0x76B8000000000001, [0, 25, 49]), (0x77B804A000000000, [2, 32, 49]), (0x7738040000010000, [0, 31, 49]),
   (0x7638000000000000, [16, 33, 49]), (0x7438000000000000, [16, 33, 49])] = true := by decide +kernel
theorem illFormed_tileRow : refusesAll
  [(0x4BB8000000000000, [0, 25, 49]), (0x49B8000000000000, [0, 17, 42]), (0x4A38000000000000, [7, 22, 42]),
   (0x4C38000000000000, [2, 26, 42]), (0x4AB8000000000000, [6, 21, 42]), (0x4938000000000000, [7, 25, 42])] = true := by decide +kernel
theorem illFormed_timeRow : refusesAll
  [(0x703A154980000005, [4, 19, 49]), (0x6FB8000000000000, [0, 20, 43]), (0x70B8000000000000, [6, 22, 42])] = true := by decide +kernel
theorem illFormed_waitRow : refusesAll
  [(0x6A38000000000003, [4, 29, 49]), (0x6538046000000001, [1, 20, 49]), (0x68BFC6C009A00003, [2, 18, 49]),
   (0x693A2F6000000000, [0, 17, 49]), (0x65B8044920002000, [1, 17, 49]), (0x69BA040000000000, [2, 18, 49])] = true := by decide +kernel

/-- Ill-formed terms field by field: an odd register of a pair, a reserved or forbidden type, a rounding mode where
nothing rounds, an expanded k source, a uniform result of thread sources, an ordering the instruction has not, two
banks at once, a slot out of range. -/
def hd : Hd := { gn := false, gp := 7, cf := false }
def zf : ZF := { d := .t 0, a := .t 0, b := .t 0, c := .t 0, rm := .rn, ty := .s32, cbk := 0, cbs := 0, hi := 0, opx := 0 }
def mf : MF := { d := .t 0, a := .t 0, ty := .b32, ord := .none, ch := 0, b := .t 0, off := 0 }
def tf : TF := { d := .t 0, a := .t 0, b := .t 0, ord := .none, tc := 0, tx := 0 }
def bf : BF := { off := 0, a := .t 0, q1 := 0, q2 := 0, q3 := 0, bx := 0 }
def xf : XF := { tile := 0, a := .t 0, b := .k 0, fs := 0, lay := 0, reu := false, tyo := 0, c := .t 0, cbk := 0, cbx := false, mx := 0 }
def yf : YF := { d := .t 0, a := .t 0, sr := 0, yx := 0 }
theorem illFormed_terms : ([
    .iadd hd { zf with ty := .f32 }, .iadd hd { zf with rm := .rz }, .iadd hd { zf with d := .k 1, a := .t 2 }, .iadd hd { zf with cbs := 1 },
    .iadd64 hd { zf with d := .t 1 }, .imul64 hd { zf with ty := .s16 }, .fadd hd { zf with ty := .s32 }, .fadd hd { zf with ty := .f32, b := .k 2, cbs := 2 },
    .pset hd { zf with ty := .s16 }, .pand hd { zf with opx := 4 }, .ld hd { mf with a := .t 3 }, .ld hd { mf with b := .t 2 },
    .lds hd { mf with ty := .b64, d := .t 1 }, .st hd { mf with a := .t 1 }, .fence hd { mf with ty := .f32 }, .atom hd { mf with ty := .f32 },
    .atom hd { mf with off := 0x9000 }, .cas hd { mf with b := .t 1 }, .barinit hd { mf with ty := .f32 }, .bararr hd { mf with ty := .f16, ch := 2 },
    .mma hd { xf with tyo := 31 }, .mdrain hd { xf with cbx := true }, .cpy hd { tf with tx := 8 }, .qpush hd { tf with tx := 0x2000 },
    .spawn hd { tf with tx := 0x80 }, .exit hd { tf with tx := 2 }, .vswitch hd { tf with tx := 16 }, .trigarm hd { tf with tx := 16 },
    .facc hd { tf with tx := 0x81 }, .rpkt hd { tf with tx := 1 }, .call hd { bf with a := .t 2 }, .loopK hd { bf with a := .t 2 },
    .rdsys hd { yf with yx := 1 }, .clk hd { yf with d := .t 1 }] : List Instr).all (fun i => !wellFormed i) = true := by decide +kernel


/-! ### Words the manual prints, field by field -/

/-- A word decodes to an instruction. -/
def reads (p : W64 × Instr) : Bool :=
  match decode p.1 with
  | .ok i => i == p.2
  | .error _ => false

theorem decodes_branch : ([(0x0108000014000400, .br { hd with gp := 1 } { bf with off := 5, q3 := 8 }),
    (0x05B8000018000000, .reconv hd { bf with off := 6 })] : List (W64 × Instr)).all reads = true := by decide +kernel
theorem decodes_integer : ([(0x1138181840028030, .iadd hd { zf with d := .t 3, a := .t 1, b := .k 2, ty := .s16, opx := 48 }),
    (0x2038106300828020, .idp2 hd { zf with d := .t 2, a := .t 6, b := .t 24, c := .t 2, ty := .s16, opx := 32 })] : List (W64 × Instr)).all reads = true := by decide +kernel
theorem decodes_float : ([(0x29B8205041881C20, .ffma hd { zf with d := .t 4, a := .t 5, b := .t 2, c := .t 6, rm := .rz, ty := .f32, cbk := 3, cbs := 2, opx := 32 }),
    (0x35384088E004C029, .vslide hd { zf with d := .t 8, a := .t 8, b := .k 7, ty := .b16, opx := 41 })] : List (W64 × Instr)).all reads = true := by decide +kernel
theorem decodes_codebook : ([(0x4438202000000A20, .cbx hd { zf with d := .t 4, a := .t 2, ty := .f32, cbk := 1, cbs := 1, opx := 32 }),
    (0x433804A984A0003B, .cbld hd { tf with a := .k 10, b := .k 12, ord := .acq .wg, tc := 1, tx := 59 })] : List (W64 × Instr)).all reads = true := by decide +kernel
theorem decodes_matrix : ([(0x4838488860080000, .mma hd { xf with tile := 9, a := .t 8, b := .k 3, tyo := 2 }),
    (0x4838008AC09C0088, .mma hd { xf with a := .t 8, b := .k 22, reu := true, tyo := 7, cbx := true, mx := 8 }),
    (0x4B38004B0402E007, .mdrain hd { xf with a := .t 4, b := .k 24, fs := 1, c := .k 28, mx := 7 })] : List (W64 × Instr)).all reads = true := by decide +kernel
theorem decodes_memory : ([(0x5138302000030000, .lds hd { mf with d := .t 6, a := .t 2, ty := .f32, b := .t 3 }),
    (0x5838000036000000, .fence hd { mf with ty := .f32, ord := .ar .dev }),
    (0x58B8000000000000, .detdrain hd { mf with ty := .f32 })] : List (W64 × Instr)).all reads = true := by decide +kernel
theorem decodes_atomic : ([(0x59BC1D4000050008, .atomf { hd with cf := true } { mf with d := .t 3, a := .k 20, ty := .f32, b := .t 5, off := 8 }),
    (0x5CBA4C4081000100, .bararr hd { mf with d := .k 9, a := .k 4, ty := .f16, ch := 2, off := 0x100 })] : List (W64 × Instr)).all reads = true := by decide +kernel
theorem decodes_task : ([(0x603A4C4008A00002, .cpy hd { tf with d := .k 9, a := .k 4, ord := .rel .wg, tc := 1, tx := 2 }),
    (0x643C0088C0200063, .spawn { hd with cf := true } { tf with a := .t 8, b := .k 6, tc := 1, tx := 99 }),
    (0x6538046000000001, .jwait hd { tf with a := .k 6, tx := 1 }),
    (0x64B8000000000001, .exit hd { tf with tx := 1 }),
    (0x663C18A000200007, .qpush { hd with cf := true } { tf with d := .t 3, a := .t 10, tc := 1, tx := 7 }),
    (0x68BFC6C009A00003, .launch { hd with cf := true } { tf with d := .k 56, a := .k 44, ord := .rel .dev, tc := 1, tx := 3 }),
    (0x693A2F6000000000, .lwait hd { tf with d := .k 5, a := .k 54 }),
    (0x6A38000000000003, .vswitch hd { tf with tx := 3 }),
    (0x6ABA280000000000, .role hd { tf with d := .k 5 })] : List (W64 × Instr)).all reads = true := by decide +kernel
theorem decodes_film : ([(0x6E3800604020000A, .facc hd { tf with a := .t 6, b := .t 2, tc := 1, tx := 10 }),
    (0x703A154980000005, .trigarm hd { tf with d := .k 2, a := .k 20, b := .k 12, tx := 5 })] : List (W64 × Instr)).all reads = true := by decide +kernel
theorem decodes_collective : ([(0x7238004949200000, .rpkt hd { tf with a := .t 4, b := .k 10, ord := .rel .gang, tc := 1 }),
    (0x72B8300A80000000, .rrecv hd { tf with d := .t 6, b := .k 20 }),
    (0x73BB000B00000000, .rstat hd { tf with d := .k 32, b := .k 24 }),
    (0x74B8000000000001, .tret hd { yf with yx := 1 })] : List (W64 × Instr)).all reads = true := by decide +kernel
theorem decodes_pair : ([(0x822021704838A0F0, .pairedWord { cop := .faddV, d := 4, a := 1, b := 2, gp := 7, rm := 0, hx := 0 } { cop := .shlS, d := 7, a := 5, b := 1, gp := 7, rm := 0, hx := 0 })] : List (W64 × Instr)).all reads = true := by decide +kernel
/-- Words put together from the formats of R44 to R53: PSET with its condition in opx, and PSMP with rp in tx. -/
theorem decodes_written : ([(0x083818104002C005, .pset hd { zf with d := .t 3, a := .t 1, b := .t 2, opx := 5 }),
    (0x6C384041200000C2, .psmp hd { tf with d := .t 8, a := .t 4, b := .t 9, tx := 194 })] : List (W64 × Instr)).all reads = true := by decide +kernel



/-! ### Single steps: the manual's own examples -/

/-- What the very next step leaves when it runs a word. -/
def after (w : W64) (s : State) : State :=
  match step (s.withFetchWord 64 w.toNat) with
  | .next t => t
  | _ => s
def setS (k n : Nat) (x : W32) (s : State) : State := s.modThread k fun u => { u with s := u.s.setIfInBounds n x }
def setV (k n tag : Nat) (es : List Nat) (w : Nat) (s : State) : State := s.modThread k fun u =>
  { u with v := u.v.setIfInBounds n (BitVec.ofNat 256 (ofElems w es)), vtag := u.vtag.setIfInBounds n (BitVec.ofNat 4 tag) }
def setK (n : Nat) (x : W32) (s : State) : State := s.modCb fun b => { b with k := b.k.setIfInBounds n x }
def masks (live active : BitVec 8) (s : State) : State := s.modCb fun b => { b with live := live, active := active }
def sOf (s : State) (k n : Nat) : W32 := (s.thread k).getS n
def vOf (s : State) (k n : Nat) : Nat := ((s.thread k).getV n).toNat
def kOf (s : State) (n : Nat) : W32 := s.cb.getK n

/-- IADD.sat of R180's example, and the same word without .sat. -/
def sums : State := setK 2 0x1388 (setV 0 1 13 [30000, 0xFF9C] 16 base)
theorem test_iadd_saturates : let t := after 0x1138181840028030 sums
    vOf t 0 3 % 2 ^ 32 = 0x13247FFF ∧ (t.thread 0).getVt 3 = 13 ∧ (t.thread 0).fx.getLsbD 5 = true ∧ (t.thread 1).fx.getLsbD 5 = false := by decide +kernel
theorem test_iadd_wraps : let t := after 0x1138181840028020 sums
    vOf t 0 3 % 2 ^ 16 = 0x88B8 ∧ (t.thread 0).fx = (sums.thread 0).fx := by decide +kernel
/-- IDP2 v2, v6, v24, v2 (R178's example): saturating, and not. -/
def products (c : Nat) : State := setV 0 2 9 [c] 32 (setV 0 24 13 [0x75307530] 32 (setV 0 6 13 [0x75307530] 32 (base.modWg 1 fun g => { g with nv := 32 })))
theorem test_idp2_saturates : let t := after 0x2038106300828020 (products 1000000000)
    vOf t 0 2 % 2 ^ 32 = 0x7FFFFFFF ∧ (t.thread 0).fx.getLsbD 5 = true := by decide +kernel
theorem test_idp2_exact : let t := after 0x2038106300828020 (products (2 ^ 32 - 1000000000))
    vOf t 0 2 % 2 ^ 32 = 0x2FAF0800 ∧ (t.thread 0).fx.getLsbD 5 = false := by decide +kernel
/-- VSLIDE's example: thread 4 has exited. -/
def rows : State := masks 0xEF 0xEF (setK 7 0xBEEF ((List.range 8).foldl (fun s k => setV k 8 13 ((List.range 16).map (16 * k + ·)) 16 s) base))
theorem test_vslide_up : let t := after 0x35384088E004C029 rows
    elem (t.thread 0).v[8].toNat 16 0 = 0xBEEF ∧ elem (t.thread 0).v[8].toNat 16 1 = 0 ∧ elem (t.thread 3).v[8].toNat 16 0 = 47
      ∧ elem (t.thread 5).v[8].toNat 16 0 = 0 ∧ elem (t.thread 5).v[8].toNat 16 1 = 80
      ∧ (t.thread 4).v[8] = (rows.thread 4).v[8] := by decide +kernel
/-- BR's example (R147): the entry it pushes, the active mask, the path it takes. -/
def branching : State := ((List.range 8).foldl (fun s k => s.modThread k fun u => { u with p := if k = 0 ∨ k = 1 ∨ k = 4 then 2 else 0 }) base).modCb
  fun b => { b with pc := 0x00007F0000000200 }
theorem test_br_splits : let t := after 0x0108000014000400 branching
    t.cb.active = 0x13 ∧ t.cb.pc = 0x00007F0000000228 ∧ ((t.wg 1).stack.map fun e => (e.rmask, e.m, e.next, e.jn, e.ft))
      = [(0xFF, [0x13, 0xEC], 1, 0x00007F0000000240, 0x00007F0000000210)] := by decide +kernel
/-- BARINIT and BARARR of R319's example. -/
def barrierAt : State := masks 0xFF 0x07 (setK 7 5 (setK 4 0 base))
theorem test_barinit_bytes : getBs (after 0x5C38044080470100 barrierAt).mem.scratch 256 16
    = [5, 0, 0, 0, 0x90, 0, 0, 0, 0, 0, 0, 0, 0, 0, 0, 0] := by decide +kernel
theorem test_bararr_counts : let t := after 0x5CBA4C4081000100 { barrierAt with mem := (after 0x5C38044080470100 barrierAt).mem }
    natOfBytes (getBs t.mem.scratch 256 4) = 0x00030005 := by decide +kernel
/-- LDS under layout 1: thread 5 reads offset 0x14E0. -/
def granules : State :=
  let s := (List.range 8).foldl (fun s k => setS k 2 (BitVec.ofNat 32 (1024 * k + 64)) s) base
  { s with mem := { s.mem with scratch := setBs s.mem.scratch 0x14E0 (bytesOfNat 4 0x40490FDB) } }
theorem test_lds_layout : ((after 0x5138302000030000 granules).ops.flatMap fun o => o.writes).any (fun w => match w with
    | .v k n x _ _ _ => k == 5 && n == 6 && x == 0x40490FDB
    | _ => false) = true := by decide +kernel
/-- QPUSH's example: queue 7 holds 13 of 16 entries, and threads 0, 2, 4 and 5 take part. -/
def pushing : State := { masks 0xFF 0x35 base with queues := put base.queues 7 { base.queue 7 with push := 13 } }
theorem test_qpush_room : ((after 0x663C18A000200007 pushing).ops.flatMap fun o => o.writes)
    = [.p 0 3 true, .p 2 3 true, .p 4 3 true, .p 5 3 false] ∧ ((after 0x663C18A000200007 pushing).queue 7).push = 16 := by decide +kernel
/-- What a word does at word 1 of the clause at an address. -/
def at1 (w pc : W64) (s : State) : State :=
  match decode w with
  | .ok i => (match exec i (s.modCb fun b => { b with pc := pc, pos := 1, mid := true, buf := [oneWordHeader, 0, w] }) with
    | .next t => t
    | _ => s)
  | .error _ => s
/-- The divide trap of the manual's example (R396): beam 1 of a workgroup with 64 KiB, and s5 is 0 in thread 2. -/
def dividing : State := setS 2 5 0 ((List.range 8).foldl (fun s k => setS k 5 3 s) ((handled.modWg 1 fun g => { g with spadSize := 65536 }).modCb
  fun b => { b with b := 1, idivTrap := true }))
theorem test_idiv_trap : let t := at1 0x15381840A002C000 0x00007F0000000400 dividing
    getBs t.mem.scratch 0x10100 20 = [0x0B, 0, 0, 0, 4, 0xFF, 0, 0xFF, 0, 4, 0, 0, 0, 0x7F, 0, 0, 1, 0, 0xFF, 0xFF]
      ∧ t.cb.hmode = true ∧ t.cb.pc = 0x60000 ∧ sOf t 0 3 = sOf dividing 0 3 := by decide +kernel
theorem test_tret_skips : let t := after 0x74B8000000000001 (at1 0x15381840A002C000 0x00007F0000000400 dividing)
    t.cb.pc = 0x00007F0000000400 ∧ t.cb.pos = 2 ∧ t.cb.hmode = false ∧ t.cb.active = 0xFF := by decide +kernel
theorem test_idiv_without_handler :
    ((at1 0x15381840A002C000 0x00007F0000000400 (dividing.setCtxReg 0 0x100 0)).launch 1).trapped = some 0x0B := by decide +kernel
theorem test_rdsys_device : kOf (after 0x753A280030000000 base) 5 = 0x4C4E07B0 := by decide +kernel
/-- FFMA's example (R209): bank 3 holds 0x3C01, v5 is 1 + 2^-23 and v6 is -1. -/
def fused : State := setV 0 5 8 [0x3F800001] 32 (setV 0 6 8 [0xBF800000] 32 (setV 0 2 12 [0] 32 (base.modCore 0 fun c => { c with banks := [(3, { valid := 1, ew := 3, owner := some 1, entries := [(0, 0x3C01)] })] })))
theorem test_ffma_expands : let t := after 0x29B8205041881C20 fused
    vOf t 0 4 % 2 ^ 32 = 0x3A800401 ∧ (t.thread 0).fx = 0 ∧ (t.thread 0).getVt 4 = 8 := by decide +kernel
/-- SRA.rn of R173's table, and the plain form of its first two rows. -/
def shifted : State := setV 0 1 13 [7, 0xFFFB, 6, 0xFFFA, 0x7FFF] 16 (setV 0 2 13 [1, 1, 2, 2, 1] 16 base)
theorem test_sra_rn : (elems (vOf (after 0x1B38181040028021 shifted) 0 3) 16 5) = [4, 0xFFFE, 2, 0xFFFE, 16384] := by decide +kernel
theorem test_sra : (elems (vOf (after 0x1B38181040028020 shifted) 0 3) 16 5) = [3, 0xFFFD, 1, 0xFFFE, 16383] := by decide +kernel
/-- FRCP.a and FRCP.rn of 3.0 (R190). -/
theorem test_frcp : sOf (after 0x2E38184000000001 (setS 0 4 0x40400000 base)) 0 3 = 0x3EAAAAAA
    ∧ sOf (after 0x2E38184000000000 (setS 0 4 0x40400000 base)) 0 3 = 0x3EAAAAAB := by decide +kernel
/-- Elements (0, 0) and (0, 1) of the manual's tile (R231, R232): 2^24 and seven 1.0 by a column of ones, and by a
column that is one in row 0 only. -/
def rowA : List Nat := [0x4B80] ++ List.replicate 7 0x3F80 ++ List.replicate 24 0
def element (col : List Nat) : Nat := mmaF 0 (groups8 ((rowA.zip col).map fun p => (decodeF .bf16 false p.1, decodeF .bf16 false p.2)))
theorem test_mma_elements : element (List.replicate 32 0x3F80) = 0x4B800004 ∧ element (0x3F80 :: List.replicate 31 0) = 0x4B800000 := by decide +kernel
/-- The clamped E4M3 slot of R109: 300.0, 500.0 and a NaN, and whether each sets SAT. -/
def clamped (x : Nat) : Nat × Bool :=
  let r := slotRound { efmt := 3, sate := true, smin := 0xC3700000, smax := 0x43700000 } .rn false 16 0 (decodeF .f32 false x)
  (r.1, r.2 / Fx.sat % 2 == 1)
theorem test_slot_clamps : clamped 0x43960000 = (0x77, true) ∧ clamped 0x43FA0000 = (0x77, true) ∧ clamped 0x7FC00000 = (0x7F, false) := by decide +kernel
/-- The FP6 group of R90. -/
theorem test_fp6_group : (rowBytes { efmt := 5 } [0x0C, 0x28, 0x1F, 0x01]).take 3 = [0x0C, 0xFA, 0x05] := by decide +kernel
/-- The address of R449's example, in its place among the codewords of stack 4 (R455). -/
theorem test_scrub_place : 32 * stackSector 4 (0x123456 / 8 * 2048 + 0x7880 / 32) = 0x1234567880 := by decide +kernel
/-- The end of a hot window on stack 0 (R458): frame 0 is promoted and, with all the transfers, nominated for rebalance. -/
def warmed : State := later 2100 (({ base with hot := [(0, { count := 5, xfers := 10, sk := true })] }.setReg 0x4A3 0x301#32).setReg 0x4A4 7#32)
theorem test_hot_window : (match exec .hotWindowEnd warmed with
    | .next t => (t.queue 7).entries.map fun e => e.2.2.take 20
    | _ => []) = [1, 2].map (fun k => k :: List.replicate 15 0 ++ [5, 0, 0, 0]) := by decide +kernel
/-- The block of R457's example: 1.0, −3.0, zeros, and element 3 as given. -/
def block (v : Nat) : List Byte :=
  (List.range 128).flatMap fun i => bytesOfNat 2 (if i = 0 then 0x3F80 else if i = 1 then 0xC040 else if i = 3 then v else 0)
theorem test_recoded_block : (encodeBlock (block 0)).map (·.take 8) = some [0x80, 0, 0, 0, 0x80, 0x00, 0x22, 0xE0]
    ∧ ((encodeBlock (block 0)).map decodeBlock) = some (block 0) ∧ encodeBlock (block 0x3C00) = none := by decide +kernel
/-- SHA-512 of the three bytes "abc" (FIPS 180-4's example), and the first test of RFC 8032: the empty message. -/
theorem test_sha512 : (sha512 [0x61, 0x62, 0x63]).take 2 = [0xDD, 0xAF] := by decide +kernel
theorem test_ed25519 : signedBy (bytesOfNat 32 0xD75A980182B10AB7D54BFED3C964073A0EE172F3DAA62325AF021A68F707511A).reverse []
    (bytesOfNat 64
      0xE5564300C360AC729086E2CC806E828A84877F1EB8E5D974D873E065224901555FB8821590A33BACC61E39701CF9B46BD25BF5F0595BBE24655141438E7A100B).reverse
    = true := by decide +kernel

end Sys2Proof.Tests
end

section
/-! Words on pairs, the generator, the flags, and those that read identities and system registers: each passes its checks
and leaves what its row says. -/

namespace Sys2Proof.Machine

/-- A word of a row completes: where its condition holds, the beam takes the state that the row names. -/
def Completes (row : State → Instr → Option Done) (i : Instr) : Prop :=
  ∀ (s : State) (x : Done), s.issuing = true → row s i = some x → x.ok = true → exec i s = .next x.next

/-! ### Checks that pass -/

/-- An answer that a condition chooses. -/
theorem ite_ok {α : Type} (c : Prop) [Decidable c] (a b : α) :
    (if c then .ok a else .ok b : R α) = .ok (if c then a else b) := (apply_ite _ c a b).symm

/-- No active thread differs from the lowest one, so a register of threads has one value (R229). -/
theorem agree_ok {s : State} {f : Nat → Nat} (h : s.oneValue f = true) : s.agree f = .ok (f (lowest s.cb.active)) := by
  have same : mask8 (fun t => s.active t && f t != f (lowest s.cb.active)) = 0 := mask8_zero fun t ht => by
    have := List.all_eq_true.1 h t (List.mem_range.2 ht)
    cases ha : s.cb.active.getLsbD t <;> simp_all [State.active]
  simp [State.agree, same]

theorem uni32_ok {s : State} {f : RF} (h : s.unified f = true) : s.uni32 f = .ok (s.val32 f) := by
  cases f with
  | k n => rfl
  | t n => exact agree_ok h

/-! ### Pairs (R171) -/

theorem imul64_completes (h : Hd) (z : ZF) : Completes State.registerRow (.imul64 h z) := by
  intro s x hi hx hok
  cases hx
  obtain ⟨hd, hsrc⟩ := Bool.and_eq_true_iff.1 hok
  refine issue_ok hi ?_
  dsimp only [imul64Effect]
  rw [sSpan_ok hd, checkSrcs_ok hsrc]
  rfl

theorem iadd64_completes (h : Hd) (z : ZF) : Completes State.registerRow (.iadd64 h z) := by
  intro s x hi hx hok
  cases hx
  simp only [Bool.and_eq_true] at hok
  obtain ⟨⟨hd, ha⟩, hb⟩ := hok
  refine issue_ok hi ?_
  unfold iadd64Effect
  rw [sSpan_ok hd, sSpan_ok ha, sSpan_ok hb]
  rfl

theorem lea_completes (h : Hd) (z : ZF) : Completes State.registerRow (.lea h z) := by
  intro s x hi hx hok
  cases hx
  simp only [Bool.and_eq_true] at hok
  obtain ⟨⟨hd, ha⟩, hb⟩ := hok
  refine issue_ok hi ?_
  dsimp only [leaEffect]
  rw [sSpan_ok hd, sSpan_ok ha, checkSrcs_ok hb]
  rfl

theorem leaI_completes (h : Hd) (z : IF) : Completes State.registerRow (.leaI h z) := by
  intro s x hi hx hok
  cases hx
  obtain ⟨hd, ha⟩ := Bool.and_eq_true_iff.1 hok
  refine issue_ok hi ?_
  unfold leaIEffect
  rw [sSpan_ok hd, sSpan_ok ha]
  rfl

theorem clk_completes (h : Hd) (f : YF) : Completes State.registerRow (.clk h f) := by
  intro s x hi hx hok
  cases hx
  refine issue_ok hi ?_
  unfold clkEffect
  rw [sSpan_ok hok]
  exact ite_ok _ _ _

/-! ### The generator and the flags (R203, R204) -/

theorem rngset_completes (h : Hd) (z : ZF) : Completes State.registerRow (.rngset h z) := by
  intro s x hi hx _
  cases hx
  exact issue_ok hi (ite_ok _ _ _)

/-- The generator's counter stays below 2^61, so RNGSKIP does not trap. -/
theorem rngskip_completes (h : Hd) (z : ZF) : Completes State.registerRow (.rngskip h z) := by
  intro s x hi hx hok
  cases hx
  refine issue_ok hi ?_
  unfold rngskipEffect
  by_cases ha : s.acts h = true
  · have hn : ¬ s.cb.genCtr + s.cb.kPair z.a.num ≥ 2 ^ 61 := by simpa [ha] using hok
    simp only [ha, if_true, if_neg hn]
  · simp only [ha]; rfl

theorem fxrd_completes (h : Hd) (z : ZF) : Completes State.registerRow (.fxrd h z) := by
  intro s x hi hx hok
  cases hx
  refine issue_ok hi ?_
  unfold fxrdEffect
  rw [sIn_ok hok]
  rfl

theorem fxclr_completes (h : Hd) (z : ZF) : Completes State.registerRow (.fxclr h z) := by
  intro s x hi hx _
  cases hx
  exact issue_ok (f := fxclrEffect h z) hi rfl

/-! ### Codebooks (R213), identities, system registers and marks (R141, R261, R413 to R418) -/

/-- No store of the beam is on its way to memory, so CBSYNC does not stall. -/
theorem cbsync_completes (h : Hd) (z : ZF) : Completes State.registerRow (.cbsync h z) := by
  intro s x hi hx hok
  cases hx
  have none_out : (s.opsOf s.sched.cur).any (fun o => o.kind == .store && o.old ≠ []) = false := by
    rw [List.any_eq_false]
    intro o ho
    have landed := List.all_eq_true.1 hok o ho
    simp only [Bool.or_eq_true, decide_eq_true_eq] at landed
    simp only [Bool.and_eq_true, beq_iff_eq, decide_eq_true_eq]
    rintro ⟨hstore, hold⟩
    exact landed.elim (fun h => h hstore) hold
  refine issue_ok hi ?_
  unfold cbsyncEffect
  rw [none_out]
  rfl

theorem spinfo_completes (h : Hd) (f : MF) : Completes State.registerRow (.spinfo h f) := by
  intro s x hi hx hok
  cases hx
  show execSpinfo h f s = _
  unfold execSpinfo
  refine issue_ok hi ?_
  rw [sIn_ok hok]
  exact ite_ok _ _ _

theorem rdsys_completes (h : Hd) (f : YF) : Completes State.registerRow (.rdsys h f) := by
  intro s x hi hx hok
  cases hx
  obtain ⟨hr, hd⟩ := Bool.and_eq_true_iff.1 hok
  refine issue_ok hi ?_
  unfold rdsysEffect
  rw [hr, need_true, sIn_ok hd]
  exact ite_ok _ _ _

theorem wrsys_completes (h : Hd) (f : YF) : Completes State.registerRow (.wrsys h f) := by
  intro s x hi hx hok
  cases hx
  simp only [Bool.and_eq_true] at hok
  obtain ⟨⟨hr, ha⟩, hu⟩ := hok
  refine issue_ok hi ?_
  unfold wrsysEffect
  rw [hr, need_true, sIn_ok ha, uni32_ok hu]
  exact ite_ok _ _ _

theorem meshid_completes (h : Hd) (f : YF) : Completes State.registerRow (.meshid h f) := by
  intro s x hi hx hok
  cases hx
  refine issue_ok hi ?_
  unfold meshidEffect
  rw [sIn_ok hok]
  exact ite_ok _ _ _

theorem pmark_completes (h : Hd) (f : YF) : Completes State.registerRow (.pmark h f) := by
  intro s x hi hx _
  cases hx
  exact issue_ok hi (ite_ok _ _ _)

theorem role_completes (h : Hd) (f : TF) : Completes State.registerRow (.role h f) := by
  intro s x hi hx hok
  cases hx
  refine issue_ok hi ?_
  unfold roleEffect
  rw [sIn_ok hok]
  generalize (if f.d.isK then s.acts h else s.part h != 0) = takesPart
  cases takesPart <;> rfl

/-- Settles O8: one lemma for each word of the row. -/
theorem pairGeneratorAndIdentityWordsComplete : Obligations.PairGeneratorAndIdentityWordsComplete := by
  intro i s x hi hx hok
  cases i with
  | imul64 h z => exact imul64_completes h z s x hi hx hok
  | iadd64 h z => exact iadd64_completes h z s x hi hx hok
  | lea h z => exact lea_completes h z s x hi hx hok
  | leaI h z => exact leaI_completes h z s x hi hx hok
  | cbsync h z => exact cbsync_completes h z s x hi hx hok
  | rngset h z => exact rngset_completes h z s x hi hx hok
  | rngskip h z => exact rngskip_completes h z s x hi hx hok
  | fxrd h z => exact fxrd_completes h z s x hi hx hok
  | fxclr h z => exact fxclr_completes h z s x hi hx hok
  | spinfo h f => exact spinfo_completes h f s x hi hx hok
  | rdsys h f => exact rdsys_completes h f s x hi hx hok
  | wrsys h f => exact wrsys_completes h f s x hi hx hok
  | clk h f => exact clk_completes h f s x hi hx hok
  | meshid h f => exact meshid_completes h f s x hi hx hok
  | pmark h f => exact pmark_completes h f s x hi hx hok
  | role h f => exact role_completes h f s x hi hx hok
  | _ => cases hx

end Sys2Proof.Machine
end

section
/-! A row that promises too much (R350, R471): where what an Aperture reads to find its surface lies on a peer, the read
needs the driver's leave for links to peers, and the word ends its launch without it. -/

namespace Sys2Proof.Machine

/-- Memory whose first GiB is mapped to itself, whose second is an Aperture page and whose third lies on a peer (R268 to
R270): the Aperture table at 0x20000 has one descriptor (R265), and the record of its surface of one texel stands on the
peer's page. -/
def farRecordMem : Mem :=
  let tables := ((Mem.write {} {} 0x10000 (bytesOfNat 8 0x11001)).write {} 0x11000 (bytesOfNat 8 0x0F)).write {} 0x11008
    (bytesOfNat 8 0x203 ++ bytesOfNat 8 0x403)
  (tables.write {} 0x20000 (bytesOfNat 8 0x40000000 ++ bytesOfNat 8 0x10000 ++ bytesOfNat 8 0x80000000 ++ bytesOfNat 8 1)).write {} (2 ^ 52)
    (bytesOfNat 8 0x21000 ++ bytesOfNat 8 0 ++ bytesOfNat 4 1 ++ bytesOfNat 4 1 ++ bytesOfNat 2 1 ++ bytesOfNat 2 0
      ++ bytesOfNat 4 64 ++ bytesOfNat 8 64)

/-- A beam that issues, in a launch of its own: the driver has enabled features 3 and 9 but not 7, and k2 and k3 hold the
first address of the Aperture, where the surface reads zero. -/
def farRecord : State :=
  let s := (State.reset.installWord 0).setReg 0x504 0x208#32
  let s := (s.setCtxReg 0 0x104 0x20000#32).setCtxReg 0 0x106 0x10000#32
  { s with mem := farRecordMem }.modCb fun b => b.setK 2 0x40000000#32

/-- JWAIT on the counter whose address k2 and k3 hold. -/
def joinAtK2 : Instr :=
  .jwait { gn := false, gp := 7, cf := false } { d := .k 0, a := .k 2, b := .k 0, ord := .none, tc := 0, tx := 0 }

/-- The code that a launch has trapped with once a step has answered. -/
def trappedBy (l : Nat) : Host.Outcome State Fault Refusal → Option Nat
  | .next t => (t.launch l).trapped
  | _ => none

theorem farRecord_issuing : farRecord.issuing = true := by decide +kernel

/-- The row lets the word go on, its launch untouched: the counter can be read and is zero. -/
theorem farRecord_waitRow :
    (farRecord.waitRow joinAtK2).any (fun x => x.ok && (x.next.launch 1).trapped.isNone) = true := by decide +kernel

/-- The word ends its launch with FEATURE_DISABLED and feature 7 (R393, R471). -/
theorem farRecord_traps : trappedBy 1 (exec joinAtK2 farRecord) = some (Code.featureDisabled + 256 * 7) := by decide +kernel

/-- Refutes O22: the row of JWAIT (R350) asks that the driver has enabled what the counter's page needs, and passes over
the pages that hold the Aperture's descriptors and its surface record. -/
theorem not_waitAndChildLaunchWordsComplete : ¬ Obligations.WaitAndChildLaunchWordsComplete := by
  intro h
  obtain ⟨x, hx, hrow⟩ := (Option.any_eq_true _ _).1 farRecord_waitRow
  obtain ⟨hok, hleft⟩ := Bool.and_eq_true_iff.1 hrow
  have traps := farRecord_traps
  rw [h joinAtK2 farRecord x farRecord_issuing hx hok, trappedBy, Option.isNone_iff_eq_none.1 hleft] at traps
  cases traps

end Sys2Proof.Machine
end

section
/-! The steps of the dispatchers, the gatherers, the spill FIFOs, the parked beams and the bins: each happens where its row
says. -/

namespace Sys2Proof.Machine

/-- A step of a row happens: where its condition holds, the machine takes the state that the row names. -/
def Happens (row : State → Instr → Option Done) (i : Instr) : Prop :=
  ∀ (s : State) (x : Done), row s i = some x → x.ok = true → exec i s = .next x.next

/-- A step that answers `r` leaves the state in it, and where it may not happen the machine as it was. -/
theorem event_eq {s : State} {f : State → Option State} {r : Option State} (h : f s = r) : event s f = .next (r.getD s) := by
  rw [event, h]

/-! ### Dispatchers and reservations (R126 to R128) -/

/-- With no head to discard, the best launch in order is taken from its queue or from the pool, and checked. -/
theorem dispatcherTake_of_none {s : State} (h : s.discardable s.sched.arg.a = none) :
    dispatcherTake s = (s.bestCand s.sched.arg.a).bind fun c => match c.src with
      | .inr l => some (s.check l none)
      | .inl q => (s.takeHead q s.sched.arg.a c.age).map fun x => x.2.2.check x.1 (some x.2.1) := by
  simp only [dispatcherTake, h]
  show (match s.bestCand s.sched.arg.a with | none => none | some c => _) = _
  cases s.bestCand s.sched.arg.a <;> rfl

theorem dispatcherTake_happens : Happens State.dispatchRow .dispatcherTake := by
  intro s x hx hok
  cases hd : s.discardable s.sched.arg.a with
  | some p =>
    obtain ⟨q, head⟩ := p
    refine event_some ?_
    simp only [State.dispatchRow, hd] at hx
    simp only [dispatcherTake, hd]
    cases head with
    | unreadable r c => cases hx; exact if_pos hok
    | bad => cases hx; rfl
    | ok r d raw => cases hx; rfl
  | none =>
    simp only [State.dispatchRow, hd] at hx
    cases hx
    refine event_eq ((dispatcherTake_of_none hd).trans ?_)
    cases s.bestCand s.sched.arg.a with
    | none => rfl
    | some c => obtain ⟨prio, age, rank, src⟩ := c; cases src <;> rfl

/-- A reservation with no plan chooses one; with a plan it holds its next core, gives up, or commits. -/
theorem reservationHold_happens : Happens State.dispatchRow .reservationHold := by
  intro s x hx hok
  cases hx
  obtain ⟨hm, hp⟩ := Bool.and_eq_true_iff.1 hok
  refine event_some ?_
  simp only [reservationHold, hm, Bool.not_true, Bool.false_eq_true, if_false]
  cases hplan : (s.launch s.sched.arg.a).plan with
  | nil =>
    simp only [hplan, ne_eq, not_true_eq_false, decide_false, Bool.false_or] at hp
    obtain ⟨p, hp⟩ := Option.isSome_iff_exists.1 hp
    simp only [hp, if_true, Option.map_some, Option.elim_some]
  | cons p ps =>
    cases htodo : (s.launch s.sched.arg.a).todo with
    | nil => rfl
    | cons c rest =>
      obtain ⟨G, core⟩ := c
      simp only [reduceCtorEq, if_false]
      cases s.holdCore s.sched.arg.a G core
          (((s.launch s.sched.arg.a).coresAt ((((p :: ps).find? fun q => q.1 == G).map (·.2)).getD (0, 0))).idxOf core)
          (s.allHolds.filter fun h => h.1 ≠ s.sched.arg.a) (s.launch s.sched.arg.a).holds with
      | none => rfl
      | some held => rfl

theorem reservationBackoff_happens : Happens State.dispatchRow .reservationBackoff := by
  intro s x hx hok
  cases hx
  exact event_some (if_pos (by simpa using hok))

theorem launchCompletionRecord_happens : Happens State.dispatchRow .launchCompletionRecord := by
  intro s x hx hok
  cases hx
  refine event_some (if_pos ?_)
  simpa [and_assoc] using hok

/-! ### Switch requests (R135) -/

/-- A workgroup that may switch up gets the request of the lowest variant that fits. -/
theorem swreqSet_happens : Happens State.dispatchRow .swreqSet := by
  intro s x hx hok
  cases hx
  simp only [Bool.and_eq_true] at hok
  obtain ⟨⟨hw, hm⟩, hr⟩ := hok
  obtain ⟨g, hg⟩ := Option.isSome_iff_exists.1 hw
  have hwg : s.wg s.sched.arg.a = g := by simp only [State.wg, hg, Option.getD_some]
  obtain ⟨r, hr⟩ := Option.isSome_iff_exists.1 hr
  rw [hwg] at hm hr
  refine event_some ?_
  simp only [swreqSet, hwg, hg, hm, hr, Bool.not_true, Bool.false_eq_true, if_false, Option.elim_some]

/-! ### The gatherer, its groups and the spill FIFOs (R344 to R346) -/

theorem spawnGatherTimer_happens : Happens State.dispatchRow .spawnGatherTimer := by
  intro s x hx hok
  cases hx
  simp only [Bool.and_eq_true] at hok
  obtain ⟨⟨⟨hcore, hfirst⟩, hmir⟩, hold⟩ := hok
  have hover : s.overdue s.sched.arg.a s.sched.arg.b s.sched.arg.c = true := by
    unfold State.overdue
    cases hw : s.waitingAt s.sched.arg.a s.sched.arg.b s.sched.arg.c with
    | nil => simp [hw] at hold
    | cons it its => simpa [hw, hmir] using hold
  refine event_some (if_neg ?_)
  simp_all

/-- A group whose resources fit is placed, with no eviction. -/
theorem tryGroup_of_fit {s : State} {core : Nat} {g : Group} {f : List Nat × List Nat × Nat} (n : Nat)
    (h : s.groupFit core g = some f) : s.tryGroup core g (n + 1) = some (s.placeGroup core g f) := by
  simp only [State.tryGroup, h]

theorem spawnGroupPlace_happens : Happens State.dispatchRow .spawnGroupPlace := by
  intro s x hx hok
  cases hx
  refine event_some ?_
  unfold groupPlace
  cases hg : (s.core s.sched.arg.a).groups with
  | nil => simp [hg] at hok
  | cons g gs =>
    simp only [hg, List.head?_cons, Option.any_some, Option.bind_some, Bool.and_eq_true, decide_eq_true_eq] at hok
    obtain ⟨hplaced, hfit⟩ := hok
    obtain ⟨f, hf⟩ := Option.isSome_iff_exists.1 hfit
    simp only [hplaced, hg, hf, List.head?_cons, Option.bind_some]
    exact tryGroup_of_fit 64 hf

theorem spillRefill_happens : Happens State.dispatchRow .spillRefill := by
  intro s x hx hok
  cases hx
  refine event_some (if_neg ?_)
  simp_all

/-! ### Parked beams and bins (R354, R357, R359) -/

theorem parkReload_happens : Happens State.dispatchRow .parkReload := by
  intro s x hx _
  cases hx
  refine event_eq ?_
  dsimp only [parkReload]
  split
  next h => rw [h]; rfl
  next bk b h =>
    rw [h, Option.bind_some]
    cases s.eventCome bk with
    | none => rfl
    | some w => cases s.oneBeam s.sched.arg.a (s.wg b.wg).nv (s.wg b.wg).ns <;> rfl

theorem binFireTimer_happens : Happens State.dispatchRow .binFireTimer := by
  intro s x hx hok
  cases hx
  refine event_some ?_
  obtain ⟨hmir, hdue⟩ := Bool.and_eq_true_iff.1 hok
  unfold binTimer
  cases hb : (s.launch s.sched.arg.a).openBin s.sched.arg.b with
  | none => simp [hb] at hdue
  | some b =>
    cases hn : (s.launch s.sched.arg.a).obj.nodes[s.sched.arg.b]? with
    | none => simp [hb, hn] at hdue
    | some n =>
      simp only [hb, hn] at hdue
      simp_all

/-- Of a launch's fired bins the one that fired first (R359). -/
def Launch.firstFired (x : Launch) : Option Bin :=
  (x.bins.filter (·.fired)).foldl (fun m b => match m with
    | none => some b
    | some y => if b.order < y.order then some b else some y) none

/-- A launch that has neither trapped nor been suspended places its first fired bin on the first core where it fits. -/
theorem binLaunch_of_running {s : State} (htrap : (s.launch s.sched.arg.a).trapped = none)
    (hsus : (s.launch s.sched.arg.a).suspended = false) :
    binLaunch s = (s.launch s.sched.arg.a).firstFired.bind fun b => ((s.launch s.sched.arg.a).obj.nodes[b.node]?).bind fun n =>
      ((s.launch s.sched.arg.a).lrec.cores.findSome? fun c =>
        (s.fitVariant s.sched.arg.a c s.allHolds none).map fun f => (c, f)).map fun r => s.placeBin s.sched.arg.a r.1 b n r.2 := by
  show (match (s.launch s.sched.arg.a).firstFired with | none => none | some b => _) = _
  cases (s.launch s.sched.arg.a).firstFired with
  | none => rfl
  | some b =>
    dsimp only [Option.bind_some]
    cases (s.launch s.sched.arg.a).obj.nodes[b.node]? with
    | none => rfl
    | some n => simp only [htrap, hsus, Option.isSome_none, Bool.or_self, Bool.false_eq_true, if_false, Option.bind_some]

theorem binLaunch_happens : Happens State.dispatchRow .binLaunch := by
  intro s x hx hok
  cases hx
  simp only [Bool.and_eq_true, Bool.not_eq_true', Option.isNone_iff_eq_none] at hok
  obtain ⟨⟨htrap, hsus⟩, -⟩ := hok
  exact event_eq (binLaunch_of_running htrap hsus)

/-- Settles O31: one lemma for each step of the row. -/
theorem dispatcherStepsComplete : Obligations.DispatcherStepsComplete := by
  intro i s x hx hok
  cases i with
  | dispatcherTake => exact dispatcherTake_happens s x hx hok
  | reservationHold => exact reservationHold_happens s x hx hok
  | reservationBackoff => exact reservationBackoff_happens s x hx hok
  | launchCompletionRecord => exact launchCompletionRecord_happens s x hx hok
  | swreqSet => exact swreqSet_happens s x hx hok
  | spawnGatherTimer => exact spawnGatherTimer_happens s x hx hok
  | spawnGroupPlace => exact spawnGroupPlace_happens s x hx hok
  | spillRefill => exact spillRefill_happens s x hx hok
  | parkReload => exact parkReload_happens s x hx hok
  | binFireTimer => exact binFireTimer_happens s x hx hok
  | binLaunch => exact binLaunch_happens s x hx hok
  | _ => cases hx

end Sys2Proof.Machine
end
